-- ==== Sys2Proof/Word.lean ====
section
/-! DEFINITION. The bit-vector types of the part: bytes and bus words, device time (48 bits, R17) and instants (64 bits, 48 integer and 16 fraction bits, R17). Pulse indices, periods and counts are numbers. -/
namespace Sys2Proof

/-- One byte of the exchange memory. -/
abbrev Byte := BitVec 8

/-- One 32-bit word of the local bus (R155, R164). -/
abbrev Word := BitVec 32

/-- A device time in µs, 48 bits, wrapping (R17). -/
abbrev Time := BitVec 48

/-- An instant in fine units, 64 bits, wrapping (R17). -/
abbrev Instant := BitVec 64

/-- The index of one of the 24 ports (Chapter 7). -/
abbrev PortIx := Fin 24

end Sys2Proof
end

