-- ==== Sys2Proof/Syntax.lean ====
section
/-! DEFINITION. The commands of the part: one constructor for each row of spec/opcode_table.json, in the table's order. The table gives its rows no operands; those here are what the named event carries (a bus access, a register word, a port, a pin level, a length). -/
namespace Sys2Proof

/-- The size of a host access (R155). -/
inductive AccessSize where
  | byte
  | half
  | word
  deriving DecidableEq, Repr

/-- A beat sense input (R50). -/
inductive BeatInput where
  | bsa
  | bsb
  deriving DecidableEq, Repr

/-- The commands: one constructor per row of the table. -/
inductive Instr where
  /-- POWER_ON -/
  | powerOn
  /-- HARD_RESET -/
  | hardReset
  /-- HOST_SLOT_WRITE: a host write access to the exchange memory. -/
  | hostSlotWrite (size : AccessSize) (addr data : Word)
  /-- STATUS_PROTECT: a host write access to the status page. -/
  | statusProtect (size : AccessSize) (addr data : Word)
  /-- FINISHED_MAP_WRITE: a host write access to the finished map. -/
  | finishedMapWrite (size : AccessSize) (addr data : Word)
  /-- RUN_ENABLE: a CONTROL write of this word. -/
  | runEnable (control : Word)
  /-- ATTN_ENABLE: a CONTROL write of this word. -/
  | attnEnable (control : Word)
  /-- CAPTURE_RELEASE: a CONTROL write of this word with its bit 10 as 1. -/
  | captureRelease (control : Word)
  /-- HOUSE_CLEAR: a CONTROL write of this word with its bit 9 as 1. -/
  | houseClear (control : Word)
  /-- RESTART: a CONTROL write of this word with its bit 8 as 1. -/
  | restart (control : Word)
  /-- ATTN_READ -/
  | attnRead
  /-- SERVICE: a write of this word to SERVICE. -/
  | service (data : Word)
  /-- NUDGE: a write of this word to NUDGE. -/
  | nudge (data : Word)
  /-- REGISTER_WRITE_DISCARDED: a write access to the register window. -/
  | registerWriteDiscarded (size : AccessSize) (offset data : Word)
  /-- NOTICE_DISCARDED -/
  | noticeDiscarded
  /-- SWEEP: this many of the sweep's visits. -/
  | sweep (visits : Nat)
  /-- BAD_KIND -/
  | badKind
  /-- TEMPO -/
  | tempo
  /-- METER -/
  | meter
  /-- TRANSPORT_START -/
  | transportStart
  /-- TRANSPORT_CONTINUE -/
  | transportContinue
  /-- TRANSPORT_STOP -/
  | transportStop
  /-- SEND -/
  | send
  /-- PORT_RUN -/
  | portRun
  /-- SCENE -/
  | scene
  /-- SCENE_HOUSE -/
  | sceneHouse
  /-- CANCEL_BY_SLOT -/
  | cancelBySlot
  /-- CANCEL_BY_SELECTOR -/
  | cancelBySelector
  /-- AMEND -/
  | amend
  /-- REPORT -/
  | report
  /-- PORT_SETUP -/
  | portSetup
  /-- FOLLOW_SETUP -/
  | followSetup
  /-- SUPERVISE -/
  | supervise
  /-- KEEP -/
  | keep
  /-- PLAN_EXTENSION -/
  | planExtension
  /-- REFERENCE_CURSOR_REACH -/
  | referenceCursorReach
  /-- PORT_REACH of one port. -/
  | portReach (port : PortIx)
  /-- BEAT_MARK: a rising edge on one beat sense input. -/
  | beatMark (input : BeatInput)
  /-- RAW_PRESENCE_CHANGE: a sense pin takes this level (true: asserted). -/
  | rawPresenceChange (port : PortIx) (level : Bool)
  /-- PRESENCE_RECOGNIZED at one port. -/
  | presenceRecognized (port : PortIx)
  /-- FLAP_ENTRY_AGED at one port. -/
  | flapEntryAged (port : PortIx)
  /-- SERVICE_TIMEOUT -/
  | serviceTimeout
  /-- CARRY_TIMER_EXPIRY -/
  | carryTimerExpiry
  /-- LEVEL_FRAME_BEGIN at one port. -/
  | levelFrameBegin (port : PortIx)
  /-- CHARACTER_END at one port. -/
  | characterEnd (port : PortIx)
  /-- CLOCK_PHASE_END at one port. -/
  | clockPhaseEnd (port : PortIx)
  /-- CLOCK_LEAD_IN at one port. -/
  | clockLeadIn (port : PortIx)
  /-- RESET_PULSE_END at one port. -/
  | resetPulseEnd (port : PortIx)
  /-- STEP_LEAD_IN at one port. -/
  | stepLeadIn (port : PortIx)
  /-- STEP_RESUME_FORM at one port. -/
  | stepResumeForm (port : PortIx)
  /-- STATUS_WRITE: this many of the status write's accesses. -/
  | statusWrite (accesses : Nat)
  /-- LOW_GAP_END at one port. -/
  | lowGapEnd (port : PortIx)
  /-- CLOSED_PHASE_END -/
  | closedPhaseEnd
  deriving DecidableEq, Repr

end Sys2Proof
end

