-- ==== Sys2Proof/Decode.lean ====
section
/-! DEFINITION. Command words: no row of the table gives bits, so no word spells a command (log 27). -/
namespace Sys2Proof

/-- The command that a word spells: none. -/
def decodeTableWord (_nbits _w : Nat) : Option Instr := none

end Sys2Proof
end

