-- ==== Sys2Proof/Config.lean ====
section
/-! DEFINITION. What the spec leaves free: the order in which the part's own blocks act when nothing waits in the command queue. -/
namespace Sys2Proof

/-- FREE VALUE (log 2). The n-th choice the part makes among the internal events it may take next. The spec says of events that arrive together that either order is consistent, and it gives no speed for the intake unit or the status writer; so the choice has no body and no proof can see it. -/
opaque Config.idleOrder : Nat → Nat

/-- FREE VALUE (log 38). How many engine accesses the RAM arbiter serves before the n-th host access that arrives during an engine's sequence. R156 lets host accesses fall between any two accesses of a sequence and does not say where; so the choice has no body and no proof can see it. -/
opaque Config.arbiterOrder : Nat → Nat

end Sys2Proof
end

