-- ==== Sys2Proof/Machine/State.lean ====
section
/-! DEFINITION. The state of the part as plain data, block by block of Figure 0-1, and its value after power-on and hard reset. -/
namespace Sys2Proof.Machine

/-! ## Codes -/

/-- Reason codes (Table 5-5). -/
inductive Reason where
  | none | badKind | badPort | wrongPortKind | badField | bulkRange | wrongMode | wrongTransport
  | following | stale | notHeld | late | detached | settling | portFull | stopped | bySlot
  | bySelector | portSetup | restart | house
  deriving DecidableEq, Repr

/-- Transport states (Table 1-3). -/
inductive Transport where
  | stopped | running | stopping
  deriving DecidableEq, Repr

/-- Device modes (Table 11-1). -/
inductive DeviceMode where
  | init | attended | carry | house
  deriving DecidableEq, Repr

/-- Follower states (Table 4-3). -/
inductive FollowerState where
  | off | seeking | locked | holding
  deriving DecidableEq, Repr

/-- Port kinds (Table 7-1). -/
inductive PortKind where
  | none | clock | step | level
  deriving DecidableEq, Repr

/-- Port states (Table 7-3). -/
inductive PortState where
  | idle | detached | acquiring | settling | locked | faulted
  deriving DecidableEq, Repr

/-- Join settings (Table 7-1). -/
inductive JoinSetting where
  | beat | bar | phrase4 | phrase8 | phrase16
  deriving DecidableEq, Repr

/-- Run states of CLOCK and STEP ports (R130). -/
inductive RunState where
  | run | halt
  deriving DecidableEq, Repr

/-- Lateness codes of port cues (Table 5-1, R94). -/
inductive Lateness where
  | strict | beat | bar | anytime
  deriving DecidableEq, Repr

/-- Pacing of a BULK SEND (R138); an INLINE SEND is paced as WHOLE. -/
inductive Pacing where
  | whole | perBeat | perTick
  deriving DecidableEq, Repr

/-- Modulators with their duty (Table 9-3). -/
inductive Modulator where
  | none | blink | pulse4 | pulse8 | pulse16
  deriving DecidableEq, Repr

/-- Attention causes in ATTN's bit order (Table 10-3). -/
inductive Cause where
  | finished | port | follow | mode | fault | transport
  deriving DecidableEq, Repr

/-- Fault kinds of the capture record (Table 11-6). -/
inductive FaultKind where
  | ownedWrite | statusProtect | noticeOverflow | serviceLost | portFlap | followLost | linkOverrun
  deriving DecidableEq, Repr

/-- Phases of the service monitor (R171, Table 11-4). -/
inductive ServicePhase where
  | stopped | long | closed | openPhase
  deriving DecidableEq, Repr

/-- The most recent service event (R172). -/
inductive ServiceEvent where
  | none | good | parity | early | timeout
  deriving DecidableEq, Repr

/-! ## The timeline -/

/-- A tempo segment (Table 2-4). -/
structure Segment where
  start : Nat
  p0 : Nat
  p1 : Nat
  len : Nat
  /-- progress: the k of the pulse last planned, held at `len` -/
  k : Nat
  deriving DecidableEq, Repr

/-- A phase spread in progress (R25): per-pulse share q, remainder r, pulses still to receive a share. -/
structure Spread where
  share : Int
  rem : Int
  count : Nat
  deriving DecidableEq, Repr

/-- The snapshot of a plan entry (Table 3-1). -/
structure Snapshot where
  seg : Segment
  meter : Nat
  origin : Nat
  spread : Option Spread
  balance : Int
  deriving DecidableEq, Repr

/-- A plan entry (Table 3-1). The global-applied flag is `applied ≠ []`; the entry names the cues so that hardening (R48) ends exactly those (log 22). -/
structure PlanEntry where
  pi : Nat
  instant : Instant
  period : Nat
  beatStart : Bool
  barStart : Bool
  stop : Bool
  bar : Nat
  beat : Nat
  /-- slots of the global cues applied at this pulse, in list order -/
  applied : List Nat
  /-- slots of the TEMPO cues passed over at this pulse (R45) -/
  passed : List Nat
  snap : Snapshot
  deriving DecidableEq, Repr

/-- The state that START or CONTINUE opened (R10, R12), from which a re-plan starts while the commit horizon is clear (R43). -/
structure Opening where
  first : Nat
  instant : Instant
  period : Nat
  meter : Nat
  origin : Nat
  bar : Nat
  beat : Nat
  /-- the run was begun by CONTINUE -/
  resumed : Bool
  deriving DecidableEq, Repr

/-- The held position of a stopped run (R9). -/
structure StoppedRun where
  pi : Nat
  bar : Nat
  beat : Nat
  deriving DecidableEq, Repr

/-- The timeline planner (Chapters 1 and 3). -/
structure Planner where
  transport : Transport
  stopped : Option StoppedRun
  heldPeriod : Nat
  heldMeter : Nat
  heldOrigin : Nat
  latched : Option Nat
  plan : List PlanEntry
  anchor : Option PlanEntry
  opening : Option Opening
  cursor : Option Nat
  history : List Instant
  horizon : Option Nat
  /-- pending inputs of R42: the follower segment's period -/
  pendPeriod : Option Nat
  /-- pending inputs of R42: the phase spread -/
  pendSpread : Option Spread
  /-- pending inputs of R42: the nudge balance -/
  pendBalance : Option Int
  deriving DecidableEq, Repr

/-! ## Cues -/

/-- The flags a cue earns (R79). -/
structure CueFlags where
  clamped : Bool
  moved : Bool
  late : Bool
  superseded : Bool
  deriving DecidableEq, Repr

/-- The kind-specific part of a schedule entry (Table 6-1): the clamped values intake handed over. -/
inductive CueBody where
  | tempo (period ramp : Nat)
  | meter (beats : Nat)
  | stop
  | send (bulk : Bool) (offset length : Nat) (pacing : Pacing) (chunk : Nat)
  | portRun (action : RunState)
  | scene (number fade : Nat) (modulator : Modulator) (first last : Nat)
  deriving DecidableEq, Repr

/-- A schedule entry (Table 6-1). Its list is where it stands. -/
structure Cue where
  slot : Nat
  tag : Nat
  due : Nat
  mark : Option Nat
  seq : BitVec 32
  revision : Nat
  grace : Lateness
  interval : Nat
  /-- attempts left; none is unlimited -/
  left : Option Nat
  fired : Nat
  skipped : Nat
  lastSkip : Reason
  flags : CueFlags
  body : CueBody
  /-- PI and device time of the last fired attempt (R79) -/
  lastFired : Option (Nat × Time)
  /-- byte count of the last SEND attempt (R139 to R141) -/
  bytes : Nat
  deriving DecidableEq, Repr

/-- A SEND in a STEP port's message queue, which is its in-flight set (R93, R136). -/
structure Flight where
  cue : Cue
  pi : Nat
  time : Time
  /-- message characters started on the line -/
  sent : Nat
  /-- kept releases of a paced message (R138) -/
  releases : Nat
  deriving DecidableEq, Repr

/-! ## Ports -/

/-- The nine port settings (Table 7-1). -/
structure Settings where
  kind : PortKind
  latency : Nat
  division : Nat
  join : JoinSetting
  settle : Nat
  rejoinHost : Bool
  mask : Bool
  negative : Bool
  frame : Nat
  deriving DecidableEq, Repr

/-- What wire A of a CLOCK port is doing (R127). -/
inductive APhase where
  | rest
  | active (ends : Time)
  | gap (ends : Time)
  deriving DecidableEq, Repr

/-- A waiting clock edge: its pulse and the length of its active phase in µs (R127). -/
structure Edge where
  pi : Nat
  width : Nat
  deriving DecidableEq, Repr

/-- The join form of a CLOCK port (R128). -/
inductive ClockForm where
  /-- no join form under way -/
  | none
  /-- join pulse j taken, RESET pulse not yet begun -/
  | pending (j : Nat)
  /-- RESET pulse high until `ends`; `late`: it began after the lead-in time; `reached`: the reach of j has come -/
  | pulse (j : Nat) (ends : Time) (late reached : Bool)
  /-- low gap after a late pulse -/
  | gap (j : Nat) (ends : Time) (reached : Bool)
  /-- RUN rises at the reach of j -/
  | ready (j : Nat)
  deriving DecidableEq, Repr

/-- The driver of a CLOCK port. -/
structure ClockLine where
  /-- polarity in effect on wire A: negative or not (R126) -/
  negative : Bool
  phase : APhase
  waiting : List Edge
  wireB : Bool
  form : ClockForm
  /-- RUN falls when the active phase of the last edge ends (R129) -/
  fallOwed : Bool
  deriving DecidableEq, Repr

/-- The origin of a queued timing character, for the withdrawals of R130 and R134. -/
inductive CharSource where
  | plain | joinForm | resumeForm
  deriving DecidableEq, Repr

/-- A character of the timing queue (R135). -/
structure TimingChar where
  code : BitVec 9
  source : CharSource
  /-- one of the four data characters of a POSITION unit (R132) -/
  posData : Bool
  deriving DecidableEq, Repr

/-- A character on the Step Link and the device time at which it ends (R131). -/
structure LineChar where
  code : BitVec 9
  ends : Time
  deriving DecidableEq, Repr

/-- The join form of a STEP port (R134). -/
inductive StepForm where
  | none
  | pending (j : Nat)
  /-- queued; `sent`: its START or RESUME has been started on the line -/
  | queued (j : Nat) (sent : Bool)
  deriving DecidableEq, Repr

/-- The driver of a STEP port. -/
structure StepLine where
  line : Option LineChar
  timing : List TimingChar
  /-- ABORT and STOP owed on the message side (R140) -/
  owed : List (BitVec 9)
  queue : List Flight
  form : StepForm
  resumeQueued : Bool
  deriving DecidableEq, Repr

/-- 192 levels. -/
abbrev Levels := Vector Byte 192

/-- The level mixer record (Table 9-2). -/
structure Mixer where
  fromL : Levels
  toL : Levels
  start : Nat
  len : Nat
  pos : Nat
  modulator : Modulator
  first : Nat
  last : Nat
  reached : Option Nat
  deriving DecidableEq, Repr

/-- A Level Link frame (R142, R144). -/
structure Frame where
  begin : Time
  /-- type HOUSE (48h) or LEVELS (00h) -/
  house : Bool
  levels : Levels
  /-- the device time at which the line falls idle inside an incomplete frame (R143) -/
  cut : Option Time
  deriving DecidableEq, Repr

/-- The frame sequence of a LEVEL port. -/
structure FrameLine where
  last : Option Frame
  /-- the first frame waits for the transmitter's last character (R143) -/
  waiting : Bool
  deriving DecidableEq, Repr

/-- One port (Chapters 7 to 9). -/
structure Port where
  settings : Settings
  state : PortState
  presence : Bool
  raw : Bool
  rawSince : Time
  cursor : Nat
  join : Option Nat
  joinMeter : Nat
  joinOrigin : Nat
  settleEnd : Option Nat
  flaps : List Time
  cues : List Cue
  run : RunState
  resume : Option Nat
  clock : ClockLine
  step : StepLine
  mixer : Mixer
  frames : FrameLine
  deriving DecidableEq, Repr

/-! ## Follower, supervision, host side -/

/-- The beat follower (Tables 4-1 and 4-2). -/
structure Follower where
  follow : Bool
  source : BeatInput
  offset : Int
  gt : Nat
  gp : Nat
  state : FollowerState
  marks : List Time
  period : Option Nat
  lastMark : Option Time
  rejects : Nat
  wide : Bool
  lastE : Int
  prevTaken : Option Time
  deriving DecidableEq, Repr

/-- The service monitor with its setup, and the carry timer (R170 to R172). -/
structure Service where
  window : Bool
  /-- period in µs -/
  period : Nat
  /-- carry limit in s -/
  carryLimit : Nat
  phase : ServicePhase
  start : Time
  length : Nat
  recent : ServiceEvent
  carry : Option Time
  deriving DecidableEq, Repr

/-- A filled fault capture record (R175). -/
structure FaultRecord where
  kind : FaultKind
  port : Option Nat
  slot : Option Nat
  pi : Nat
  time : Time
  more : Nat
  deriving DecidableEq, Repr

/-- A status write under way: accesses made, and the device time at its start (R163). -/
structure Writer where
  made : Nat
  since : Time
  deriving DecidableEq, Repr

/-- A host write access that waits at the RAM arbiter, and how many engine accesses are still served before it (R156, log 38). -/
structure WaitingAccess where
  after : Nat
  size : AccessSize
  addr : Word
  data : Word
  deriving DecidableEq, Repr

/-- The sweep of the intake unit (R84). -/
inductive Sweep where
  | none
  /-- under way; the next slot to visit -/
  | visiting (next : Nat)
  deriving DecidableEq, Repr

/-- Everything the spec gives the part. -/
structure Device where
  time : Time
  mem : List Host.Cell
  /-- host accesses that wait at the RAM arbiter during a command, first in, first out; none between commands (R156, log 38) -/
  arbiter : List WaitingAccess
  /-- how many of the host accesses at the front of the command queue have been served already, inside the command before them (log 38) -/
  ahead : Nat
  /-- the counter of the arbiter's free choices (log 38) -/
  turns : Nat
  /-- the slots whose protection flag is set, ascending (R158) -/
  prot : List Nat
  writer : Option Writer
  writerAgain : Bool
  notices : List Nat
  overflow : Bool
  seq : BitVec 32
  sweep : Sweep
  planner : Planner
  globals : List Cue
  follower : Follower
  ports : Vector Port 24
  house : Levels
  mode : DeviceMode
  service : Service
  keep : Bool
  /-- requested value and slot of the pending KEEP (R173) -/
  keepPending : Option (Bool × Nat)
  capture : Option FaultRecord
  runEnable : Bool
  attnEnable : BitVec 6
  attn : BitVec 6
  /-- the data last returned to the host by a read of ATTN (the model's output, log 6) -/
  readData : Word
  deriving DecidableEq, Repr

/-- The machine: the part, the queue of commands that wait for it (first in, first out), and the counter of the free choices made (log 2). -/
structure State extends Device where
  pending : List Instr
  choices : Nat
  deriving DecidableEq, Repr

/-- Machine faults: none. The spec lets every access complete (R155) and every event take its effect; what it calls a fault is a report to the capture record. Safe: no step is stopped. -/
inductive Fault where
  deriving DecidableEq, Repr

/-- Refusals: only the by-name rejection of a command without a meaning. -/
inductive Refusal where
  /-- Raised by an arm of `exec` that has no meaning yet; no arm raises it in this model. Safe. -/
  | notModelled (mnemonic : String)
  deriving DecidableEq, Repr

/-! ## Power-on values -/

/-- Table 7-1, defaults. -/
def Settings.default : Settings :=
  { kind := .none, latency := 0, division := 4, join := .bar, settle := 1, rejoinHost := false, mask := false, negative := false, frame := 25 }

/-- R145: all levels 0, no modulator. -/
def Mixer.zero : Mixer :=
  { fromL := Vector.replicate 192 0, toL := Vector.replicate 192 0, start := 0, len := 0, pos := 0, modulator := .none, first := 0, last := 0, reached := none }

/-- R126: wire A at its inactive level, wire B low. -/
def ClockLine.idle (negative : Bool) : ClockLine :=
  { negative := negative, phase := .rest, waiting := [], wireB := false, form := .none, fallOwed := false }

/-- R135, R136: transmitter idle, queues empty. -/
def StepLine.idle : StepLine :=
  { line := none, timing := [], owed := [], queue := [], form := .none, resumeQueued := false }

/-- Table 7-4, power-on: the sense pin's level is an input. -/
def Port.reset (raw : Bool) : Port :=
  { settings := Settings.default, state := .idle, presence := false, raw := raw, rawSince := 0, cursor := 0, join := none, joinMeter := 4, joinOrigin := 0,
    settleEnd := none, flaps := [], cues := [], run := .run, resume := none, clock := ClockLine.idle false, step := StepLine.idle, mixer := Mixer.zero,
    frames := { last := none, waiting := false } }

/-- Tables 1-5 and 3-4: STOPPED with no stopped run and nothing planned. -/
def Planner.reset : Planner :=
  { transport := .stopped, stopped := none, heldPeriod := 341333333, heldMeter := 4, heldOrigin := 0, latched := none, plan := [], anchor := none,
    opening := none, cursor := none, history := [], horizon := none, pendPeriod := none, pendSpread := none, pendBalance := none }

/-- Tables 4-1 and 4-2, power-on. -/
def Follower.reset : Follower :=
  { follow := false, source := .bsa, offset := 0, gt := 4, gp := 8, state := .off, marks := [], period := none, lastMark := none, rejects := 0,
    wide := false, lastE := 0, prevTaken := none }

/-- Table 11-3 defaults, monitor and carry timer stopped. -/
def Service.reset : Service :=
  { window := false, period := 500000, carryLimit := 10, phase := .stopped, start := 0, length := 0, recent := .none, carry := none }

/-- The part right after power-on or hard reset with no pin asserted: every byte of memory 0 and the first status write requested (R157). -/
def Device.reset : Device :=
  { time := 0, mem := [], arbiter := [], ahead := 0, turns := 0, prot := [], writer := some { made := 0, since := 0 }, writerAgain := false, notices := [], overflow := false, seq := 0, sweep := .none,
    planner := Planner.reset, globals := [], follower := Follower.reset, ports := Vector.replicate 24 (Port.reset false), house := Vector.replicate 192 255,
    mode := .init, service := Service.reset, keep := false, keepPending := none, capture := none, runEnable := false, attnEnable := 0, attn := 0, readData := 0 }

/-- The machine right after reset, with nothing waiting. -/
def State.reset : State :=
  { toDevice := Device.reset, pending := [], choices := 0 }

end Sys2Proof.Machine
end

