-- ==== Sys2Proof/Machine/Ops.lean ====
section
/-! DEFINITION. The named operations over the state: exchange memory, ports, attention causes, the status-write request, the fault capture, and the timeline's present. -/
namespace Sys2Proof.Machine

/-! ## Exchange memory (R155, R157): a list of (address, byte), addresses rising, no zero byte; an unlisted address reads 0 -/

/-- What an unlisted address reads as: R157, every byte is 0 after power-on and hard reset. -/
def Memory.unlisted : Byte := 0

/-- Reads one byte. -/
def Memory.read : List Host.Cell → Nat → Byte
  | [], _ => Memory.unlisted
  | (b, w) :: m, a => if a = b then w else Memory.read m a

/-- Writes one byte, keeping the canonical form. -/
def Memory.write : List Host.Cell → Nat → Byte → List Host.Cell
  | [], a, v => if v = Memory.unlisted then [] else [(a, v)]
  | (b, w) :: m, a, v =>
    if a < b then (if v = Memory.unlisted then (b, w) :: m else (a, v) :: (b, w) :: m)
    else if a = b then (if v = Memory.unlisted then m else (a, v) :: m)
    else (b, w) :: Memory.write m a v

/-- Every listed address is above `lo` (none: no bound) and rising, and every listed byte is not the unlisted one. -/
def Memory.wfAbove : Option Nat → List Host.Cell → Bool
  | _, [] => true
  | lo, (b, w) :: m => (match lo with | none => true | some l => decide (l < b)) && decide (w ≠ Memory.unlisted) && Memory.wfAbove (some b) m

/-- The canonical form. -/
def Memory.wf (m : List Host.Cell) : Bool := Memory.wfAbove none m

/-- Reads n bytes, little-endian (Section 6.5 of 00). -/
def Memory.readLE (m : List Host.Cell) (a : Nat) : Nat → Nat
  | 0 => 0
  | n + 1 => (Memory.read m a).toNat + 256 * Memory.readLE m (a + 1) n

/-- Writes the n low bytes of v, little-endian. -/
def Memory.writeLE (m : List Host.Cell) (a : Nat) : Nat → Nat → List Host.Cell
  | 0, _ => m
  | n + 1, v => Memory.writeLE (Memory.write m a (BitVec.ofNat 8 v)) (a + 1) n (v / 256)

/-- Writes the same byte to n addresses from a on. -/
def Memory.writeBytes (m : List Host.Cell) (a : Nat) : List Byte → List Host.Cell
  | [] => m
  | v :: vs => Memory.writeBytes (Memory.write m a v) (a + 1) vs

/-- An engine read of n bytes at a. -/
def Device.peek (d : Device) (a n : Nat) : Nat := Memory.readLE d.mem a n

/-- Table 10-1: where slot n begins (R69). -/
def slotBase (n : Nat) : Nat := 0x1000 + 64 * n

/-- Table 10-1: where scene n begins (R147). -/
def sceneBase (n : Nat) : Nat := 0x9000 + 192 * n

/-- Table 10-1: where the bulk area begins. -/
def bulkBase : Nat := 0xC000

/-- Table 10-1: where the finished map begins (R161). -/
def mapBase : Nat := 0x400

/-- The state byte of slot n. -/
def Device.slotState (d : Device) (n : Nat) : Nat := d.peek (slotBase n) 1

/-! ## Numbers -/

/-- The highest pulse index (R1). -/
def maxPI : Nat := 4294967295

/-- A count that stops at 65,535 (R92). -/
def satInc (n : Nat) : Nat := if n ≥ 65535 then 65535 else n + 1

/-- The revision's next value: it wraps from 65,535 to 1 (R92). -/
def nextRevision (n : Nat) : Nat := if n ≥ 65535 then 1 else n + 1

/-- Inserts a number into an ascending list without repeats. -/
def insertNat (a : Nat) : List Nat → List Nat
  | [] => [a]
  | b :: l => if a < b then a :: b :: l else if a = b then b :: l else b :: insertNat a l

/-- A list of numbers in ascending order without repeats. -/
def sortNats (l : List Nat) : List Nat := l.foldr insertNat []

/-! ## Ports -/

/-- The 24 ports in ascending index. -/
def allPorts : List PortIx :=
  [0, 1, 2, 3, 4, 5, 6, 7, 8, 9, 10, 11, 12, 13, 14, 15, 16, 17, 18, 19, 20, 21, 22, 23]

/-- The record of port p. -/
def Device.port (d : Device) (p : PortIx) : Port := d.ports.get p

/-- Replaces the record of port p. -/
def Device.setPort (d : Device) (p : PortIx) (x : Port) : Device := { d with ports := d.ports.set p x }

/-- Changes the record of port p. -/
def Device.modPort (d : Device) (p : PortIx) (f : Port → Port) : Device := d.setPort p (f (d.port p))

/-- Does the same to every port, in ascending index (log 50). -/
def Device.eachPort (d : Device) (f : Device → PortIx → Device) : Device := allPorts.foldl f d

/-- SETTLING or LOCKED: the port follows the timeline. -/
def PortState.joined : PortState → Bool
  | .settling | .locked => true
  | _ => false

/-- ACQUIRING, SETTLING or LOCKED: the port counts toward Lmax (R33). -/
def PortState.counts : PortState → Bool
  | .acquiring | .settling | .locked => true
  | _ => false

/-- Lmax (R33): the largest latency among the ports that count, 0 if there is none. -/
def Device.lmax (d : Device) : Nat :=
  allPorts.foldl (fun m p => if (d.port p).state.counts then Nat.max m (d.port p).settings.latency else m) 0

/-! ## Attention causes (R166) -/

/-- The bit of a cause in ATTN (Table 10-3). -/
def Cause.bit : Cause → BitVec 6
  | .finished => 1
  | .port => 2
  | .follow => 4
  | .mode => 8
  | .fault => 16
  | .transport => 32

/-- Latches a cause. -/
def Device.latch (d : Device) (c : Cause) : Device := { d with attn := d.attn ||| c.bit }

/-- The interrupt line (R166): asserted while a latched cause is enabled. -/
def Device.interruptLine (d : Device) : Bool := (d.attn &&& d.attnEnable) != 0

/-! ## Status write (R162) -/

/-- A request for a status write: it starts one, or marks a further one. -/
def Device.requestStatus (d : Device) : Device :=
  match d.writer with
  | none => { d with writer := some { made := 0, since := d.time } }
  | some _ => { d with writerAgain := true }

/-! ## The timeline's present -/

/-- Device time of an instant: its fraction discarded (R17). -/
def instantTime (i : Instant) : Time := i.extractLsb' 16 48

/-- The instant of a whole device time. -/
def timeInstant (t : Time) : Instant := t.setWidth 64 <<< 16

/-- a − b, the signed difference modulo 2^48 (R17). -/
def timeDiff (a b : Time) : Int := (a - b).toInt

/-- Device time a is at or after b (R17). -/
def timeReached (a b : Time) : Bool := decide (0 ≤ timeDiff a b)

/-- t plus n µs. -/
def timePlus (t : Time) (n : Nat) : Time := t + BitVec.ofNat 48 n

/-- t minus n µs. -/
def timeMinus (t : Time) (n : Nat) : Time := t - BitVec.ofNat 48 n

/-- a − b in fine units, the signed difference modulo 2^64 (log 19). -/
def instDiff (a b : Instant) : Int := (a - b).toInt

/-- The low 32 bits of a device time (R17). -/
def timeLow32 (t : Time) : Nat := t.toNat % 4294967296

/-- The first PI of the run under way (R10, R12). -/
def Device.runFirst (d : Device) : Nat := match d.planner.opening with | some o => o.first | none => 0

/-- The current PI (R1, R36): the last PI the reference cursor has reached, the run's first PI before it has reached one; while STOPPED that of the last stop pulse. -/
def Device.currentPI (d : Device) : Nat :=
  match d.planner.transport with
  | .stopped => match d.planner.stopped with | some r => r.pi | none => 0
  | _ => match d.planner.cursor with
    | some k => Nat.max d.runFirst (k - 1)
    | none => d.runFirst

/-- The entry the planner has for pulse k: in the plan, or the anchor (R42). -/
def Device.entryAt (d : Device) (k : Nat) : Option PlanEntry :=
  match d.planner.plan.find? (fun e => e.pi == k) with
  | some e => some e
  | none => match d.planner.anchor with
    | some e => if e.pi = k then some e else none
    | none => none

/-- The entry of the current PI: the anchor, the run's first entry before any pulse is reached, or the plan's head while the reference cursor is reaching it (R36, R37). -/
def Device.currentEntry (d : Device) : Option PlanEntry := d.entryAt d.currentPI

/-- The plan's entry for pulse k. It is what a port reads: no port reads the anchor (R37). -/
def Device.planEntry (d : Device) (k : Nat) : Option PlanEntry := d.planner.plan.find? fun e => e.pi == k

/-- Entry C (R42): the hard entry for C, or the anchor. -/
def Device.entryC (d : Device) : Option PlanEntry :=
  match d.planner.horizon with
  | some c => d.entryAt c
  | none => none

/-- The stopped run can be continued (R15, Table 1-4). -/
def Planner.canContinue (p : Planner) : Bool :=
  match p.stopped with
  | some r => decide (r.pi < maxPI)
  | none => false

/-- The first PI of the next run (Table 6-2). -/
def Device.nextFirst (d : Device) : Nat :=
  match d.planner.stopped with
  | some r => if r.pi < maxPI then r.pi + 1 else 0
  | none => 0

/-- C+1, or the run's first PI while C is clear (Table 6-2). -/
def Device.firstSoft (d : Device) : Nat :=
  match d.planner.horizon with
  | some c => c + 1
  | none => d.runFirst

/-- The PI of the tail entry. -/
def Device.tailPI (d : Device) : Option Nat := d.planner.plan.getLast?.map (·.pi)

/-- The transport is RUNNING or STOPPING. -/
def Device.runUnderWay (d : Device) : Bool := d.planner.transport != .stopped

/-! ## Fault capture (R175) -/

/-- A fault reported to the capture: it fills the empty record or raises the more-count, and latches FAULT. -/
def Device.captureFault (d : Device) (kind : FaultKind) (port slot : Option Nat) : Device :=
  match d.capture with
  | none =>
    ({ d with capture := some { kind := kind, port := port, slot := slot, pi := d.currentPI, time := d.time, more := 0 } }.latch .fault).requestStatus
  | some r =>
    if r.more < 255 then ({ d with capture := some { r with more := r.more + 1 } }.latch .fault).requestStatus
    else d.latch .fault

/-- A change of transport state (Section 1.4): cause TRANSPORT and a status write. -/
def Device.setTransport (d : Device) (t : Transport) : Device :=
  if d.planner.transport = t then d
  else ({ d with planner := { d.planner with transport := t } }.latch .transport).requestStatus

/-! ## Protection flags (R158) -/

/-- Clears the protection flag of slot n (R158). -/
def Device.unprotect (d : Device) (n : Nat) : Device := { d with prot := d.prot.filter (· != n) }

/-- Sets the protection flag of slot n (R158). -/
def Device.protect (d : Device) (n : Nat) : Device := { d with prot := insertNat n d.prot }

end Sys2Proof.Machine
end

