-- ==== Sys2Proof/Machine/Flags.lean ====
section
/-! DEFINITION. Codes, flags and result bytes: slot states, reasons, flags out, the result region of a slot, the codes of the status page. -/
namespace Sys2Proof.Machine

/-! ## Slot state codes (Table 5-2) -/

/-- FREE -/
def stFree : Nat := 0x00
/-- POSTED -/
def stPosted : Nat := 0x01
/-- HELD -/
def stHeld : Nat := 0x02
/-- FIRED -/
def stFired : Nat := 0x10
/-- DONE -/
def stDone : Nat := 0x11
/-- CANCELLED -/
def stCancelled : Nat := 0x12
/-- MISSED -/
def stMissed : Nat := 0x13
/-- REFUSED -/
def stRefused : Nat := 0x14

/-- Reason codes (Table 5-5). -/
def Reason.code : Reason → Nat
  | .none => 0x00
  | .badKind => 0x01
  | .badPort => 0x02
  | .wrongPortKind => 0x03
  | .badField => 0x04
  | .bulkRange => 0x05
  | .wrongMode => 0x06
  | .wrongTransport => 0x07
  | .following => 0x08
  | .stale => 0x09
  | .notHeld => 0x0A
  | .late => 0x0B
  | .detached => 0x0C
  | .settling => 0x0D
  | .portFull => 0x0E
  | .stopped => 0x0F
  | .bySlot => 0x10
  | .bySelector => 0x11
  | .portSetup => 0x12
  | .restart => 0x13
  | .house => 0x14

/-- A flag as a number. -/
def bit (b : Bool) : Nat := if b then 1 else 0

/-- Flags out (Table 5-1, offset 49): bit 0 CLAMPED, 1 MOVED, 2 LATE, 3 SUPERSEDED, the rest 0. -/
def CueFlags.toByte (f : CueFlags) : Nat := bit f.clamped + 2 * bit f.moved + 4 * bit f.late + 8 * bit f.superseded

/-- No flag earned. -/
def CueFlags.clear : CueFlags := { clamped := false, moved := false, late := false, superseded := false }

/-- Only CLAMPED, as intake sets it (R88). -/
def CueFlags.ofClamped (c : Bool) : CueFlags := { CueFlags.clear with clamped := c }

/-! ## The result region of a slot (Table 5-1, R79 to R81) -/

/-- What the part writes into bytes 48 to 63. -/
structure Result where
  reason : Reason
  flags : CueFlags
  revision : Nat
  firePI : Nat
  fireTime : Nat
  fired : Nat
  aux : Nat
  deriving DecidableEq, Repr

/-! ## Codes of the status page (Table 10-2) -/

/-- Transport state byte. -/
def Transport.code : Transport → Nat
  | .stopped => 0
  | .running => 1
  | .stopping => 2

/-- Device mode byte. -/
def DeviceMode.code : DeviceMode → Nat
  | .init => 0
  | .attended => 1
  | .carry => 2
  | .house => 3

/-- Follower state byte. -/
def FollowerState.code : FollowerState → Nat
  | .off => 0
  | .seeking => 1
  | .locked => 2
  | .holding => 3

/-- Port state byte. -/
def PortState.code : PortState → Nat
  | .idle => 0
  | .detached => 1
  | .acquiring => 2
  | .settling => 3
  | .locked => 4
  | .faulted => 5

/-- Port kind byte. -/
def PortKind.code : PortKind → Nat
  | .none => 0
  | .clock => 1
  | .step => 2
  | .level => 3

/-- Fault kind byte (Table 11-6). -/
def FaultKind.code : FaultKind → Nat
  | .ownedWrite => 1
  | .statusProtect => 2
  | .noticeOverflow => 3
  | .serviceLost => 4
  | .portFlap => 5
  | .followLost => 6
  | .linkOverrun => 7

/-- Run state byte. -/
def RunState.code : RunState → Nat
  | .run => 0
  | .halt => 1

/-- Phase bits of the service state byte (Table 11-4). -/
def ServicePhase.code : ServicePhase → Nat
  | .stopped => 0
  | .long => 1
  | .closed => 2
  | .openPhase => 3

/-- Event bits of the service state byte (Table 11-4). -/
def ServiceEvent.code : ServiceEvent → Nat
  | .none => 0
  | .good => 1
  | .parity => 2
  | .early => 3
  | .timeout => 4

/-- The service state byte (Table 11-4). -/
def Device.serviceByte (d : Device) : Nat :=
  d.service.phase.code + 4 * d.service.recent.code + 32 * bit d.keep + 64 * bit d.keepPending.isSome

/-- A signed value in n bytes, two's complement (00, Section 6.4). -/
def signedBytes (n : Nat) (v : Int) : Nat := (v % (256 ^ n : Nat)).toNat

end Sys2Proof.Machine
end

