-- ==== Sys2Proof/Machine/Tempo.lean ====
section
/-! DEFINITION. Tempo arithmetic (Chapter 2): conversions, segment values, period modifiers, due times, beat boundaries. All intermediate values are exact (R30). -/
namespace Sys2Proof.Machine

/-- The tempo constant (Section 2.2 of 02). -/
def tempoConstant : Nat := 40960000000000

/-- The lowest legal period, 300 BPM (Section 6.3 of 00). -/
def periodMin : Nat := 136533333

/-- The highest legal period, 40 BPM. -/
def periodMax : Nat := 1024000000

/-- a / b rounded to the nearest integer, halves up. -/
def roundDiv (a b : Nat) : Nat := (2 * a + b) / (2 * b)

/-- Clamp to the period range (R24 step 3). -/
def clampPeriod (x : Int) : Nat :=
  if x < periodMin then periodMin else if (periodMax : Int) < x then periodMax else x.toNat

/-- R19: the mBPM used. -/
def clampTempo (m : Nat) : Nat := if m < 40000 then 40000 else if 300000 < m then 300000 else m

/-- R19: tempo in mBPM to period. -/
def tempoToPeriod (m : Nat) : Nat := roundDiv tempoConstant m

/-- R20: period to tempo readout. -/
def tempoReadout (p : Nat) : Nat := roundDiv tempoConstant p

/-- R28: an interval of D µs spanning b beats as a period. -/
def intervalPeriod (us beats : Nat) : Nat := clampPeriod (roundDiv (us * 65536) (beats * 96))

/-- The constant segment at a pulse (R10, R12, R22). -/
def Segment.const (start p : Nat) : Segment := { start := start, p0 := p, p1 := p, len := 0, k := 0 }

/-- R21: the segment value of pulse k. -/
def Segment.value (g : Segment) (pi : Nat) : Nat :=
  if pi ≤ g.start then g.p0
  else if pi - g.start ≤ g.len then
    ((g.p0 : Int) + (((g.p1 : Int) - g.p0) * ((pi - g.start : Nat) : Int)).tdiv g.len).toNat
  else g.p1

/-- R21: the progress recorded at pulse k. -/
def Segment.progressed (g : Segment) (pi : Nat) : Segment := { g with k := Nat.min (pi - g.start) g.len }

/-- R22: the segment a TEMPO cue opens at a pulse, under the segment it replaces. -/
def Segment.opened (g : Segment) (pi target ramp : Nat) : Segment :=
  { start := pi, p0 := g.value pi, p1 := target, len := ramp, k := 0 }

/-- R25: a phase spread of S. -/
def Spread.begin (s : Int) : Spread := { share := s.tdiv 96, rem := s - 96 * s.tdiv 96, count := 96 }

/-- R25: the share of the next pulse. -/
def spreadShare : Option Spread → Int
  | none => 0
  | some s => if s.count ≤ 1 then s.share + s.rem else s.share

/-- R25: the spread after the next pulse. -/
def spreadNext : Option Spread → Option Spread
  | none => none
  | some s => if s.count ≤ 1 then none else some { s with count := s.count - 1 }

/-- R26: the nudge unit of a pulse of segment value r, from the balance. -/
def nudgeUnit (balance : Int) (r : Nat) : Int :=
  if 0 < balance then (r / 8 : Nat) else if balance < 0 then -((r / 8 : Nat) : Int) else 0

/-- R49: the balance after the pulse's unit is spent. -/
def nudgeSpent (balance : Int) : Int :=
  if 0 < balance then balance - 1 else if balance < 0 then balance + 1 else 0

/-- R49: a balance saturated to −64 to +64. -/
def saturate64 (b : Int) : Int := if b < -64 then -64 else if 64 < b then 64 else b

/-- R24: the period used. -/
def periodUsed (r : Nat) (spread : Option Spread) (balance : Int) : Nat :=
  clampPeriod ((r : Int) + spreadShare spread + nudgeUnit balance r)

/-- R2: pulse k is a beat start. -/
def isBeatStart (k : Nat) : Bool := k % 96 == 0

/-- R2, R7: pulse k lies a non-negative multiple of n bars above the origin. -/
def isBarMultiple (k meter origin n : Nat) : Bool := decide (origin ≤ k) && (k - origin) % (n * meter * 96) == 0

/-- R2: pulse k is a bar start. -/
def isBarStart (k meter origin : Nat) : Bool := isBarMultiple k meter origin 1

/-- The bars in a phrase of a join setting; 0 for BEAT (R7). -/
def JoinSetting.bars : JoinSetting → Nat
  | .beat => 0
  | .bar => 1
  | .phrase4 => 4
  | .phrase8 => 8
  | .phrase16 => 16

/-- R118: pulse k is a join boundary under this meter and origin. -/
def isBoundary (j : JoinSetting) (k meter origin : Nat) : Bool :=
  match j with
  | .beat => isBeatStart k
  | _ => isBarMultiple k meter origin j.bars

/-- The lowest k at or above lo with k − base a non-negative multiple of step (base ≤ lo). -/
def nextMultiple (base step lo : Nat) : Nat := base + ((lo - base + (step - 1)) / step) * step

/-- R7, R118: the lowest join boundary at or above lo under this meter and origin. -/
def nextBoundary (j : JoinSetting) (lo meter origin : Nat) : Nat :=
  match j with
  | .beat => nextMultiple 0 96 lo
  | _ => nextMultiple origin (j.bars * meter * 96) (Nat.max lo origin)

/-- R8: the smallest grid point of g beats at or above r, at most the last PI. -/
def gridPoint (g origin r : Nat) : Nat :=
  Nat.min maxPI (r + (((origin : Int) - r) % ((g * 96 : Nat) : Int)).toNat)

/-- R8: the values G may take. -/
def isGridBeats (g : Nat) : Bool := [1, 2, 4, 8, 16, 32, 64].contains g

/-- R127: the lowest division boundary above k. -/
def boundaryAbove (division k : Nat) : Nat := (k / division + 1) * division

/-- R27: the due time of an entry for a latency. -/
def PlanEntry.due (e : PlanEntry) (latency : Nat) : Time := timeMinus (instantTime e.instant) latency

/-- R20, R44: the segment value recorded in an entry. -/
def PlanEntry.segValue (e : PlanEntry) : Nat := e.snap.seg.value e.pi

/-- R29: |e| µs exceeds the beat length of period p divided by d. -/
def exceedsBeat (e : Int) (d p : Nat) : Bool := decide (96 * p < e.natAbs * 65536 * d)

/-- R29: |e| µs is less than the beat length of period p divided by d. -/
def belowBeat (e : Int) (d p : Nat) : Bool := decide (e.natAbs * 65536 * d < 96 * p)

end Sys2Proof.Machine
end

