-- ==== Sys2Proof/Machine/Operands.lean ====
section
/-! DEFINITION. Operand forms: host addresses, register words, and the fields of a cue slot (Tables 5-1, 5-3, 5-4, 10-3). -/
namespace Sys2Proof.Machine

/-! ## Bus accesses (R155, R164) -/

/-- The bytes of an access. -/
def AccessSize.bytes : AccessSize → Nat
  | .byte => 1
  | .half => 2
  | .word => 4

/-- R155: the offset an exchange-memory access acts on: 17 address bits, those below the size cleared. -/
def hostOffset (size : AccessSize) (addr : Word) : Nat :=
  (addr.toNat % 131072) / AccessSize.bytes size * AccessSize.bytes size

/-- R155, R164: the offset a register-window access acts on, a word offset of 00h to 1Ch. -/
def registerOffset (offset : Word) : Nat := offset.toNat % 32 / 4 * 4

/-- Bit n of a register word. -/
def wordBit (w : Word) (n : Nat) : Bool := w.getLsbD n

/-- R67: the signed count a NUDGE write stands for. -/
def nudgeCount (w : Word) : Int :=
  let n : Int := ((w.extractLsb' 0 4).toNat : Int)
  if wordBit w 4 then -n else n

/-- R171: the number of ones among bits 0 to 15 of a SERVICE word is odd. -/
def oddParity (w : Word) : Bool := (List.range 16).foldl (fun b n => b != wordBit w n) false

/-- IDENT (Table 10-3). -/
def identValue : Word := 0x4018015A

/-! ## Slot fields (Table 5-1) -/

/-- A field of slot n. -/
def Device.field (d : Device) (n off size : Nat) : Nat := d.peek (slotBase n + off) size

/-- Slot n's kind code. -/
def Device.kindOf (d : Device) (n : Nat) : Nat := d.field n 1 1
/-- Slot n's tag. -/
def Device.tagOf (d : Device) (n : Nat) : Nat := d.field n 2 2
/-- Slot n's port byte. -/
def Device.portByte (d : Device) (n : Nat) : Nat := d.field n 4 1
/-- Slot n's fire mode. -/
def Device.fireMode (d : Device) (n : Nat) : Nat := d.field n 5 1
/-- Slot n's lateness code. -/
def Device.latenessOf (d : Device) (n : Nat) : Nat := d.field n 6 1
/-- Slot n's options byte. -/
def Device.optionsOf (d : Device) (n : Nat) : Nat := d.field n 7 1
/-- Slot n's fire value. -/
def Device.fireValue (d : Device) (n : Nat) : Nat := d.field n 8 4
/-- Slot n's repeat interval. -/
def Device.intervalOf (d : Device) (n : Nat) : Nat := d.field n 12 2
/-- Slot n's repeat count. -/
def Device.countOf (d : Device) (n : Nat) : Nat := d.field n 14 2

/-- A two's-complement 32-bit field as a number (00, Section 6.4). -/
def signed32 (v : Nat) : Int := (BitVec.ofNat 32 v).toInt

/-- A port byte as a port, if it names one. -/
def portOf (v : Nat) : Option PortIx := if h : v < 24 then some ⟨v, h⟩ else none

/-- Lateness by code (Table 5-1). -/
def Lateness.ofCode : Nat → Lateness
  | 0 => .strict
  | 1 => .beat
  | 2 => .bar
  | _ => .anytime

/-- Pacing by code (Table 5-4). -/
def Pacing.ofCode : Nat → Pacing
  | 0 => .whole
  | 1 => .perBeat
  | _ => .perTick

/-- Modulator and duty by code (Table 5-4). -/
def Modulator.ofCode (m duty : Nat) : Modulator :=
  match m with
  | 0 => .none
  | 1 => .blink
  | _ => match duty with
    | 0 => .pulse4
    | 1 => .pulse8
    | _ => .pulse16

/-- Port kind by code (Table 5-4). -/
def PortKind.ofCode : Nat → PortKind
  | 0 => .none
  | 1 => .clock
  | 2 => .step
  | _ => .level

/-- Join setting by code (Table 5-4). -/
def JoinSetting.ofCode : Nat → JoinSetting
  | 0 => .beat
  | 1 => .bar
  | 2 => .phrase4
  | 3 => .phrase8
  | _ => .phrase16

/-- The twelve divisions (Table 5-4). -/
def isDivision (v : Nat) : Bool := [1, 2, 3, 4, 6, 8, 12, 16, 24, 32, 48, 96].contains v

/-- The service period by code, in µs (Table 5-4). -/
def servicePeriod : Nat → Nat
  | 0 => 100000
  | 1 => 200000
  | 2 => 500000
  | 3 => 1000000
  | _ => 2000000

/-- The 13 kind codes (Table 5-3). -/
def isKindCode (v : Nat) : Bool := [0x01, 0x02, 0x03, 0x10, 0x11, 0x12, 0x20, 0x21, 0x22, 0x30, 0x31, 0x32, 0x33].contains v

/-- The rows of the command table that take a slot. -/
inductive TakeRow where
  | badKind | tempo | meter | transportStart | transportContinue | transportStop | send | portRun | scene | sceneHouse
  | cancelBySlot | cancelBySelector | amend | report | portSetup | followSetup | supervise | keep
  deriving DecidableEq, Repr

/-- The row that the take of slot n is (Table 5-3; a TRANSPORT with an unknown action is a TRANSPORT_STOP take and a CANCEL with unknown options a CANCEL_BY_SLOT take, log 7). -/
def Device.takeRow (d : Device) (n : Nat) : TakeRow :=
  match d.kindOf n with
  | 0x01 => .tempo
  | 0x02 => .meter
  | 0x03 => match d.field n 16 1 with
    | 0 => .transportStart
    | 1 => .transportContinue
    | _ => .transportStop
  | 0x10 => .send
  | 0x11 => .portRun
  | 0x12 => if d.portByte n = 0xFE then .sceneHouse else .scene
  | 0x20 => if d.optionsOf n = 1 then .cancelBySelector else .cancelBySlot
  | 0x21 => .amend
  | 0x22 => .report
  | 0x30 => .portSetup
  | 0x31 => .followSetup
  | 0x32 => .supervise
  | 0x33 => .keep
  | _ => .badKind

/-- The kind code of a schedule entry (Table 5-3). -/
def CueBody.kindCode : CueBody → Nat
  | .tempo _ _ => 0x01
  | .meter _ => 0x02
  | .stop => 0x03
  | .send _ _ _ _ _ => 0x10
  | .portRun _ => 0x11
  | .scene _ _ _ _ _ => 0x12

end Sys2Proof.Machine
end

