-- ==== Sys2Proof/Machine/HostPort.lean ====
section
/-! DEFINITION. Host writes to the exchange memory (R155, R157 to R161, R69, R71), the slot watch and the give-back of a KEEP (R173). -/
namespace Sys2Proof.Machine

/-- Byte i of a bus word. -/
def wordByte (w : Word) (i : Nat) : Byte := w.extractLsb' (8 * i) 8

/-- The bytes an access carries, lowest address first. -/
def accessBytes (size : AccessSize) (data : Word) : List Byte := (List.range (AccessSize.bytes size)).map (wordByte data)

/-- R157: a landing RAM write. -/
def Device.landBytes (d : Device) (a : Nat) (bytes : List Byte) : Device := { d with mem := Memory.writeBytes d.mem a bytes }

/-- R161: a host write to the finished map clears the bits it carries as ones. -/
def Device.clearBits (d : Device) (a : Nat) (bytes : List Byte) : Device :=
  d.landBytes a (bytes.zipIdx.map fun x => Memory.read d.mem (a + x.2) &&& ~~~x.1)

/-- R160: an offer that finds the list full. -/
def Device.overflowNotice (d : Device) (n : Nat) : Device :=
  (if d.overflow then d else { d with overflow := true }.requestStatus).captureFault .noticeOverflow none (some n)

/-- R159: an offer of a slot index to the notice list. -/
def Device.offer (d : Device) (n : Nat) : Device :=
  if d.notices.contains n then d
  else if d.notices.length < 32 then { d with notices := d.notices ++ [n] }
  else d.overflowNotice n

/-- R173: a landed write that leaves the pending KEEP's slot FREE gives the request to the keep flag; one that leaves it POSTED drops it. -/
def Device.giveBack (d : Device) (n : Nat) : Device :=
  match d.keepPending with
  | none => d
  | some (v, m) =>
    if n = m then
      (if d.slotState n = stFree then { d with keep := v, keepPending := none }
       else if d.slotState n = stPosted then { d with keepPending := none }
       else d)
    else d

/-- R69: the bytes of a write at the start of a slot that land: a state byte other than 00h and 01h is dropped. -/
def Device.landSlot (d : Device) (a : Nat) (bytes : List Byte) : Device :=
  match bytes with
  | b :: rest => if a % 64 = 0 ∧ b ≠ 0 ∧ b ≠ 1 then d.landBytes (a + 1) rest else d.landBytes a bytes
  | [] => d

/-- The slot of an offset in the cue slot region (R69). -/
def slotOf (a : Nat) : Nat := (a - 0x1000) / 64

/-- R158, R159, R69, R173: a host write to the cue slot region. -/
def Device.slotWrite (d : Device) (a : Nat) (bytes : List Byte) : Device :=
  if d.prot.contains (slotOf a) then d.captureFault .ownedWrite none (some (slotOf a))
  else
    let d1 := (d.landSlot a bytes).giveBack (slotOf a)
    if a % 64 = 0 ∧ d1.slotState (slotOf a) = stPosted then d1.offer (slotOf a) else d1

/-- The regions of the exchange memory with a rule of their own (Table 10-1). -/
inductive Region where
  | statusPage | finishedMap | cueSlots | plain
  deriving DecidableEq, Repr

/-- The region of an offset (Table 10-1). -/
def regionOf (a : Nat) : Region :=
  if a < 0x400 then .statusPage
  else if a < 0x440 then .finishedMap
  else if 0x1000 ≤ a ∧ a < 0x9000 then .cueSlots
  else .plain

/-- R157: a host write access to the exchange memory, by region. -/
def Device.hostWrite (d : Device) (size : AccessSize) (addr data : Word) : Device :=
  match regionOf (hostOffset size addr) with
  | .statusPage => d.captureFault .statusProtect none none
  | .finishedMap => d.clearBits (hostOffset size addr) (accessBytes size data)
  | .cueSlots => d.slotWrite (hostOffset size addr) (accessBytes size data)
  | .plain => d.landBytes (hostOffset size addr) (accessBytes size data)

/-- R157: a host read of the exchange memory returns the bytes as they stand, little-endian. -/
def Device.hostRead (d : Device) (size : AccessSize) (addr : Word) : Nat := d.peek (hostOffset size addr) (AccessSize.bytes size)

end Sys2Proof.Machine
end

