-- ==== Sys2Proof/Machine/Arbiter.lean ====
section
/-! DEFINITION. The RAM arbiter (R156): the host's accesses that wait there while a command runs, and the engines' accesses between which they fall: engine writes, scene copies (R147), the result writes of a slot (R81). -/
namespace Sys2Proof.Machine

/-! ## Host accesses that wait (R156, log 38) -/

/-- R157: the arbiter serves a host access. -/
def Device.serve (d : Device) (w : WaitingAccess) : Device := d.hostWrite w.size w.addr w.data

/-- The accesses at the front whose turn has come are served, in order. -/
def Device.letIn : Nat → Device → Device
  | 0, d => d
  | n + 1, d =>
    match d.arbiter with
    | [] => d
    | w :: l => if w.after = 0 then Device.letIn n ({ d with arbiter := l }.serve w) else d

/-- One engine access more has been served. -/
def countedDown : List WaitingAccess → List WaitingAccess
  | [] => []
  | w :: l => { w with after := w.after - 1 } :: l

/-- What follows every access of an engine: the host accesses whose turn it is. Where none waits, nothing. -/
def Device.pass (d : Device) : Device := Device.letIn d.arbiter.length { d with arbiter := countedDown d.arbiter }

/-! ## Engine accesses -/

/-- The bytes of an engine write of the n low bytes of v at a. -/
def Device.write (d : Device) (a n v : Nat) : Device := { d with mem := Memory.writeLE d.mem a n v }

/-- An engine write, one access (R156). -/
def Device.poke (d : Device) (a n v : Nat) : Device := (d.write a n v).pass

/-- R147: n level bytes from address a on, read in ascending order, one access each. -/
def Device.copyBytes : Nat → Nat → Device → List Byte × Device
  | 0, _, d => ([], d)
  | n + 1, a, d => (Memory.read d.mem a :: (Device.copyBytes n (a + 1) d.pass).1, (Device.copyBytes n (a + 1) d.pass).2)

theorem Device.copyBytes_length : ∀ (n a : Nat) (d : Device), (Device.copyBytes n a d).1.length = n
  | 0, _, _ => rfl
  | n + 1, a, d => congrArg (· + 1) (Device.copyBytes_length n (a + 1) d.pass)

/-- R147: the copy of a scene's 192 levels, and the part after it. -/
def Device.copyLevels (d : Device) (a : Nat) : Levels × Device :=
  (⟨(Device.copyBytes 192 a d).1.toArray, by rw [List.size_toArray, Device.copyBytes_length]⟩, (Device.copyBytes 192 a d).2)

/-- The 192 levels from address a on as they stand: what a copy gives while no host access waits. -/
def Device.levelsAt (d : Device) (a : Nat) : Levels :=
  ⟨((List.range 192).map fun c => Memory.read d.mem (a + c)).toArray, by simp⟩

/-! ## Slot results (R81) -/

/-- Sets the finished-map bit of slot n and latches FINISHED (R161). -/
def Device.setFinished (d : Device) (n : Nat) : Device :=
  (({ d with mem := Memory.write d.mem (mapBase + n / 8) (Memory.read d.mem (mapBase + n / 8) ||| (1 <<< (n % 8))) }).latch .finished).pass

/-- Writes the whole result region of slot n, field by field at rising offsets (log 50). -/
def Device.writeResult (d : Device) (n : Nat) (r : Result) : Device :=
  ((((((d.poke (slotBase n + 48) 1 r.reason.code).poke (slotBase n + 49) 1 r.flags.toByte).poke (slotBase n + 50) 2 r.revision).poke
    (slotBase n + 52) 4 r.firePI).poke (slotBase n + 56) 4 r.fireTime).poke (slotBase n + 60) 2 r.fired).poke (slotBase n + 62) 2 r.aux

/-- R158: the final state byte, which ends the protection in the same access. -/
def Device.writeFinal (d : Device) (n st : Nat) : Device := ((d.write (slotBase n) 1 st).unprotect n).pass

/-- R81: the result region, the final state byte, the finished-map bit. -/
def Device.finishSlot (d : Device) (n st : Nat) (r : Result) : Device := ((d.writeResult n r).writeFinal n st).setFinished n

end Sys2Proof.Machine
end

