-- ==== Sys2Proof/Machine/Message.lean ====
section
/-! DEFINITION. SEND messages: their division into frames and characters, and the readiness of frames by pacing (R137, R138). -/
namespace Sys2Proof.Machine

/-- MESSAGE (Table 8-2). -/
def chMessage : BitVec 9 := 0x130
/-- ABORT -/
def chAbort : BitVec 9 := 0x13F
/-- TICK -/
def chTick : BitVec 9 := 0x101
/-- BEAT -/
def chBeat : BitVec 9 := 0x102
/-- BAR -/
def chBar : BitVec 9 := 0x103
/-- START -/
def chStart : BitVec 9 := 0x110
/-- STOP -/
def chStop : BitVec 9 := 0x111
/-- RESUME -/
def chResume : BitVec 9 := 0x112
/-- POSITION -/
def chPosition : BitVec 9 := 0x120

/-- The message's length in bytes. -/
def CueBody.sendLength : CueBody → Nat
  | .send _ _ len _ _ => len
  | _ => 0

/-- The data characters of a full frame (R137). -/
def CueBody.frameSize : CueBody → Nat
  | .send bulk _ len pacing chunk => if bulk then (match pacing with | .whole => 255 | _ => chunk) else len
  | _ => 1

/-- The pacing of the message (R138). -/
def CueBody.pacing : CueBody → Pacing
  | .send _ _ _ p _ => p
  | _ => .whole

/-- The number of frames F (R137). -/
def CueBody.frames (b : CueBody) : Nat := (b.sendLength + (b.frameSize - 1)) / b.frameSize

/-- The characters of the message: 2F + L (R137). -/
def CueBody.chars (b : CueBody) : Nat := 2 * b.frames + b.sendLength

/-- The frame that the next message character belongs to. -/
def Flight.frameIx (f : Flight) : Nat := f.sent / (f.cue.body.frameSize + 2)

/-- The place of the next message character in its frame: 0 MESSAGE, 1 the count, then data. -/
def Flight.framePos (f : Flight) : Nat := f.sent % (f.cue.body.frameSize + 2)

/-- The data characters started: the byte count of R139 to R141. -/
def Flight.dataSent (f : Flight) : Nat := f.frameIx * f.cue.body.frameSize + (f.framePos - 2)

/-- Every character of the message has been started. -/
def Flight.complete (f : Flight) : Bool := decide (f.cue.body.chars ≤ f.sent)

/-- The next character begins a frame that needs a release (R138). -/
def Flight.needsRelease (f : Flight) : Bool := f.framePos == 0 && f.frameIx != 0 && f.cue.body.pacing != .whole

/-- The head SEND has a character ready (R135 step 3, R138). -/
def Flight.ready (f : Flight) : Bool := !f.complete && (!f.needsRelease || decide (0 < f.releases))

/-- Where the next data byte is read (R137). -/
def Flight.dataAddr (f : Flight) : Nat :=
  match f.cue.body with
  | .send true offset _ _ _ => bulkBase + offset + f.dataSent
  | _ => slotBase f.cue.slot + 17 + f.dataSent

/-- The next message character; a data byte is read at the moment it starts (R137). -/
def Flight.nextCode (m : List Host.Cell) (f : Flight) : BitVec 9 :=
  match f.framePos with
  | 0 => chMessage
  | 1 => BitVec.ofNat 9 (Nat.min f.cue.body.frameSize (f.cue.body.sendLength - f.frameIx * f.cue.body.frameSize))
  | _ => (Memory.read m f.dataAddr).setWidth 9

/-- The SEND after its next character has started: a frame that needed a release has used one. -/
def Flight.started (f : Flight) : Flight :=
  { f with sent := f.sent + 1, releases := if f.needsRelease then f.releases - 1 else f.releases }

/-- The frames not yet begun. -/
def Flight.framesLeft (f : Flight) : Nat :=
  f.cue.body.frames - (if f.framePos = 0 then f.frameIx else f.frameIx + 1)

/-- R138: one release, kept up to the number of frames still to be sent. -/
def Flight.released (f : Flight) : Flight := { f with releases := Nat.min (f.releases + 1) f.framesLeft }

/-- R138: does a reach of this pulse count a release for a message of this pacing? -/
def Pacing.releasedBy (p : Pacing) (beatStart boundary : Bool) : Bool :=
  match p with
  | .whole => false
  | .perBeat => beatStart
  | .perTick => boundary

end Sys2Proof.Machine
end

