-- ==== Sys2Proof/Machine/Schedule.lean ====
section
/-! DEFINITION. The cue schedule (Chapter 6): ordered lists, resolution, judgment, attempts and re-arming, endings, cancelling. -/
namespace Sys2Proof.Machine

/-! ## Lists (R91) -/

/-- List order: due PI, then sequence number by its difference modulo 2^32. -/
def Cue.before (a b : Cue) : Bool :=
  decide (a.due < b.due) || (a.due == b.due && decide ((a.seq - b.seq).toInt < 0))

/-- Puts a cue at its place. -/
def insertCue (c : Cue) : List Cue → List Cue
  | [] => [c]
  | b :: l => if c.before b then c :: b :: l else b :: insertCue c l

/-- Takes a slot's cue out of a list. -/
def dropCue (n : Nat) (l : List Cue) : List Cue := l.filter (·.slot != n)

/-- The cues of a list put in order again. -/
def sortCues (l : List Cue) : List Cue := l.foldl (fun acc c => insertCue c acc) []

/-- The aux of a cue (R79, R100). -/
def Cue.aux (c : Cue) : Nat :=
  if c.interval ≠ 0 then c.skipped
  else match c.body with
    | .send _ _ _ _ _ => c.bytes
    | _ => 0

/-- R80: the four progress fields of a HELD slot. -/
def Device.writeProgress (d : Device) (c : Cue) (firePI : Nat) : Device :=
  (((d.poke (slotBase c.slot + 50) 2 c.revision).poke (slotBase c.slot + 52) 4 firePI).poke (slotBase c.slot + 60) 2 c.fired).poke
    (slotBase c.slot + 62) 2 c.aux

/-- R81, R79: ends a cue. -/
def Device.endCue (d : Device) (c : Cue) (st : Nat) (reason : Reason) (pi : Nat) (time : Time) : Device :=
  d.finishSlot c.slot st
    { reason := reason, flags := c.flags, revision := c.revision, firePI := pi, fireTime := timeLow32 time, fired := c.fired, aux := c.aux }

/-! ## Resolution (R94) -/

/-- The meter shown (R4): at the reference cursor's current PI, or the held meter. -/
def Device.meterShown (d : Device) : Nat :=
  if d.runUnderWay then (match d.currentEntry with | some e => e.snap.meter | none => d.planner.heldMeter) else d.planner.heldMeter

/-- The grid origin in force at a resolution (R8). -/
def Device.originInForce (d : Device) : Nat :=
  if d.runUnderWay then
    match d.planner.horizon with
    | some _ => (match d.entryC with | some e => e.snap.origin | none => d.planner.heldOrigin)
    | none => (match d.planner.plan.head? with | some e => e.snap.origin | none => d.planner.heldOrigin)
  else if d.planner.canContinue then d.planner.heldOrigin else 0

/-- The reference point of a port cue (Table 6-2). -/
def Device.refPoint (d : Device) (p : PortIx) : Nat :=
  if d.runUnderWay then
    if (d.port p).state.joined then (d.port p).cursor else (match d.planner.cursor with | some k => k | none => 0)
  else d.nextFirst

/-- The reference point of a global cue (Table 6-2). -/
def Device.globalRef (d : Device) : Nat := if d.runUnderWay then d.firstSoft else d.nextFirst

/-- R94: the due PI from a fire mode, a fire value and a reference point. -/
def Device.resolve (d : Device) (mode value ref : Nat) : Nat :=
  match mode with
  | 0 => ref
  | 1 => value
  | _ => gridPoint value d.originInForce ref

/-- R94: the join mark a cue takes at resolution. -/
def Device.markAt (d : Device) (p : PortIx) : Option Nat := if (d.port p).state.joined then (d.port p).join else none

/-- R94: a lateness within the grace. -/
def Device.withinGrace (d : Device) (g : Lateness) (late : Nat) : Bool :=
  match g with
  | .strict => late == 0
  | .beat => decide (late ≤ 96)
  | .bar => decide (late ≤ d.meterShown * 96)
  | .anytime => true

/-! ## Attempts (R100) -/

/-- The cue after a fired attempt. -/
def Cue.afterFire (c : Cue) (pi : Nat) (time : Time) : Cue :=
  { c with revision := if c.interval ≠ 0 then nextRevision c.revision else c.revision, fired := satInc c.fired, left := c.left.map (· - 1),
           lastFired := some (pi, time) }

/-- The cue after a skipped attempt. -/
def Cue.afterSkip (c : Cue) (reason : Reason) : Cue :=
  { c with revision := if c.interval ≠ 0 then nextRevision c.revision else c.revision, skipped := satInc c.skipped, left := c.left.map (· - 1),
           lastSkip := reason }

/-- R100: the ending of a cue with no attempt left. -/
def Device.endAttempts (d : Device) (c : Cue) : Device :=
  match c.lastFired with
  | some (pi, time) => d.endCue c stFired .none pi time
  | none => d.endCue c stMissed c.lastSkip c.due d.time

/-- A port cue enters its list, with its progress fields (R91, R92). -/
def Device.enterList (d : Device) (p : PortIx) (c : Cue) : Device :=
  (d.modPort p fun x => { x with cues := insertCue c x.cues }).writeProgress c c.due

/-- R95: the skip reason of a resolved cue, or none where it enters its list. -/
def Device.verdict (d : Device) (p : PortIx) (c : Cue) : Option Reason :=
  if d.refPoint p ≤ c.due then none
  else if (d.port p).state.joined then (if d.withinGrace c.grace (d.refPoint p - c.due) then none else some .late)
  else some .detached

/-- Where an attempt leaves its cue: re-armed, or at its end with no attempt left (R100). -/
structure Settled where
  cue : Cue
  ends : Bool
  deriving DecidableEq, Repr

/-- R100: the cue after an attempt, re-armed or at its end: overtaken attempts are skipped LATE (log 10), the first other one is judged by R95, or waits while STOPPED. -/
def Device.rearmed : Nat → Device → PortIx → Cue → Settled
  | 0, _, _, c => { cue := c, ends := false }
  | fuel + 1, d, p, c =>
    if c.left = some 0 then { cue := c, ends := true }
    else if maxPI < c.due + c.interval * 96 then { cue := c, ends := true }
    else
      let n : Cue := { c with due := c.due + c.interval * 96, mark := d.markAt p }
      if !d.runUnderWay then { cue := n, ends := false }
      else if n.due + n.interval * 96 < d.refPoint p then Device.rearmed fuel d p (n.afterSkip .late)
      else match d.verdict p n with
        | none => { cue := n, ends := false }
        | some r => Device.rearmed fuel d p (n.afterSkip r)

/-- R100 after an attempt has been counted. Each turn raises the due PI by at least 96, and none follows one at or above the reference point. -/
def Device.settled (d : Device) (p : PortIx) (c : Cue) : Settled := Device.rearmed (d.refPoint p / 96 + 3) d p c

/-- R100: the cue ends, or re-enters its list. -/
def Device.settle (d : Device) (p : PortIx) (x : Settled) : Device := if x.ends then d.endAttempts x.cue else d.enterList p x.cue

/-- R100: what follows an attempt that has been counted. -/
def Device.settleAttempt (d : Device) (p : PortIx) (c : Cue) : Device := d.settle p (d.settled p c)

/-- R95: judges a resolved port cue; while STOPPED it enters its list. -/
def Device.judge (d : Device) (p : PortIx) (c : Cue) : Device :=
  if !d.runUnderWay then d.enterList p c
  else match d.verdict p c with
    | none => d.enterList p c
    | some r => d.settleAttempt p (c.afterSkip r)

/-- R96: judges a HELD cue of a port list against the first PI of a run that begins. -/
def Device.judgeAtStart (d : Device) (first : Nat) (p : PortIx) (n : Nat) : Device :=
  match (d.port p).cues.find? (·.slot == n) with
  | none => d
  | some c =>
    if first ≤ c.due || d.withinGrace c.grace (first - c.due) then d
    else (d.modPort p fun x => { x with cues := dropCue n x.cues }).settleAttempt p (c.afterSkip .late)

/-- Whenever a port records a join pulse, every cue of its list takes it as its mark; when it leaves SETTLING or LOCKED, they lose it (R94). -/
def Device.markAll (d : Device) (p : PortIx) (m : Option Nat) : Device :=
  d.modPort p fun x => { x with cues := x.cues.map fun c => { c with mark := m } }

/-! ## Everything that is HELD -/

/-- Where a HELD cue stands. -/
inductive Place where
  | global
  | list (p : PortIx)
  | flight (p : PortIx)
  deriving DecidableEq, Repr

/-- Every HELD cue with its place: in the lists and the in-flight sets (R91). -/
def Device.held (d : Device) : List (Place × Cue) :=
  d.globals.map (fun c => (Place.global, c)) ++
    allPorts.flatMap fun p => (d.port p).cues.map (fun c => (Place.list p, c)) ++ (d.port p).step.queue.map (fun f => (Place.flight p, f.cue))

/-- The HELD cue of slot n. -/
def Device.heldAt (d : Device) (n : Nat) : Option (Place × Cue) := d.held.find? fun x => x.2.slot == n

/-- R140: the message of a cancelled SEND leaves the queue; the head with a character sent owes an ABORT. -/
def StepLine.cancel (s : StepLine) (n : Nat) : StepLine :=
  match s.queue with
  | [] => s
  | f :: _ =>
    { s with
      queue := s.queue.filter (·.cue.slot != n)
      owed := if f.cue.slot == n && decide (0 < f.sent) && !s.owed.contains chAbort then s.owed ++ [chAbort] else s.owed }

/-- R140, R141: the byte count of a SEND cut short: that of the head, else 0. -/
def StepLine.bytesOf (s : StepLine) (n : Nat) : Nat :=
  match s.queue with
  | f :: _ => if f.cue.slot == n then f.dataSent else 0
  | [] => 0

/-- R102, R105: ends one HELD cue CANCELLED. The re-plan for a global cue and the transmitter's next character are the caller's. -/
def Device.cancelSlot (d : Device) (reason : Reason) (n : Nat) : Device :=
  match d.heldAt n with
  | none => d
  | some (.global, c) => ({ d with globals := dropCue n d.globals }).endCue c stCancelled reason c.due d.time
  | some (.list p, c) => (d.modPort p fun x => { x with cues := dropCue n x.cues }).endCue c stCancelled reason c.due d.time
  | some (.flight p, c) =>
    match (d.port p).step.queue.find? (·.cue.slot == n) with
    | none => d
    | some f =>
      (d.modPort p fun x => { x with step := x.step.cancel n }).endCue { c with bytes := (d.port p).step.bytesOf n } stCancelled reason f.pi d.time

/-- Ends these cues CANCELLED, in ascending slot index (R102, R104). -/
def Device.cancelSlots (d : Device) (reason : Reason) (slots : List Nat) : Device :=
  (sortNats slots).foldl (fun d n => d.cancelSlot reason n) d

/-- Every HELD slot. -/
def Device.heldSlots (d : Device) : List Nat := d.held.map (·.2.slot)

/-- The HELD slots of one port's list and in-flight set. -/
def Device.heldOfPort (d : Device) (p : PortIx) : List Nat :=
  (d.port p).cues.map (·.slot) ++ (d.port p).step.queue.map (·.cue.slot)

/-- Some global cue is due at or below the tail: its leaving re-plans (R41). -/
def Device.reachesTail (d : Device) (due : Nat) : Bool :=
  match d.tailPI with
  | some t => decide (due ≤ t)
  | none => false

end Sys2Proof.Machine
end

