-- ==== Sys2Proof/Machine/StepLink.lean ====
section
/-! DEFINITION. The Step Link (Chapter 8): the timing queue, the transmitter, join and resume forms, message ends and messages cut short. -/
namespace Sys2Proof.Machine

/-- A timing character of the plain kind. -/
def TimingChar.plain (code : BitVec 9) : TimingChar := { code := code, source := .plain, posData := false }

/-- POSITION(pi) and its four data characters, least significant byte first (Table 8-2). -/
def positionUnit (pi : Nat) (src : CharSource) : List TimingChar :=
  { code := chPosition, source := src, posData := false } ::
    ([0, 1, 2, 3].map fun i => { code := BitVec.ofNat 9 (pi / 256 ^ i % 256), source := src, posData := true })

/-- R135: queues one timing character; a full queue drops it and LINK_OVERRUN is captured. -/
def Device.queueChar (d : Device) (p : PortIx) (c : TimingChar) : Device :=
  if (d.port p).step.timing.length < 16 then d.modPort p fun x => { x with step := { x.step with timing := x.step.timing ++ [c] } }
  else d.captureFault .linkOverrun (some p.val) none

/-- Queues timing characters one by one. -/
def Device.queueChars (d : Device) (p : PortIx) (cs : List TimingChar) : Device := cs.foldl (fun d c => d.queueChar p c) d

/-- The characters of a form not yet sent leave the queue; a POSITION unit under way completes (R130, R134, R135). -/
def withdrawChars (src : CharSource) (l : List TimingChar) : List TimingChar :=
  l.takeWhile (·.posData) ++ (l.dropWhile (·.posData)).filter (·.source != src)

/-- A timing character about to start marks its join form as sent when it is START or RESUME (R134). -/
def StepForm.noteStart (f : StepForm) (c : TimingChar) : StepForm :=
  match f with
  | .queued j sent => .queued j (sent || (c.source == .joinForm && (c.code == chStart || c.code == chResume)))
  | f => f

/-- R135: an idle transmitter starts the oldest timing character, else what is owed, else the head SEND's next character if it is ready. -/
def StepLine.startNext (s : StepLine) (m : List Host.Cell) (now : Time) : StepLine :=
  match s.line with
  | some _ => s
  | none =>
    match s.timing with
    | c :: rest => { s with line := some { code := c.code, ends := timePlus now 110 }, timing := rest, form := s.form.noteStart c }
    | [] =>
      match s.owed with
      | c :: rest => { s with line := some { code := c, ends := timePlus now 110 }, owed := rest }
      | [] =>
        match s.queue with
        | f :: rest =>
          if f.ready then { s with line := some { code := f.nextCode m, ends := timePlus now 110 }, queue := f.started :: rest } else s
        | [] => s

/-- R140: an ABORT is owed or on the line; the next SEND becomes head after it. -/
def StepLine.aborting (s : StepLine) : Bool :=
  s.owed.contains chAbort || (match s.line with | some c => c.code == chAbort | none => false)

/-- R135: some side has a character ready. -/
def StepLine.hasNext (s : StepLine) : Bool :=
  s.timing != [] || s.owed != [] || (match s.queue.head? with | some f => f.ready | none => false)

/-- R142, R143: the frame is on the line: 3,900 µs from its beginning, or up to its cut. -/
def Frame.onLine (f : Frame) (now : Time) : Bool :=
  decide ((now - f.begin).toNat < 3900) && (match f.cut with | some t => !timeReached now t | none => true)

/-- The frame on the line, if there is one. -/
def FrameLine.current (f : FrameLine) (now : Time) : Option Frame := f.last.filter (·.onLine now)

/-- Something is on the link: a character of the Step Link or a frame. -/
def Port.sending (x : Port) (now : Time) : Bool := x.step.line.isSome || (x.frames.current now).isSome

/-- The transmitter of port p chooses (R135). -/
def Device.choose (d : Device) (p : PortIx) : Device :=
  d.modPort p fun x => { x with step := x.step.startNext d.mem d.time }

/-- The transmitter of port p chooses, if it is idle; the character of a cut frame completes first (R143). -/
def Device.pump (d : Device) (p : PortIx) : Device :=
  if ((d.port p).frames.current d.time).isSome then d else d.choose p

/-- Every transmitter chooses, if it is idle. -/
def Device.pumpAll (d : Device) : Device := d.eachPort fun d p => d.pump p

/-- R139: the head SEND whose last character has ended leaves the queue, and its attempt counts as fired. -/
def Device.messageEnd (d : Device) (p : PortIx) : Device :=
  match (d.port p).step.queue with
  | [] => d
  | f :: rest =>
    if f.complete then
      (d.modPort p fun x => { x with step := { x.step with queue := rest } }).settleAttempt p
        ({ f.cue with bytes := f.cue.body.sendLength }.afterFire f.pi f.time)
    else d

/-- R141: SENDs taken off a port that leaves the timeline count as skipped DETACHED; the head has its data characters sent as byte count. R99 and R141 give them no order: the model's choice is the order of the queue, the head first (log 50). -/
def Device.skipFlights (d : Device) (p : PortIx) : List Flight → Device
  | [] => d
  | f :: rest =>
    rest.foldl (fun d g => d.settleAttempt p ({ g.cue with bytes := 0 }.afterSkip .detached))
      (d.settleAttempt p ({ f.cue with bytes := f.dataSent }.afterSkip .detached))

/-- R136: offers a SEND fired at the reach of k to the message queue; the result says whether it was admitted. -/
def StepLine.hasRoom (s : StepLine) : Bool := decide (s.queue.length < 8)

/-- The due time of pulse k at port p, if it is in the plan (R27, R37). -/
def Device.dueAt (d : Device) (p : PortIx) (k : Nat) : Option Time :=
  (d.planEntry k).map fun e => e.due (d.port p).settings.latency

/-- R134: j is the first PI of a run begun by CONTINUE. -/
def Device.joinsResumed (d : Device) (j : Nat) : Bool :=
  match d.planner.opening with
  | some o => o.resumed && o.first == j
  | none => false

/-- R134: queues the join form of j. -/
def Device.queueJoinForm (d : Device) (p : PortIx) (j : Nat) : Device :=
  (d.modPort p fun x => { x with step := { x.step with form := .queued j false } }).queueChars p
    (positionUnit j .joinForm ++ [{ code := if d.joinsResumed j then chResume else chStart, source := .joinForm, posData := false }])

/-- R134: device time has reached the lead-in time of the pending join form. -/
def Device.stepLeadDue (d : Device) (p : PortIx) : Option Nat :=
  match (d.port p).settings.kind, (d.port p).step.form, (d.port p).run with
  | .step, .pending j, .run =>
    (match d.dueAt p j with
     | some t => if timeReached d.time (timeMinus t 1000) then some j else none
     | none => none)
  | _, _, _ => none

/-- The STEP lead-in, if it is due. -/
def Device.tryStepLeadIn (d : Device) (p : PortIx) : Device :=
  match d.stepLeadDue p with
  | some j => d.queueJoinForm p j
  | none => d

/-- R134: abandons a STEP join form under way: what is unsent is withdrawn, and STOP follows a START or RESUME already sent. -/
def Device.abandonStepForm (d : Device) (p : PortIx) : Device :=
  let d1 := d.modPort p fun x => { x with step := { x.step with form := .none, timing := withdrawChars .joinForm x.step.timing } }
  match (d.port p).step.form with
  | .queued _ true => d1.queueChar p (TimingChar.plain chStop)
  | _ => d1

/-- R130: device time has reached the due time of the resume boundary minus 1,000 µs. -/
def Device.resumeFormDue (d : Device) (p : PortIx) : Option Nat :=
  match (d.port p).settings.kind, (d.port p).resume, (d.port p).step.resumeQueued with
  | .step, some b, false =>
    (match d.dueAt p b with
     | some t => if timeReached d.time (timeMinus t 1000) then some b else none
     | none => none)
  | _, _, _ => none

/-- R130: queues the STEP resume form of b. -/
def Device.queueResumeForm (d : Device) (p : PortIx) (b : Nat) : Device :=
  (d.modPort p fun x => { x with step := { x.step with resumeQueued := true } }).queueChars p
    (positionUnit b .resumeForm ++ [{ code := chResume, source := .resumeForm, posData := false }])

/-- The STEP resume form, if it is due. -/
def Device.tryResumeForm (d : Device) (p : PortIx) : Device :=
  match d.resumeFormDue p with
  | some b => d.queueResumeForm p b
  | none => d

end Sys2Proof.Machine
end

