-- ==== Sys2Proof/Machine/ClockWires.lean ====
section
/-! DEFINITION. The lines of a CLOCK port (R126 to R130): edges on wire A, RUN and the RESET pulse on wire B. -/
namespace Sys2Proof.Machine

/-- The level of wire A (R126): an edge is a high active phase at positive polarity, a low one at negative. -/
def ClockLine.wireA (c : ClockLine) : Bool :=
  match c.phase with
  | .active _ => !c.negative
  | _ => c.negative

/-- Edges wait while RUN has not risen though its reach has come (R128). -/
def ClockForm.blocks : ClockForm → Bool
  | .pulse _ _ _ reached => reached
  | .gap _ _ reached => reached
  | _ => false

/-- Wire A at rest starts the oldest waiting edge. -/
def ClockLine.startEdge (c : ClockLine) (now : Time) : ClockLine :=
  if c.phase = .rest ∧ c.form.blocks = false then
    match c.waiting with
    | e :: rest => { c with phase := .active (timePlus now e.width), waiting := rest }
    | [] => c
  else c

/-- R127: emits an edge, or lets it wait; an edge that finds 16 waiting is not emitted. -/
def ClockLine.emit (c : ClockLine) (now : Time) (e : Edge) : ClockLine :=
  if c.waiting.length < 16 then { c with waiting := c.waiting ++ [e] }.startEdge now else c

/-- R127: the length of an edge's active phase, the lesser of 1,000 µs and half the tick interval. -/
def edgeWidth (division period : Nat) : Nat := Nat.min 1000 (division * period / 65536 / 2)

/-- R127, R129: the end of an active phase or of the inactive gap after it. A changed polarity takes effect at the end of an active phase (R126). -/
def ClockLine.phaseEnd (c : ClockLine) (now : Time) (negative : Bool) : ClockLine :=
  match c.phase with
  | .rest => c
  | .active _ =>
    if c.fallOwed ∧ c.waiting = [] then { c with phase := .gap (timePlus now 1000), negative := negative, wireB := false, fallOwed := false }
    else { c with phase := .gap (timePlus now 1000), negative := negative }
  | .gap _ => { c with phase := .rest }.startEdge now

/-- R127: the time at which wire A's present phase ends. -/
def ClockLine.phaseEnds (c : ClockLine) : Option Time :=
  match c.phase with
  | .rest => none
  | .active t => some t
  | .gap t => some t

/-- R126: a polarity setting takes effect at once unless an active phase is under way. -/
def ClockLine.polarity (c : ClockLine) (negative : Bool) : ClockLine :=
  match c.phase with
  | .active _ => c
  | _ => { c with negative := negative }

/-- R128: RUN rises and stays high; a fall still owed to the stop before lapses (log 48). -/
def ClockLine.runRises (c : ClockLine) : ClockLine := { c with wireB := true, form := .none, fallOwed := false }

/-- R128: the RESET pulse of the join form begins; a fall still owed to the stop before lapses, since the end of the pulse takes wire B low (log 48). -/
def ClockLine.beginPulse (c : ClockLine) (now : Time) (j : Nat) (late reached : Bool) : ClockLine :=
  { c with wireB := true, form := .pulse j (timePlus now 1000) late reached, fallOwed := false }

/-- R128: the RESET pulse ends; a late one is followed by a low gap of 1,000 µs (log 14). -/
def ClockLine.pulseEnd (c : ClockLine) (now : Time) : ClockLine :=
  match c.form with
  | .pulse j _ late reached =>
    { c with wireB := false, form := if late || reached then .gap j (timePlus now 1000) reached else .ready j }
  | _ => c

/-- R128: the low gap ends; RUN rises with the edge of j if the reach of j has come. -/
def ClockLine.gapEnd (c : ClockLine) (now : Time) : ClockLine :=
  match c.form with
  | .gap j _ reached => if reached then { c with wireB := true, form := .none }.startEdge now else { c with form := .ready j }
  | _ => c

/-- R128: the reach of the join pulse: RUN rises, or waits for the RESET pulse and the low gap. A pulse not yet begun begins now. -/
def ClockLine.joinReached (c : ClockLine) (now : Time) (k : Nat) : ClockLine :=
  match c.form with
  | .none => c
  | .pending j => if j = k then c.beginPulse now j true true else c
  | .pulse j ends late _ => if j = k then { c with form := .pulse j ends late true } else c
  | .gap j ends _ => if j = k then { c with form := .gap j ends true } else c
  | .ready j => if j = k then c.runRises else c

/-- R130: the halt form: wire B low, waiting edges dropped, no join form left to make. -/
def ClockLine.halt (c : ClockLine) : ClockLine := { c with wireB := false, waiting := [], form := .none, fallOwed := false }

/-- R129: the stop form: RUN falls at once, or when the active phase of the last edge ends. -/
def ClockLine.stopForm (c : ClockLine) (edge : Bool) : ClockLine :=
  if edge ∨ c.waiting ≠ [] then { c with fallOwed := true } else { c with wireB := false, form := .none }

/-- R129: the port leaves the timeline: no further edge, wire B low, the active phase runs to its end. -/
def ClockLine.leave (c : ClockLine) : ClockLine := { c with wireB := false, waiting := [], form := .none, fallOwed := false }

/-- R128: device time has reached the lead-in time of the pending join form; the flag says that it is past. -/
def Device.clockLeadDue (d : Device) (p : PortIx) : Option (Nat × Bool) :=
  match (d.port p).settings.kind, (d.port p).clock.form, (d.port p).run with
  | .clock, .pending j, .run =>
    (match d.dueAt p j with
     | some t => if timeReached d.time (timeMinus t 2000) then some (j, d.time != timeMinus t 2000) else none
     | none => none)
  | _, _, _ => none

/-- The CLOCK lead-in, if it is due. -/
def Device.tryClockLeadIn (d : Device) (p : PortIx) : Device :=
  match d.clockLeadDue p with
  | some (j, late) => d.modPort p fun x => { x with clock := x.clock.beginPulse d.time j late false }
  | none => d

/-- R128: abandons a CLOCK join form under way: a RESET pulse ends at once. -/
def ClockLine.abandon (c : ClockLine) : ClockLine :=
  match c.form with
  | .pulse _ _ _ _ => { c with wireB := false, form := .none }
  | _ => { c with form := .none }

/-- A join form under way is abandoned (R119, R128, R134). -/
def Device.abandonForm (d : Device) (p : PortIx) : Device :=
  match (d.port p).settings.kind with
  | .clock => d.modPort p fun x => { x with clock := x.clock.abandon }
  | .step => (d.abandonStepForm p).pump p
  | _ => d

/-- A port takes a join form for j; a port in HALT makes none (R128, R134). A lead-in time already past begins it at once. -/
def Device.takeForm (d : Device) (p : PortIx) (j : Nat) : Device :=
  if (d.port p).run = .halt then d
  else match (d.port p).settings.kind with
    | .clock => (d.modPort p fun x => { x with clock := { x.clock with form := .pending j } }).tryClockLeadIn p
    | .step => (d.modPort p fun x => { x with step := { x.step with form := .pending j } }).tryStepLeadIn p |>.pump p
    | _ => d

end Sys2Proof.Machine
end

