-- ==== Sys2Proof/Machine/Level.lean ====
section
/-! DEFINITION. The level mixer and the Level Link frames (Chapter 9). -/
namespace Sys2Proof.Machine

/-- R146: one channel's fade level. -/
def fadeLevel (a b : Byte) (pos len : Nat) : Byte :=
  BitVec.ofInt 8 ((a.toNat : Int) + (((b.toNat : Int) - a.toNat) * pos).tdiv len)

/-- R146: the fade levels; with F = 0 they are the to-levels. -/
def Mixer.fade (m : Mixer) : Levels :=
  if m.len = 0 then m.toL
  else ⟨(List.zipWith (fun a b => fadeLevel a b m.pos m.len) m.fromL.toList m.toL.toList).toArray, by simp⟩

/-- Table 9-3: the gate is open at this beat position. -/
def Modulator.gateOpen (m : Modulator) (position : Nat) : Bool :=
  match m with
  | .none => true
  | .blink => decide (position < 48)
  | .pulse4 => decide (position < 24)
  | .pulse8 => decide (position < 12)
  | .pulse16 => decide (position < 6)

/-- R149: the gate at the last reached pulse; open while there is none. -/
def Mixer.gate (m : Mixer) : Bool :=
  match m.reached with
  | none => true
  | some k => m.modulator.gateOpen (k % 96)

/-- R149: channel c lies in a closed gate. -/
def Mixer.gated (m : Mixer) (c : Nat) : Bool :=
  m.modulator != .none && decide (m.first ≤ c) && decide (c ≤ m.last) && !m.gate

/-- R149: the output levels. -/
def Mixer.output (m : Mixer) : Levels :=
  ⟨(m.fade.toList.zipIdx.map fun x => if m.gated x.2 then 0 else x.1).toArray, by simp⟩

/-- R146: the reach of pulse k moves the fade position and records the pulse. -/
def Mixer.reach (m : Mixer) (k : Nat) : Mixer := { m with pos := Nat.min m.len (k - m.start), reached := some k }

/-- R148: a fired SCENE at the reach of k. Step 1 takes the present f, that of the last reached pulse; worked example 9.7 (09, slot 43) takes from-levels at f = 96 where f stands at 95 before the reach moves it. The model follows the rule (log 41). -/
def Mixer.fire (m : Mixer) (k : Nat) (scene : Levels) (fadeLen : Nat) (modulator : Modulator) (first last : Nat) : Mixer :=
  { m with fromL := m.fade, toL := scene, start := k, len := fadeLen, pos := 0, modulator := modulator, first := first, last := last }

/-- R150: START settles the fade where it stands. -/
def Mixer.settle (m : Mixer) : Mixer := { m with fromL := m.fade, toL := m.fade, start := 0, len := 0, pos := 0, reached := none }

/-- R150, R151: no last reached pulse. -/
def Mixer.forget (m : Mixer) : Mixer := { m with reached := none }

/-- R153: the house scene as a settled cut, no modulator. -/
def Mixer.house (m : Mixer) (h : Levels) : Mixer :=
  { m with fromL := h, toL := h, start := 0, len := 0, pos := 0, modulator := .none }

/-- R143, R144: a frame begins, with its type and levels fixed. -/
def Device.beginFrame (d : Device) (p : PortIx) : Device :=
  d.modPort p fun x =>
    { x with frames := { last := some { begin := d.time, house := d.mode == .house, levels := x.mixer.output, cut := none }, waiting := false } }

/-- R143: the end of the character on the line, elapsed µs into a frame: a break of 40 µs, then characters of 20 µs (log 17). -/
def frameCharEnd (elapsed : Nat) : Nat := if elapsed ≤ 40 then 40 else 40 + (elapsed - 40 + 19) / 20 * 20

/-- R143: a frame still on the line when the port leaves LOCKED ends after the character on the line; a first frame that still waits is not sent, and a frame already cut keeps its end. -/
def FrameLine.leave (f : FrameLine) (now : Time) : FrameLine :=
  match f.last, f.waiting with
  | some x, false =>
    let elapsed := (now - x.begin).toNat
    if x.cut = none ∧ elapsed < 3900 then { f with last := some { x with cut := some (timePlus x.begin (frameCharEnd elapsed)) } } else f
  | _, _ => { f with waiting := false }

/-- R143: the first frame at entry into LOCKED. It waits for what is still to be sent: after a change of kind from STEP the character on the line and an ABORT owed, and the last character of a frame that was cut (log 49). R143 names the change of kind from STEP alone: that the frame waits for a Step Link character, or for an ABORT or STOP owed, also where LOCKED is entered otherwise is the model's choice (log 52). -/
def Device.firstFrame (d : Device) (p : PortIx) : Device :=
  if (d.port p).sending d.time || (d.port p).step.owed != [] then
    d.modPort p fun x => { x with frames := { x.frames with waiting := true } }
  else d.beginFrame p

/-- R143: the first frame waits, and nothing is left to be sent before it. -/
def Port.frameReady (x : Port) (now : Time) : Bool := x.frames.waiting && !x.sending now && x.step.owed == []

/-- R143: the waiting first frame begins when the transmitter has fallen idle. -/
def Device.waitingFrame (d : Device) (p : PortIx) : Device := if (d.port p).frameReady d.time then d.beginFrame p else d

/-- R143: device time has reached the beginning of the last frame plus the frame interval. -/
def Device.frameDue (d : Device) (p : PortIx) : Bool :=
  (d.port p).settings.kind == .level && (d.port p).state == .locked && !(d.port p).frames.waiting &&
    (match (d.port p).frames.last with
     | some f => timeReached d.time (timePlus f.begin ((d.port p).settings.frame * 1000))
     | none => false)

end Sys2Proof.Machine
end

