-- ==== Sys2Proof/Machine/Wires.lean ====
section
/-! DEFINITION. The levels of a port's two wires at a device time: the Step Link's and the Level Link's characters bit by bit (R131, R142), and the lines of a CLOCK port (R126). They are functions of the state: nothing is stored for them. -/
namespace Sys2Proof.Machine

/-- The level of a character, `elapsed` µs into it: a start bit at the space level (false), the data bits with the least significant first, the mark level (true) from the stop bit on; `width` µs a bit. -/
def charLevel (dataBits width code elapsed : Nat) : Bool :=
  if elapsed / width = 0 then false
  else if elapsed / width ≤ dataBits then code.testBit (elapsed / width - 1)
  else true

/-- R131: the Step Link's signal under a character: 11 bits of 10 µs. -/
def LineChar.level (c : LineChar) (now : Time) : Bool := charLevel 9 10 c.code.toNat (now - timeMinus c.ends 110).toNat

/-- Table 9-1: the characters of a frame: the type, 00h or 48h, then the levels of channels 0 to 191. -/
def Frame.char (f : Frame) (i : Nat) : Nat :=
  match i with
  | 0 => if f.house then 0x48 else 0x00
  | c + 1 => match f.levels.toList[c]? with
    | some v => v.toNat
    | none => 0

/-- R142, Table 9-1: the Level Link's signal under a frame: 32 µs of space and 8 µs of mark, then characters of 10 bits of 2 µs. -/
def Frame.level (f : Frame) (now : Time) : Bool :=
  let e := (now - f.begin).toNat
  if !f.onLine now then true
  else if e < 32 then false
  else if e < 40 then true
  else charLevel 8 2 (f.char ((e - 40) / 20)) ((e - 40) % 20)

/-- The one signal of a STEP or LEVEL port; the mark level while nothing is on the line. What a change of kind has left on the line is sent to its end (R112, R140, log 26). -/
def Port.signal (x : Port) (now : Time) : Bool :=
  match x.step.line, x.frames.current now with
  | some c, _ => c.level now
  | none, some f => f.level now
  | none, none => true

/-- The levels of wires A and B (true: high). STEP and LEVEL ports drive a complementary pair (R131, R142): the model's choice is that wire A is high at the mark level (log 37). A CLOCK port drives its two lines, and so does a port of kind NONE (R126: the lines after power-on). -/
def Port.wires (x : Port) (now : Time) : Bool × Bool :=
  if x.sending now || x.settings.kind == .step || x.settings.kind == .level then (x.signal now, !x.signal now) else (x.clock.wireA, x.clock.wireB)

end Sys2Proof.Machine
end

