-- ==== Sys2Proof/Machine/Joins.lean ====
section
/-! DEFINITION. Join pulses (R118, R119, R121): the choice of a join pulse, taking it with its join form, and the reset of a joining port by a latched stop. -/
namespace Sys2Proof.Machine

/-- A chosen join pulse with the meter and the grid origin it was found from. -/
structure JoinChoice where
  pulse : Nat
  meter : Nat
  origin : Nat
  deriving DecidableEq, Repr

/-- The newest planned pulse with the meter and the origin after it (R7): the tail, the anchor, or the run's opening. -/
def Device.tailBase (d : Device) : JoinChoice :=
  match d.planner.plan.getLast? with
  | some e => { pulse := e.pi, meter := e.snap.meter, origin := e.snap.origin }
  | none => match d.planner.anchor with
    | some e => { pulse := e.pi, meter := e.snap.meter, origin := e.snap.origin }
    | none => { pulse := d.firstSoft, meter := d.planner.heldMeter, origin := d.planner.heldOrigin }

/-- The due time of an entry for a latency lies after the present. -/
def Device.stillAhead (d : Device) (e : PlanEntry) (latency : Nat) : Bool := decide (0 < timeDiff (e.due latency) d.time)

/-- A candidate at or below the last pulse that can be joined: the latched stop pulse, or the last PI. -/
def Device.mayJoin (d : Device) (k : Nat) : Bool :=
  decide (k ≤ maxPI) && (match d.planner.latched with | some s => decide (k ≤ s) | none => true)

/-- R118: the lowest join boundary at or above lo whose due time for port p is later than the present. Where a METER takes effect at j itself, R119 does not say which meter and origin j was found from: the model's choice is entry j's own snapshot (log 42). -/
def Device.chooseJoin (d : Device) (p : PortIx) (lo : Nat) : Option JoinChoice :=
  let g := (d.port p).settings
  match d.planner.plan.find? (fun e => decide (lo ≤ e.pi) && isBoundary g.join e.pi e.snap.meter e.snap.origin && d.stillAhead e g.latency) with
  | some e => some { pulse := e.pi, meter := e.snap.meter, origin := e.snap.origin }
  | none =>
    let b := d.tailBase
    let j := nextBoundary g.join (Nat.max lo (b.pulse + 1)) b.meter b.origin
    if d.mayJoin j then some { b with pulse := j } else none

/-- The lowest pulse port p may still join at: its own cursor or the reference cursor's (R118, R121). -/
def Device.joinFloor (d : Device) (p : PortIx) : Nat :=
  match d.planner.cursor with
  | some k => Nat.max (d.port p).cursor k
  | none => (d.port p).cursor

/-- Records a chosen join pulse: the cursor becomes j. -/
def Port.withJoin (x : Port) (c : JoinChoice) : Port :=
  { x with join := some c.pulse, cursor := c.pulse, joinMeter := c.meter, joinOrigin := c.origin }

/-- An ACQUIRING port's join pulse is discarded; its join form is abandoned with it (log 13). -/
def Device.dropJoin (d : Device) (p : PortIx) : Device :=
  if (d.port p).join = none then d else (d.modPort p fun x => { x with join := none }).abandonForm p

/-- An ACQUIRING port takes a chosen join pulse with its join form; a pulse it already holds keeps its lead-in (R119, R128, R134). -/
def Device.takeJoin (d : Device) (p : PortIx) (c : JoinChoice) : Device :=
  if (d.port p).join = some c.pulse then d.modPort p (·.withJoin c)
  else ((d.dropJoin p).modPort p (·.withJoin c)).takeForm p c.pulse

/-- R118 at entry into ACQUIRING: chooses a join pulse while a run lasts. -/
def Device.chooseFirst (d : Device) (p : PortIx) : Device :=
  if !d.runUnderWay then d
  else match d.chooseJoin p (d.joinFloor p) with
    | some c => d.takeJoin p c
    | none => d

/-- R119: an ACQUIRING port that holds a join pulse chooses it anew, at or above the present one. -/
def Device.chooseAgain (d : Device) (p : PortIx) : Device :=
  match (d.port p).state, (d.port p).join with
  | .acquiring, some j =>
    (match d.chooseJoin p (Nat.max j (d.joinFloor p)) with
     | some c => d.takeJoin p c
     | none => d.dropJoin p)
  | _, _ => d

/-- R119: an entry planned from pulse `lo` on lies at or below j and carries another meter or origin. By log 42 every later re-plan of entries below such a j chooses anew. -/
def Device.meterMoved (d : Device) (lo j meter origin : Nat) : Bool :=
  d.planner.plan.any fun e => decide (lo ≤ e.pi) && decide (e.pi ≤ j) && (e.snap.meter != meter || e.snap.origin != origin)

/-- R119 for one port after the pulses from lo on have been planned: a stop latched below j discards it, a moved meter chooses it anew. -/
def Device.afterPlanPort (lo : Nat) (d : Device) (p : PortIx) : Device :=
  match (d.port p).state, (d.port p).join with
  | .acquiring, some j =>
    if !d.mayJoin j then d.dropJoin p
    else if d.meterMoved lo j (d.port p).joinMeter (d.port p).joinOrigin then d.chooseAgain p
    else d
  | _, _ => d

/-- R119 for every port. -/
def Device.afterPlan (d : Device) (lo : Nat) : Device := d.eachPort (Device.afterPlanPort lo)

/-- R121: the pulse at which a LEVEL port joins: the lowest one at or above both cursors whose due time is later than the present. Where no such pulse up to a latched stop is left, R121 gives no candidate: the model's choice is the PI after the tail, which is never planned (log 43). -/
def Device.levelJoinPulse (d : Device) (p : PortIx) : Nat :=
  match d.planner.plan.find? (fun e => decide (d.joinFloor p ≤ e.pi) && d.stillAhead e (d.port p).settings.latency) with
  | some e => e.pi
  | none => Nat.max (d.joinFloor p) (d.tailBase.pulse + 1)

/-- R121, R151: a LEVEL port joins at once; while STOPPED it keeps its cursor and records no join pulse. -/
def Device.levelJoin (d : Device) (p : PortIx) : Device :=
  if d.runUnderWay then
    (d.modPort p fun x => { x with join := some (d.levelJoinPulse p), cursor := d.levelJoinPulse p, mixer := x.mixer.forget }).markAll p
      (some (d.levelJoinPulse p))
  else (d.modPort p fun x => { x with join := none, mixer := x.mixer.forget }).markAll p none

end Sys2Proof.Machine
end

