-- ==== Sys2Proof/Machine/Planner.lean ====
section
/-! DEFINITION. The pulse plan (Chapter 3): planning one pulse, extension, re-plan, moved global cues, the commit horizon and hardening. -/
namespace Sys2Proof.Machine

/-! ## Planning one pulse (R32) -/

/-- What the planning of a pulse starts from (R32): the snapshot of the pulse before, or the state START or CONTINUE opened. -/
structure PlanBase where
  /-- the pulse to plan -/
  pi : Nat
  snap : Snapshot
  bar : Nat
  beat : Nat
  /-- instant of the pulse before; none for the first pulse of a run -/
  prev : Option Instant
  /-- start instant and period of the first pulse (R11) -/
  startInstant : Instant
  startPeriod : Nat
  /-- the counts stand as they are: the first pulse of a run begun by START -/
  fixedCounts : Bool
  deriving DecidableEq, Repr

/-- The base that follows an entry. -/
def PlanBase.after (e : PlanEntry) : PlanBase :=
  { pi := e.pi + 1, snap := e.snap, bar := e.bar, beat := e.beat, prev := some e.instant, startInstant := 0, startPeriod := 0, fixedCounts := false }

/-- The base that START or CONTINUE opened (R10, R12, R43). -/
def PlanBase.opened (o : Opening) : PlanBase :=
  { pi := o.first, snap := { seg := Segment.const o.first o.period, meter := o.meter, origin := o.origin, spread := none, balance := 0 }, bar := o.bar,
    beat := o.beat, prev := none, startInstant := o.instant, startPeriod := o.period, fixedCounts := !o.resumed }

/-- The base of the next pulse: the tail, the anchor, or the opening. -/
def Device.planBase (d : Device) : Option PlanBase :=
  match d.planner.plan.getLast? with
  | some e => some (PlanBase.after e)
  | none => match d.planner.anchor with
    | some e => some (PlanBase.after e)
    | none => d.planner.opening.map PlanBase.opened

/-- R42: pending inputs take the place of the follower segment, the spread and the balance at C+1. -/
def PlanBase.withPending (b : PlanBase) (pl : Planner) (firstSoft : Nat) : PlanBase :=
  if b.pi = firstSoft then
    { b with snap :=
        { b.snap with
          seg := (match pl.pendPeriod with | some p => Segment.const b.pi p | none => b.snap.seg)
          spread := (match pl.pendSpread with | some x => some x | none => b.snap.spread)
          balance := (match pl.pendBalance with | some x => x | none => b.snap.balance) } }
  else b

/-- A HELD TEMPO cue due at k (R45). -/
def Cue.tempoDue (c : Cue) (k : Nat) : Bool :=
  match c.body with
  | .tempo _ _ => c.due == k
  | _ => false

/-- A HELD STOP cue due at k (R13). -/
def Cue.stopDue (c : Cue) (k : Nat) : Bool :=
  match c.body with
  | .stop => c.due == k
  | _ => false

/-- A METER cue (R6). -/
def Cue.isMeter (c : Cue) : Bool :=
  match c.body with
  | .meter _ => true
  | _ => false

/-- A TEMPO cue (R45). -/
def Cue.isTempo (c : Cue) : Bool :=
  match c.body with
  | .tempo _ _ => true
  | _ => false

/-- R22, R45: the segment after the TEMPO cues due at k. -/
def applyTempo (k : Nat) (g : Segment) : List Cue → Segment
  | [] => g
  | c :: l => match c.body with
    | .tempo period ramp => applyTempo k (g.opened k period ramp) l
    | _ => applyTempo k g l

/-- R6: the meter after METER cues taking effect together. -/
def applyMeter (meter : Nat) : List Cue → Nat
  | [] => meter
  | c :: l => match c.body with
    | .meter beats => applyMeter beats l
    | _ => applyMeter meter l

/-- The soft entries. -/
def Device.softEntries (d : Device) : List PlanEntry := d.planner.plan.filter fun e => decide (d.firstSoft ≤ e.pi)

/-- R6: the METER cues that take effect at a bar start k: fire PI at or below k, not yet applied at a lower soft pulse. -/
def Device.meterCues (d : Device) (k : Nat) : List Cue :=
  d.globals.filter fun c => c.isMeter && decide (c.due ≤ k) && !(d.softEntries.any fun e => e.applied.contains c.slot)

/-- R3: the counts of a pulse. -/
def nextCounts (beatStart barStart : Bool) (bar beat : Nat) : Nat × Nat :=
  if barStart then (bar + 1, 1) else if beatStart then (bar, beat + 1) else (bar, beat)

/-- The pulse ends the run (R1, R13). -/
def Device.endsRun (d : Device) (k : Nat) : Bool :=
  d.globals.any (·.stopDue k) || d.planner.latched == some k || k == maxPI

/-- R32: the entry of the next pulse. -/
def Device.buildEntry (d : Device) (b0 : PlanBase) : PlanEntry :=
  let b := b0.withPending d.planner d.firstSoft
  let k := b.pi
  let tempos := d.globals.filter (·.tempoDue k)
  let off : Bool := d.follower.state == .off
  let meters := if isBarStart k b.snap.meter b.snap.origin then d.meterCues k else []
  let stops := d.globals.filter (·.stopDue k)
  let seg := if off then applyTempo k b.snap.seg tempos else b.snap.seg
  let meter := applyMeter b.snap.meter meters
  let origin := if meters = [] then b.snap.origin else k
  let counts := if b.fixedCounts then (b.bar, b.beat) else nextCounts (isBeatStart k) (isBarStart k meter origin) b.bar b.beat
  let period := match b.prev with | some _ => periodUsed (seg.value k) b.snap.spread b.snap.balance | none => b.startPeriod
  { pi := k
    instant := (match b.prev with | some i => i + BitVec.ofNat 64 period | none => b.startInstant)
    period := period
    beatStart := isBeatStart k
    barStart := isBarStart k meter origin
    stop := d.endsRun k
    bar := counts.1
    beat := counts.2
    applied := (d.globals.filter fun c => (off && c.tempoDue k) || meters.contains c || stops.contains c).map (·.slot)
    passed := if off then [] else tempos.map (·.slot)
    snap := { seg := seg.progressed k, meter := meter, origin := origin, spread := spreadNext b.snap.spread, balance := nudgeSpent b.snap.balance } }

/-- R6: a METER cue applied above the fire PI it held earns MOVED. -/
def Cue.meterMoved (c : Cue) (e : PlanEntry) : Cue :=
  if c.isMeter && e.applied.contains c.slot && decide (c.due < e.pi) then { c with flags := { c.flags with moved := true } } else c

/-- R13: a pulse planned as the end of the run is latched, and the transport enters STOPPING. -/
def Device.latchStop (d : Device) (k : Nat) : Device :=
  ({ d with planner := { d.planner with latched := some k } }).setTransport .stopping

/-- Appends one entry (R32). -/
def Device.appendEntry (d : Device) (e : PlanEntry) : Device :=
  let d1 := { d with planner := { d.planner with plan := d.planner.plan ++ [e] }, globals := d.globals.map (·.meterMoved e) }
  if e.stop then d1.latchStop e.pi else d1

/-- Plans the next pulse (R32). -/
def Device.planPulse (d : Device) : Device :=
  match d.planBase with
  | some b => d.appendEntry (d.buildEntry b)
  | none => d

/-! ## Extension (R33, R34) -/

/-- The extension limit (R34). -/
def Device.limit (d : Device) : Instant := timeInstant (timePlus d.time (d.lmax + 8000))

/-- The tail is the stop pulse: nothing is appended beyond it. -/
def Device.planEnded (d : Device) : Bool :=
  match d.planner.latched, d.planner.plan.getLast? with
  | some s, some e => decide (s ≤ e.pi)
  | _, _ => false

/-- The tail instant lies below the limit. -/
def Device.belowLimit (d : Device) : Bool :=
  match d.planner.plan.getLast? with
  | some e => decide (instDiff e.instant d.limit < 0)
  | none => true

/-- The planner must append (R34). -/
def Device.extendDue (d : Device) : Bool := d.runUnderWay && !d.planEnded && d.belowLimit

/-- Appends until the tail reaches the limit; the plan never needs more than 256 entries (R31, R35). -/
def Device.extendLoop : Nat → Device → Device
  | 0, d => d
  | n + 1, d => if d.extendDue then Device.extendLoop n d.planPulse else d

/-- R47: one global cue's move to the first soft pulse. -/
def Cue.movedTo (c : Cue) (k : Nat) : Cue :=
  if c.due < k then { c with due := k, flags := { c.flags with moved := true } } else c

/-- R47, R80: global cues below the first soft pulse move there, their slots' fire PI with them. R47 gives the slots of several moved cues no order: the model's choice is the order of the global list before the move (log 50). -/
def Device.moveGlobals (d : Device) : Device :=
  let low := d.globals.filter fun c => decide (c.due < d.firstSoft)
  if low = [] then d
  else (low.map (·.movedTo d.firstSoft)).foldl (fun d c => d.writeProgress c c.due) { d with globals := sortCues (d.globals.map (·.movedTo d.firstSoft)) }

/-- R47 as a global cue enters the list: while a run lasts, every HELD global cue at or below C is moved. -/
def Device.moveWaiting (d : Device) : Device := if d.runUnderWay then d.moveGlobals else d

/-- The pulse the planner plans next. -/
def Device.nextPlanned (d : Device) : Nat :=
  match d.planBase with
  | some b => b.pi
  | none => 0

/-- R34: extension. -/
def Device.extend (d : Device) : Device :=
  if d.extendDue then (Device.extendLoop 256 d.moveGlobals).afterPlan d.nextPlanned else d

/-! ## Re-plan (R41 to R43) -/

/-- R42 step 1: the plan without its soft entries. -/
def Device.discardSoft (d : Device) : Device :=
  { d with planner := { d.planner with plan := d.planner.plan.filter fun e => decide (e.pi < d.firstSoft) } }

/-- A plan in which C is the latched stop pulse has no soft pulse left. -/
def Device.allHard (d : Device) : Bool :=
  match d.planner.latched, d.planner.horizon with
  | some s, some c => decide (s ≤ c)
  | _, _ => false

/-- R42: the re-plan: C+1 is planned again, then the plan is extended to the limit (log 24). Where no soft pulse is left, only the global cues move (R47). -/
def Device.replan (d : Device) : Device :=
  if !d.runUnderWay then d
  else if d.allHard then d.moveGlobals
  else (Device.extendLoop 256 (d.discardSoft.moveGlobals).planPulse).afterPlan d.firstSoft

/-- R41: a global cue that entered, left or moved with this fire PI re-plans if it is at or below the tail. -/
def Device.replanFor (d : Device) (due : Nat) : Device := if d.reachesTail due then d.replan else d

/-! ## Commit horizon (R39, R48) -/

/-- R45, R6: flag SUPERSEDED of a cue applied at a pulse: every TEMPO but the last TEMPO, every METER but the last METER. -/
def supersededIn (c : Cue) (later : List Cue) : Bool :=
  (c.isTempo && later.any (·.isTempo)) || (c.isMeter && later.any (·.isMeter))

/-- R48: one applied cue ends FIRED. -/
def Device.hardenOne (d : Device) (pi : Nat) (c : Cue) (superseded : Bool) : Device :=
  ({ d with globals := dropCue c.slot d.globals }).endCue
    { c with fired := 1, flags := { c.flags with superseded := c.flags.superseded || superseded } } stFired .none pi d.time

/-- R48: the cues applied at an entry end FIRED in the order in which they were applied. -/
def Device.hardenApplied (pi : Nat) : Device → List Cue → Device
  | d, [] => d
  | d, c :: l => Device.hardenApplied pi (d.hardenOne pi c (supersededIn c l)) l

/-- R48: a TEMPO cue passed over ends MISSED with reason FOLLOWING. -/
def Device.missPassed (pi : Nat) (d : Device) (c : Cue) : Device :=
  ({ d with globals := dropCue c.slot d.globals }).endCue c stMissed .following pi d.time

/-- The HELD global cues of these slots, in their order. -/
def Device.globalsOf (d : Device) (slots : List Nat) : List Cue := slots.filterMap fun n => d.globals.find? (·.slot == n)

/-- R48, R6, R45: an entry becomes hard. The cues applied at it end in the order the planner applied them, so that the last of each kind is the one in force, also where a later move to C+1 has put the list in another order (R47). R48 does not order them against the TEMPO cues passed over: the model's choice is to end the applied ones first, then the others in list order (log 50). -/
def Device.harden (d : Device) (e : PlanEntry) : Device :=
  let fired := d.globalsOf e.applied
  let missed := d.globals.filter fun c => e.passed.contains c.slot
  missed.foldl (Device.missPassed e.pi) (Device.hardenApplied e.pi d fired)

/-- R39: does reaching k raise C? -/
def Device.risesTo (d : Device) (k : Nat) : Bool :=
  d.runUnderWay && (match d.planner.horizon with | none => true | some c => decide (c < k))

/-- R39, R42: C rises to k, pending inputs are dropped, and the entries from the old C to k harden. R48 gives the cues of several such entries no order: the model's choice is ascending PI, each entry by itself (log 50). -/
def Device.raiseHorizon (d : Device) (k : Nat) : Device :=
  if d.risesTo k then
    ((d.softEntries.filter fun e => decide (e.pi ≤ k)).foldl Device.harden
      { d with planner := { d.planner with horizon := some k, pendPeriod := none, pendSpread := none, pendBalance := none } })
  else d

end Sys2Proof.Machine
end

