-- ==== Sys2Proof/Machine/PortStates.lean ====
section
/-! DEFINITION. Port states (Chapter 7): changes of state with their causes, leaving the timeline, entry states, presence, flaps, and the effect of a PORT SETUP. -/
namespace Sys2Proof.Machine

/-- R112: a change of port state requests a status write; into DETACHED, FAULTED or LOCKED it latches PORT. -/
def Device.setState (d : Device) (p : PortIx) (st : PortState) : Device :=
  if (d.port p).state = st then d
  else
    let d1 := (d.modPort p fun x => { x with state := st }).requestStatus
    match st with
    | .detached => d1.latch .port
    | .faulted => d1.latch .port
    | .locked => d1.latch .port
    | _ => d1

/-- The port's lines and forms as it leaves the timeline (R112, R129, R134, R135, R141, R143). What a change of kind or a restart owes the message side stays (R140): `keepOwed`, or a port that has left the timeline before. R140 lets timing characters already waiting go before the ABORT, and R135 empties the timing queue: the model's choice is to drop them (log 51). -/
def Port.stopped (x : Port) (keepOwed : Bool) (now : Time) : Port :=
  { x with
    join := none
    settleEnd := none
    resume := none
    cues := x.cues.map fun c => { c with mark := none }
    clock := x.clock.leave
    step := { x.step with timing := [], owed := (if x.state.joined && !keepOwed then [] else x.step.owed), queue := [], form := .none, resumeQueued := false }
    frames := (if x.state = .locked ∧ x.settings.kind = .level then x.frames.leave now else x.frames) }

/-- A port enters IDLE, DETACHED or FAULTED (R112, R115): its SENDs in flight are skipped DETACHED (R99, R141). -/
def Device.dropTo (d : Device) (p : PortIx) (st : PortState) : Device :=
  (((d.modPort p fun x => x.stopped false d.time).setState p st)).skipFlights p (d.port p).step.queue

/-- R111: the entry state. -/
def Device.entryState (d : Device) (p : PortIx) : PortState :=
  if d.mode = .init then .idle
  else if (d.port p).settings.kind = .none ∨ (d.port p).settings.mask = true then .idle
  else if (d.port p).presence = false then .detached
  else if (d.port p).settings.kind = .level then .locked
  else .acquiring

/-- R114, R118: a CLOCK or STEP port enters ACQUIRING; the plan is extended for its latency before it chooses. -/
def Device.enterAcquiring (d : Device) (p : PortIx) : Device := ((d.setState p .acquiring).extend).chooseFirst p

/-- R121, R143: a LEVEL port enters LOCKED from another state: it joins, and begins its first frame. -/
def Device.enterLevel (d : Device) (p : PortIx) : Device := (((d.setState p .locked).extend).levelJoin p).firstFrame p

/-- Sends a port to its entry state (R111). -/
def Device.enter (d : Device) (p : PortIx) : Device :=
  match d.entryState p with
  | .acquiring => d.enterAcquiring p
  | .locked => d.enterLevel p
  | st => d.dropTo p st

/-! ## Fresh join (R123) -/

/-- R134: the STOP of a fresh join is due: a run is under way, the run state is RUN, and the stop form has not been sent. -/
def Device.freshStopDue (d : Device) (p : PortIx) : Bool :=
  d.runUnderWay && (d.port p).settings.kind == .step && (d.port p).run == .run &&
    (match d.planner.latched with | some s => decide ((d.port p).cursor ≤ s) | none => true)

/-- The port as it leaves SETTLING or LOCKED for ACQUIRING: forms not yet sent are withdrawn (log 25). -/
def Port.unjoined (x : Port) : Port :=
  { x with
    join := none
    settleEnd := none
    resume := none
    cues := x.cues.map fun c => { c with mark := none }
    clock := x.clock.leave
    step := { x.step with
      timing := withdrawChars .resumeForm (withdrawChars .joinForm x.step.timing), owed := [], queue := [], form := .none, resumeQueued := false } }

/-- R123: a CLOCK or STEP port leaves for ACQUIRING and chooses a new join pulse. -/
def Device.freshAcquire (d : Device) (p : PortIx) : Device :=
  let d1 := ((d.modPort p Port.unjoined).setState p .acquiring).skipFlights p (d.port p).step.queue
  let d2 := if d.freshStopDue p then (d1.queueChar p (TimingChar.plain chStop)).pump p else d1
  d2.extend.chooseFirst p

/-- R123: a LEVEL port re-enters LOCKED: cause PORT, a status write, a new cursor; the frame sequence goes on. -/
def Device.freshLevel (d : Device) (p : PortIx) : Device := ((d.latch .port).requestStatus.extend).levelJoin p

/-- R123: the fresh join. -/
def Device.freshJoin (d : Device) (p : PortIx) : Device :=
  match (d.port p).settings.kind with
  | .level => d.freshLevel p
  | _ => d.freshAcquire p

/-! ## PORT SETUP (R110, Table 7-2) -/

/-- The port with new settings; a polarity acts at once unless an active phase is under way (R126). -/
def Port.withSettings (x : Port) (new : Settings) : Port := { x with settings := new, clock := x.clock.polarity new.negative }

/-- The port after a change of kind: run state RUN (R130), both wires in the idle form (R126), the mixer zeroed for LEVEL (R145). -/
def Port.newKind (x : Port) (new : Settings) : Port :=
  { x with settings := new, run := .run, clock := ClockLine.idle new.negative, mixer := (if new.kind = .level then Mixer.zero else x.mixer) }

/-- R116: a PORT SETUP that clears the mask of a FAULTED port empties its flap history. -/
def Port.clearedFlaps (x : Port) (new : Settings) : Port := if x.state = .faulted ∧ new.mask = false then { x with flaps := [] } else x

/-- Row 2 of Table 7-2: the cues end CANCELLED; the port stays FAULTED under its mask, or passes through DETACHED, which latches PORT from any state (R112), to its entry state. An ABORT owed is sent all the same (R140). -/
def Device.changeKind (d : Device) (p : PortIx) (new : Settings) : Device :=
  let d1 := ((d.cancelSlots .portSetup (d.heldOfPort p)).modPort p fun x => (((x.stopped true d.time).clearedFlaps new).newKind new)).pump p
  if (d.port p).state = .faulted ∧ new.mask = true then d1 else ((d1.setState p .detached).latch .port).enter p

/-- R110: applies new settings and acts on the port state once, by the first row of Table 7-2 that holds. In INIT the state stays IDLE. -/
def Device.applySetup (d : Device) (p : PortIx) (new : Settings) : Device :=
  let old := (d.port p).settings
  let was := (d.port p).state
  if d.mode = .init then d.modPort p fun x => if old.kind = new.kind then x.withSettings new else x.newKind new
  else if old.kind ≠ new.kind then d.changeKind p new
  else
    let d1 := d.modPort p fun x => (x.clearedFlaps new).withSettings new
    if old.mask = true ∧ new.mask = false then d1.enter p
    else if old.mask = false ∧ new.mask = true ∧ was ≠ .faulted then d1.dropTo p .idle
    else if old.latency ≠ new.latency ∧ was.joined = true then d1.freshJoin p
    else if (old.latency ≠ new.latency ∨ old.join ≠ new.join) ∧ was = .acquiring then d1.extend.chooseAgain p
    else d1

/-! ## Presence (R113 to R116) -/

/-- R113: the raw level differs from the filtered presence and has not changed for 20,000 µs. -/
def Device.presenceDue (d : Device) (p : PortIx) : Bool :=
  (d.port p).raw != (d.port p).presence && timeReached d.time (timePlus (d.port p).rawSince 20000)

/-- R116: a flap entry has left the history by now. -/
def flapAged (now t : Time) : Bool := timeReached now (timePlus t 10000000)

/-- R116: the entries still held. -/
def Device.heldFlaps (d : Device) (p : PortIx) : List Time := (d.port p).flaps.filter fun t => !flapAged d.time t

/-- R116: the history of a port that is not FAULTED has an entry that has aged. -/
def Device.flapDue (d : Device) (p : PortIx) : Bool := (d.port p).state != .faulted && (d.port p).flaps.any (flapAged d.time)

/-- R116: the third loss within 10 s masks the port, makes it FAULTED and captures PORT_FLAP. -/
def Device.flapFault (d : Device) (p : PortIx) : Device :=
  ((d.modPort p fun x => { x with settings := { x.settings with mask := true } }).dropTo p .faulted).captureFault .portFlap (some p.val) none

/-- R115: a recognized loss of a port that follows the timeline or is about to. -/
def Device.losePresence (d : Device) (p : PortIx) : Device :=
  let d1 := d.modPort p fun x => { x with flaps := d.heldFlaps p ++ [d.time] }
  if 3 ≤ (d1.port p).flaps.length then d1.flapFault p
  else if (d1.port p).settings.rejoinHost then (d1.modPort p fun x => { x with settings := { x.settings with mask := true } }).dropTo p .idle
  else d1.dropTo p .detached

/-- R114, R115: the filtered presence takes the raw level, and acts on the port's state. -/
def Device.recognize (d : Device) (p : PortIx) : Device :=
  let d1 := d.modPort p fun x => { x with presence := x.raw }
  if (d.port p).raw then (if (d.port p).state = .detached then d1.enter p else d1)
  else if (d.port p).state.counts then d1.losePresence p
  else d1

/-- R116: aged entries leave the history. -/
def Device.ageFlaps (d : Device) (p : PortIx) : Device := d.modPort p fun x => { x with flaps := d.heldFlaps p }

end Sys2Proof.Machine
end

