-- ==== Sys2Proof/Machine/Runs.lean ====
section
/-! DEFINITION. The beginning and the end of a run (R10 to R14, R96, R122, R150). -/
namespace Sys2Proof.Machine

/-! ## Beginning (R10 to R12) -/

/-- R11: the start instant without a locked follower. -/
def Device.plainStart (d : Device) : Instant := timeInstant (timePlus d.time (d.lmax + 8000))

/-- The predicted mark n beats after an accepted mark (R11, R55, R66). -/
def predictedMark (mark : Time) (period n : Nat) : Instant := timeInstant mark + BitVec.ofNat 64 (n * (96 * period))

/-- R11: the number of beats to the earliest predicted mark at or after an instant. -/
def beatsUntil (mark : Time) (period : Nat) (limit : Instant) : Nat :=
  ((instDiff limit (timeInstant mark)).toNat + (96 * period - 1)) / (96 * period)

/-- R11: the instant of PI 0 of a run begun by START. -/
def Device.startInstant (d : Device) : Instant :=
  match d.follower.state, d.follower.period, d.follower.lastMark with
  | .locked, some p, some m => predictedMark m p (beatsUntil m p d.plainStart)
  | _, _, _ => d.plainStart

/-- R10: the period of the segment START opens. -/
def Device.startPeriod (d : Device) : Nat :=
  match d.follower.state, d.follower.period with
  | .locked, some p => p
  | _, _ => d.planner.heldPeriod

/-- The state START opens (R10). -/
def Device.startOpening (d : Device) : Opening :=
  { first := 0, instant := d.startInstant, period := d.startPeriod, meter := d.planner.heldMeter, origin := 0, bar := 1, beat := 1, resumed := false }

/-- The state CONTINUE opens after a stop at r (R12). -/
def Device.continueOpening (d : Device) (r : StoppedRun) : Opening :=
  { first := r.pi + 1, instant := d.plainStart, period := d.planner.heldPeriod, meter := d.planner.heldMeter, origin := d.planner.heldOrigin, bar := r.bar,
    beat := r.beat, resumed := true }

/-- The planner as a run begins: the horizon clear, no anchor, nothing planned or pending; START empties the beat history (R38). -/
def Planner.opened (pl : Planner) (o : Opening) : Planner :=
  { pl with
    stopped := none, latched := none, plan := [], anchor := none, opening := some o, cursor := some o.first,
    history := (if o.resumed then pl.history else []), horizon := none, pendPeriod := none, pendSpread := none, pendBalance := none }

/-- R128: the join form of a CLOCK port that was joined before the run: a START gives the RESET pulse, a CONTINUE only RUN at the reach of s+1. -/
def Device.reformClock (d : Device) (p : PortIx) (o : Opening) : Device :=
  if o.resumed then (if (d.port p).run = .run then d.modPort p fun x => { x with clock := { x.clock with form := .ready o.first } } else d)
  else d.takeForm p o.first

/-- R122: the join form that a port already SETTLING or LOCKED makes. -/
def Device.reform (d : Device) (p : PortIx) (o : Opening) : Device :=
  match (d.port p).settings.kind with
  | .clock => d.reformClock p o
  | .step => d.takeForm p o.first
  | _ => d

/-- R150: the mixer at the beginning of a run, of a port in LOCKED or away from it (log 46). -/
def Mixer.begins (m : Mixer) (resumed : Bool) : Mixer := if resumed then m.forget else m.settle

/-- R122: the port's record as a run begins: cursor at the first PI, a SETTLING port counts its beats afresh. -/
def Port.begins (x : Port) (o : Opening) (meter origin : Nat) : Port :=
  { x with
    cursor := o.first
    join := (if x.state.counts then some o.first else x.join)
    joinMeter := meter
    joinOrigin := origin
    settleEnd := (if x.state = .settling then some (o.first + 96 * x.settings.settle) else x.settleEnd)
    cues := (if x.state.joined then x.cues.map fun c => { c with mark := some o.first } else x.cues)
    mixer := x.mixer.begins o.resumed }

/-- R122: one port as a run begins. -/
def Device.beginPort (o : Opening) (d : Device) (p : PortIx) : Device :=
  let found := match d.entryAt o.first with | some e => (e.snap.meter, e.snap.origin) | none => (o.meter, o.origin)
  let d1 := d.modPort p (·.begins o found.1 found.2)
  match (d.port p).state with
  | .acquiring => d1.takeForm p o.first
  | .settling => d1.reform p o
  | .locked => d1.reform p o
  | _ => d1

/-- R96: judges every HELD port cue against the first PI, in ascending slot index. -/
def Device.judgeAll (d : Device) (first : Nat) : Device :=
  (sortNats (allPorts.flatMap fun p => (d.port p).cues.map (·.slot))).foldl
    (fun d n => allPorts.foldl (fun d p => d.judgeAtStart first p n) d) d

/-- R10, R12: a run begins: its first pulse is planned, the plan extended, and the ports and the schedule take the first PI. -/
def Device.beginRun (d : Device) (o : Opening) : Device :=
  let d1 := ({ d with planner := d.planner.opened o }).setTransport .running
  let d2 := (d1.moveGlobals.planPulse).extend
  (d2.eachPort (Device.beginPort o)).judgeAll o.first

/-! ## End (R14) -/

/-- R128, R129: the lines of a CLOCK port as the run ends: a RUN that waits for its last edge falls with it, everything else is low. Where a late join form is still in its RESET pulse or low gap, R128 has RUN and the edge of j follow, and R129 has wire B low and wire A at rest while STOPPED: the model's choice is that the pulse ends, RUN does not rise, and the edges that wait begin at once (log 54). -/
def ClockLine.runEnds (c : ClockLine) (now : Time) : ClockLine :=
  { c with wireB := c.wireB && c.fallOwed && c.form == ClockForm.none, form := .none }.startEdge now

/-- R122, R130, R150: one port as the run ends at s. R150 clears the last reached pulse of every mixer, and R151 keeps that of a LEVEL port away from LOCKED until it enters LOCKED again: the model's choice is to clear every one (log 46). -/
def Port.runEnds (x : Port) (s : Nat) (now : Time) : Port :=
  { x with
    cursor := s + 1
    join := (if x.state = .acquiring then none else x.join)
    resume := none
    clock := x.clock.runEnds now
    step := { x.step with form := .none, timing := (if x.resume.isSome then withdrawChars .resumeForm x.step.timing else x.step.timing), resumeQueued := false }
    mixer := x.mixer.forget }

/-- An ACQUIRING port's join form is abandoned as the run ends; every port's cursor becomes s+1. -/
def Device.endPort (s : Nat) (d : Device) (p : PortIx) : Device :=
  (if (d.port p).state = .acquiring then d.dropJoin p else d).modPort p (·.runEnds s d.time)

/-- R14: a HELD STOP cue ends MISSED with reason STOPPED. -/
def Device.missStop (d : Device) (c : Cue) : Device :=
  ({ d with globals := dropCue c.slot d.globals }).endCue c stMissed .stopped c.due d.time

/-- A STOP cue. -/
def Cue.isStop (c : Cue) : Bool :=
  match c.body with
  | .stop => true
  | _ => false

/-- The planner after a run that ended at e (R9, R14): the beat history is kept. -/
def Planner.ended (pl : Planner) (e : PlanEntry) : Planner :=
  { pl with
    stopped := some { pi := e.pi, bar := e.bar, beat := e.beat }, heldPeriod := e.segValue, heldMeter := e.snap.meter, heldOrigin := e.snap.origin,
    latched := none, plan := [], anchor := none, opening := none, cursor := none, horizon := none, pendPeriod := none, pendSpread := none, pendBalance := none }

/-- R14: the run ends as the reference cursor retires the stop pulse. R14 gives the STOP cues still HELD no order in which they end: the model's choice is the order of the global list (log 45). -/
def Device.endRun (d : Device) (e : PlanEntry) : Device :=
  let d1 := ({ d with planner := d.planner.ended e }).setTransport .stopped
  ((d1.globals.filter (·.isStop)).foldl Device.missStop d1).eachPort (Device.endPort e.pi)

end Sys2Proof.Machine
end

