-- ==== Sys2Proof/Machine/Reach.lean ====
section
/-! DEFINITION. Reaching pulses: a port's reach with its join, dispatch and emission (R97, R99, R101, R117, R120, R127 to R133, R138, R146), and the reference cursor's reach with misses, retirement and the end of the run (R36 to R38, R98, R14). -/
namespace Sys2Proof.Machine

/-! ## Whether a port's reach is due (R117, R120) -/

/-- The pulse the port reaches next, if it follows the timeline or is about to join. -/
def Port.nextReach (x : Port) : Option Nat :=
  match x.state with
  | .settling => some x.cursor
  | .locked => some x.cursor
  | .acquiring => x.join
  | _ => none

/-- The entry port p reaches now: it is in the plan and its due time has come. -/
def Device.portReachDue (d : Device) (p : PortIx) : Option PlanEntry :=
  if !d.runUnderWay then none
  else match (d.port p).nextReach with
    | none => none
    | some k => match d.planEntry k with
      | none => none
      | some e => if timeReached d.time (e.due (d.port p).settings.latency) then some e else none

/-! ## The port's state on reaching k (R120) -/

/-- R120: an ACQUIRING port reaches its join pulse. -/
def Device.joinAt (d : Device) (p : PortIx) (k : Nat) : Device :=
  let n := (d.port p).settings.settle
  ((d.modPort p fun x => { x with join := some k, settleEnd := some (k + 96 * n) }).setState p (if n = 0 then .locked else .settling)).markAll p (some k)

/-- R120: the settle end has been reached. -/
def Device.settleAt (d : Device) (p : PortIx) (k : Nat) : Device :=
  match (d.port p).settleEnd with
  | some e => if e ≤ k then d.setState p .locked else d
  | none => d

/-- The cursor becomes k+1, and the port takes the state it holds on reaching k. -/
def Device.arrive (d : Device) (p : PortIx) (k : Nat) : Device :=
  let d1 := d.modPort p fun x => { x with cursor := k + 1 }
  match (d.port p).state with
  | .acquiring => d1.joinAt p k
  | .settling => d1.settleAt p k
  | _ => d1

/-! ## Dispatch (R97, R99, R101) -/

/-- The SCENE or PORT RUN that fired last at the reach under way, and where its attempt left it. One with no attempt left ends when it is known whether it is superseded (R101), so that its result is complete before its final state (R79, R81, log 47). -/
inductive LastFired where
  | none
  /-- in the port's list again -/
  | listed (slot : Nat)
  /-- still to be ended -/
  | ending (c : Cue)
  deriving DecidableEq, Repr

/-- R101: flag SUPERSEDED. -/
def Cue.superseded (c : Cue) : Cue := { c with flags := { c.flags with superseded := true } }

/-- R101: another SCENE or PORT RUN fires at the same reach, and the one before it is superseded: in its list, or as it ends. -/
def Device.supersede (d : Device) (p : PortIx) : LastFired → Device
  | .none => d
  | .listed n => d.modPort p fun x => { x with cues := x.cues.map fun c => if c.slot = n then c.superseded else c }
  | .ending c => d.endAttempts c.superseded

/-- R101: the reach has taken its cues, and the SCENE or PORT RUN that fired last is not superseded. -/
def Device.endLast (d : Device) : LastFired → Device
  | .ending c => d.endAttempts c
  | _ => d

/-- R101: a cue taken again at the same reach supersedes its own earlier attempt (log 11). -/
def LastFired.mark (last : LastFired) (c : Cue) : Cue := if last = .listed c.slot then c.superseded else c

/-- R99, R101: a SCENE or PORT RUN has fired: it is re-armed, or waits to be ended. -/
def Device.noteFired (d : Device) (p : PortIx) (c : Cue) : Device × LastFired :=
  let x := d.settled p c
  if x.ends then (d, .ending x.cue) else (d.enterList p x.cue, .listed x.cue.slot)

/-- R136: a SEND fired at the reach of k is admitted to the message queue, or skipped PORT_FULL with LINK_OVERRUN. -/
def Device.offerSend (d : Device) (p : PortIx) (k : Nat) (c : Cue) : Device :=
  if (d.port p).step.hasRoom then
    (d.modPort p fun x => { x with step := { x.step with queue := x.step.queue ++ [{ cue := c, pi := k, time := d.time, sent := 0, releases := 0 }] } }).writeProgress c k
  else (d.captureFault .linkOverrun (some p.val) (some c.slot)).settleAttempt p ({ c with bytes := 0 }.afterSkip .portFull)

/-- R148: the mixer after a SCENE fired at the reach of k. -/
def Device.fireScene (d : Device) (p : PortIx) (k number fade : Nat) (m : Modulator) (first last : Nat) : Device :=
  let c := d.copyLevels (sceneBase number)
  c.2.modPort p fun x => { x with mixer := x.mixer.fire k c.1 fade m first last }

/-- R99: a fired attempt acts by its kind; the second component is the SCENE or PORT RUN that fired last at this reach. -/
def Device.fireCue (d : Device) (p : PortIx) (k : Nat) (last : LastFired) (c : Cue) : Device × LastFired :=
  match c.body with
  | .send _ _ _ _ _ => (d.offerSend p k c, last)
  | .portRun action => ((d.supersede p last).modPort p fun y => { y with run := action }).noteFired p ((last.mark c).afterFire k d.time)
  | .scene number fade m first lastCh =>
    ((d.supersede p last).fireScene p k number fade m first lastCh).noteFired p ((last.mark c).afterFire k d.time)
  | _ => (d, last)

/-- R97: the reason of an attempt skipped at dispatch. -/
def Cue.skipReason (c : Cue) : Reason :=
  match c.mark with
  | some j => if j ≤ c.due then .settling else .late
  | none => .late

/-- R97: judges and fires or skips the cue taken from the head at the reach of k. -/
def Device.dispatchOne (d : Device) (p : PortIx) (k : Nat) (last : LastFired) (c : Cue) : Device × LastFired :=
  let d1 := d.modPort p fun x => { x with cues := dropCue c.slot x.cues }
  if d.withinGrace c.grace (k - c.due) then
    d1.fireCue p k last { c with flags := { c.flags with late := c.flags.late || decide (c.due < k) } }
  else (d1.settleAttempt p (c.afterSkip c.skipReason), last)

/-- R97: takes the head of the port's list while its due PI is at or below k, and then ends what fired last. A re-armed cue still due at or below k is taken again (log 11); R100 leaves at most one such turn to each cue, so the count suffices. -/
def Device.dispatchLoop : Nat → Device → PortIx → Nat → LastFired → Device
  | 0, d, _, _, last => d.endLast last
  | n + 1, d, p, k, last =>
    match (d.port p).cues.head? with
    | none => d.endLast last
    | some c =>
      if k < c.due then d.endLast last
      else match d.dispatchOne p k last c with
        | (d1, last1) => Device.dispatchLoop n d1 p k last1

/-- R97 in SETTLING: deferred cues without a mark take the port's join pulse. -/
def Device.deferCues (d : Device) (p : PortIx) (k : Nat) : Device :=
  d.modPort p fun x =>
    { x with cues := x.cues.map fun c => if c.due ≤ k ∧ c.mark = none then { c with mark := x.join } else c }

/-- R97 by the state on reaching k. -/
def Device.dispatch (d : Device) (p : PortIx) (k : Nat) : Device :=
  match (d.port p).state with
  | .locked => Device.dispatchLoop (2 * (d.port p).cues.length + 2) d p k .none
  | .settling => d.deferCues p k
  | _ => d

/-! ## Emission -/

/-- R130: the lowest division boundary above k as the resume boundary; none where it lies above the latched stop pulse. -/
def Device.resumeAt (d : Device) (p : PortIx) (k : Nat) : Option Nat :=
  let b := boundaryAbove (d.port p).settings.division k
  if d.mayJoin b then some b else none

/-- R127: k is a division boundary of the port. -/
def Port.onBoundary (x : Port) (k : Nat) : Bool := k % x.settings.division == 0

/-- R127 to R129: the CLOCK lines at a reach with run state RUN before and after: RUN of the join or resume form, the edge, the stop form. -/
def ClockLine.reach (c : ClockLine) (now : Time) (x : Port) (e : PlanEntry) : ClockLine :=
  let edge : Bool := x.onBoundary e.pi
  let c1 := if x.resume = some e.pi then c.runRises else c.joinReached now e.pi
  let c2 := if edge then c1.emit now { pi := e.pi, width := edgeWidth x.settings.division e.period } else c1
  if e.stop then c2.stopForm edge else c2

/-- R127, R129, R130: a CLOCK port's traffic for a reach, from the run state before the cues. Where a PORT SETUP changes the division while a resume form is pending, R130 does not say whether b moves: the model's choice is that b stays as it was found at k, and that no edge or timing character is emitted below b (log 40). -/
def Device.emitClock (d : Device) (p : PortIx) (before : RunState) (e : PlanEntry) : Device :=
  match before, (d.port p).run with
  | .run, .halt => d.modPort p fun x => { x with resume := none, clock := x.clock.halt }
  | .halt, .run => d.modPort p fun x => { x with resume := d.resumeAt p e.pi }
  | .halt, .halt => d
  | .run, .run =>
    match (d.port p).resume with
    | some b =>
      if b = e.pi then d.modPort p fun x => { x with resume := none, clock := x.clock.reach d.time x e } else d
    | none => d.modPort p fun x => { x with clock := x.clock.reach d.time x e }

/-- R133: BAR, BEAT or TICK. -/
def timingCode (e : PlanEntry) : BitVec 9 := if e.barStart then chBar else if e.beatStart then chBeat else chTick

/-- R133: the timing characters of a reach with run state RUN: the division character, and STOP at the stop pulse. -/
def Port.timingChars (x : Port) (e : PlanEntry) (char : Bool) : List TimingChar :=
  (if char && x.onBoundary e.pi then [TimingChar.plain (timingCode e)] else []) ++ (if e.stop then [TimingChar.plain chStop] else [])

/-- R134: at the reach of j, a join form not yet queued goes first; the form is then no longer under way. -/
def Device.joinFormReached (d : Device) (p : PortIx) (k : Nat) : Device :=
  (match (d.port p).step.form with
   | .pending j => if j = k then d.queueJoinForm p j else d
   | _ => d).modPort p fun x => { x with step := { x.step with form := .none } }

/-- R130: once b has been reached, no later halt withdraws what is left of its resume form. -/
def TimingChar.confirmed (c : TimingChar) : TimingChar := if c.source = .resumeForm then { c with source := .plain } else c

/-- R130: the resume form goes before the character of b if it is not queued yet; the resume is then done. -/
def Device.resumeReached (d : Device) (p : PortIx) (b : Nat) : Device :=
  (if (d.port p).step.resumeQueued then d else d.queueResumeForm p b).modPort p fun x =>
    { x with resume := none, step := { x.step with timing := x.step.timing.map (·.confirmed), resumeQueued := false } }

/-- R130: a halt at k ends a pending resume: below b its form is withdrawn, at or above b it is sent. -/
def Device.endResume (d : Device) (p : PortIx) (k : Nat) : Device :=
  match (d.port p).resume with
  | none => d
  | some b =>
    if k < b then
      d.modPort p fun x => { x with resume := none, step := { x.step with timing := withdrawChars .resumeForm x.step.timing, resumeQueued := false } }
    else d.resumeReached p b

/-- R130: the STEP halt form at the reach of k: a join form not yet queued is not made, and STOP is queued. -/
def Device.haltStep (d : Device) (p : PortIx) (k : Nat) : Device :=
  ((d.endResume p k).modPort p fun x => { x with step := { x.step with form := .none } }).queueChar p (TimingChar.plain chStop)

/-- R130, R133, R134: a STEP port's traffic for a reach, from the run state before the cues (below a pending b as for a CLOCK port, log 40). -/
def Device.emitStep (d : Device) (p : PortIx) (before : RunState) (e : PlanEntry) : Device :=
  match before, (d.port p).run with
  | .run, .halt => d.haltStep p e.pi
  | .halt, .run =>
    ((d.modPort p fun x => { x with resume := d.resumeAt p e.pi, step := { x.step with resumeQueued := false } }).tryResumeForm p).queueChars p
      ((d.port p).timingChars e false)
  | .halt, .halt => d
  | .run, .run =>
    match (d.port p).resume with
    | some b =>
      if b = e.pi then (d.resumeReached p b).queueChars p ((d.port p).timingChars e true) else d.queueChars p ((d.port p).timingChars e false)
    | none => (d.joinFormReached p e.pi).queueChars p ((d.port p).timingChars e true)

/-- R117: the traffic of the port's kind for a reach; a LEVEL port moves its fade and its last reached pulse (R146). -/
def Device.emit (d : Device) (p : PortIx) (before : RunState) (e : PlanEntry) : Device :=
  match (d.port p).settings.kind with
  | .clock => d.emitClock p before e
  | .step => (d.emitStep p before e).pump p
  | .level => d.modPort p fun x => { x with mixer := x.mixer.reach e.pi }
  | .none => d

/-- R138: a release for the SEND that was head before the reach; none is head until an ABORT has ended (R140). -/
def StepLine.release (s : StepLine) (beatStart boundary : Bool) : StepLine :=
  match s.queue with
  | f :: rest => if f.cue.body.pacing.releasedBy beatStart boundary && !s.aborting then { s with queue := f.released :: rest } else s
  | [] => s

/-- R117, R120: port p reaches the pulse of an entry: arrival, the commit horizon, a release, dispatch, emission. -/
def Device.reachPort (d : Device) (p : PortIx) (e : PlanEntry) : Device :=
  let d1 := ((d.arrive p e.pi).raiseHorizon e.pi).modPort p fun x => { x with step := x.step.release e.beatStart (x.onBoundary e.pi) }
  (d1.dispatch p e.pi).emit p (d1.port p).run e

/-- PORT_REACH: nothing happens before the due time. -/
def Device.tryReach (d : Device) (p : PortIx) : Device :=
  match d.portReachDue p with
  | some e => d.reachPort p e
  | none => d

/-! ## The reference cursor (R36 to R38, R98) -/

/-- The entry the reference cursor reaches now. -/
def Device.cursorReachDue (d : Device) : Option PlanEntry :=
  match d.planner.plan.head?, d.planner.cursor with
  | some e, some k => if d.runUnderWay && e.pi == k && timeReached d.time (instantTime e.instant) then some e else none
  | _, _ => none

/-- R98: skips the head of a port's list while its due PI is at or below k; a re-armed cue is due above k. -/
def Device.missLoop : Nat → Device → PortIx → Nat → Device
  | 0, d, _, _ => d
  | n + 1, d, p, k =>
    match (d.port p).cues.head? with
    | none => d
    | some c =>
      if k < c.due then d
      else Device.missLoop n ((d.modPort p fun x => { x with cues := dropCue c.slot x.cues }).settleAttempt p (c.afterSkip .detached)) p k

/-- R98: the misses of a port that is not SETTLING or LOCKED. -/
def Device.missPort (k : Nat) (d : Device) (p : PortIx) : Device :=
  if (d.port p).state.joined then d else Device.missLoop (d.port p).cues.length d p k

/-- R38: the beat history holds up to four instants. -/
def appendHistory (h : List Instant) (i : Instant) : List Instant := (h ++ [i]).drop ((h ++ [i]).length - 4)

/-- R37, R38: the entry is retired: it becomes the anchor, and a beat start enters the history. -/
def Planner.retire (pl : Planner) (e : PlanEntry) : Planner :=
  { pl with plan := pl.plan.tail, anchor := some e, history := if e.beatStart then appendHistory pl.history e.instant else pl.history }

/-- Reaches of one port that are due, below pulse `bound` (log 23). -/
def Device.catchUpLoop (bound : Nat) : Nat → Device → PortIx → Device
  | 0, d, _ => d
  | n + 1, d, p =>
    match d.portReachDue p with
    | some e => if e.pi < bound then Device.catchUpLoop bound n (d.reachPort p e) p else d
    | none => d

/-- The due reaches of the ports whose latency is not 0: their reach of the cursor's pulse was due before the cursor's (R98). -/
def Device.catchUpEarly (d : Device) (e : PlanEntry) : Device :=
  d.eachPort fun d p => if (d.port p).settings.latency = 0 then d else Device.catchUpLoop (e.pi + 1) 257 d p

/-- Before a pulse is retired, the ports take their due reaches of the pulses up to it: no port reads an entry once it has left the plan (R37, R14, log 23). -/
def Device.catchUp (d : Device) (e : PlanEntry) : Device := d.eachPort (Device.catchUpLoop (e.pi + 1) 257)

/-- R36, R39, R98: the reference cursor arrives at the pulse of an entry: the commit horizon rises, and the due cues of the ports that are not ready are missed. R98 gives the lists no order: the model's choice is ascending port index (log 50). -/
def Device.cursorArrives (d : Device) (e : PlanEntry) : Device :=
  ({ d with planner := { d.planner with cursor := some (e.pi + 1) } }.raiseHorizon e.pi).eachPort (Device.missPort e.pi)

/-- R37, R38, R14: the entry is retired, and with the stop pulse the run ends. -/
def Device.retireEntry (d : Device) (e : PlanEntry) : Device :=
  let d1 := { d with planner := d.planner.retire e }
  let d2 := if e.beatStart then d1.requestStatus else d1
  if d.planner.latched = some e.pi then d2.endRun e else d2

/-- R36, R98: the reference cursor reaches the pulse of an entry. A port of latency 0 whose reach of the same pulse has not been taken yet follows after the misses: an ACQUIRING one joins with those cues gone (log 23). -/
def Device.reachCursor (d : Device) (e : PlanEntry) : Device := (((d.catchUpEarly e).cursorArrives e).catchUp e).retireEntry e

/-- REFERENCE_CURSOR_REACH: nothing happens before the due time. -/
def Device.tryCursorReach (d : Device) : Device :=
  match d.cursorReachDue with
  | some e => d.reachCursor e
  | none => d

end Sys2Proof.Machine
end

