-- ==== Sys2Proof/Machine/FollowerOps.lean ====
section
/-! DEFINITION. The beat follower (Chapter 4): marks, the seeking test, locking, judging, corrections, its setup, and nudges. -/
namespace Sys2Proof.Machine

/-- R55: a change of follower state latches FOLLOW and requests a status write. -/
def Device.setFollower (d : Device) (st : FollowerState) : Device :=
  if d.follower.state = st then d
  else ({ d with follower := { d.follower with state := st } }.latch .follow).requestStatus

/-- A device time moved by a signed number of µs. -/
def timeShift (t : Time) (n : Int) : Time := t + BitVec.ofInt 48 n

/-! ## The mark set (R56, R57) -/

/-- R57: one interval of a train of length D. -/
def intervalPasses (i d : Int) : Bool :=
  decide (200000 ≤ i) && decide (i ≤ 1500000) && decide (50 * (3 * i - d).natAbs ≤ d.natAbs)

/-- R57: the four marks pass; the result is D. -/
def trainLength : List Time → Option Nat
  | [t1, t2, t3, t4] =>
    let d := timeDiff t4 t1
    if intervalPasses (timeDiff t2 t1) d && intervalPasses (timeDiff t3 t2) d && intervalPasses (timeDiff t4 t3) d then some d.toNat else none
  | _ => none

/-- R58: the follower's record after locking on a train of length D whose newest mark is t4. -/
def Follower.locked (f : Follower) (len : Nat) (t4 : Time) : Follower :=
  { f with period := some (intervalPeriod len 3), lastMark := some t4, rejects := 0, wide := true, marks := [] }

/-- The planner takes the follower's period and, after a correction, a new spread, as pending inputs, and re-plans (R42). -/
def Device.correct (d : Device) (period : Nat) (spread : Option Spread) : Device :=
  if d.runUnderWay then
    { d with planner := { d.planner with pendPeriod := some period, pendSpread := (match spread with | some x => some x | none => d.planner.pendSpread) } }.replan
  else d

/-- R58: the follower locks; a spread in progress or pending is not replaced. -/
def Device.lockFollower (d : Device) (len : Nat) (t4 : Time) : Device :=
  ({ d with follower := d.follower.locked len t4 }.setFollower .locked).correct (intervalPeriod len 3) none

/-- R56: a mark joins the set; a full set is tested. -/
def Device.collectMark (d : Device) (tm : Time) : Device :=
  let marks := d.follower.marks ++ [tm]
  if marks.length < 4 then { d with follower := { d.follower with marks := marks } }
  else match trainLength marks with
    | some len => d.lockFollower len tm
    | none => { d with follower := { d.follower with marks := marks.tail } }

/-! ## The reference beat (R59, R60, R66) -/

/-- R59: of two instants the one nearer to the target, the first on a tie. -/
def nearer (target a b : Instant) : Instant :=
  if (instDiff b target).natAbs < (instDiff a target).natAbs then b else a

/-- R59: the projected beat start above the tail. -/
def PlanEntry.projected (e : PlanEntry) : Instant :=
  e.instant + BitVec.ofNat 64 ((nextMultiple 0 96 (e.pi + 1) - e.pi) * e.segValue)

/-- R59: the candidates, earliest first. -/
def Device.beatCandidates (d : Device) (target : Instant) : List Instant :=
  let known := d.planner.history ++ (d.planner.plan.filter (·.beatStart)).map (·.instant)
  if known.any (fun i => decide (0 < instDiff i target)) then known
  else match d.planner.plan.getLast? with
    | some e => known ++ [e.projected]
    | none => known

/-- R66: the predicted mark nearest to a target, the earlier on a tie. -/
def nearestPrediction (mark : Time) (period : Nat) (target : Instant) : Instant :=
  let n := (instDiff target (timeInstant mark)).toNat / (96 * period)
  nearer target (predictedMark mark period n) (predictedMark mark period (n + 1))

/-- R59, R66: the instant Tb that a mark is judged against. -/
def Device.referenceBeat (d : Device) (tm : Time) : Instant :=
  if d.runUnderWay then
    match d.beatCandidates (timeInstant tm) with
    | i :: rest => rest.foldl (nearer (timeInstant tm)) i
    | [] => timeInstant tm
  else match d.follower.lastMark, d.follower.period with
    | some m, some p => nearestPrediction m p (timeInstant tm)
    | _, _ => timeInstant tm

/-- R60: the mark error E. -/
def Device.markError (d : Device) (tm : Time) : Int := timeDiff tm (instantTime (d.referenceBeat tm))

/-- R60: the reference period P_B. -/
def Device.referencePeriod (d : Device) : Nat :=
  if d.runUnderWay then
    match d.planner.horizon with
    | some _ => (match d.entryC with | some e => e.segValue | none => d.planner.heldPeriod)
    | none => (match d.planner.plan.head? with | some e => e.segValue | none => d.planner.heldPeriod)
  else match d.follower.period with | some p => p | none => d.planner.heldPeriod

/-- R60: the divisor of the window. -/
def Follower.window (f : Follower) : Nat := if f.wide then 2 else 4

/-! ## Judging (R61 to R64) -/

/-- R61: a rejected mark; the fourth in a row enters HOLDING and captures FOLLOW_LOST. -/
def Device.rejectMark (d : Device) (tm : Time) (err : Int) : Device :=
  if d.follower.rejects + 1 < 4 then { d with follower := { d.follower with rejects := d.follower.rejects + 1, lastE := err } }
  else ({ d with follower := { d.follower with rejects := 0, lastE := err, marks := [tm] } }.setFollower .holding).captureFault .followLost none none

/-- R62: the beat count of an interval of I µs. -/
def beatCount (i pB : Nat) : Nat := roundDiv (i * 65536) (96 * pB)

/-- R62: the follower period after an accepted mark. -/
def updatedPeriod (p gt n i : Nat) : Nat :=
  if 1 ≤ n ∧ n ≤ 4 then clampPeriod ((p : Int) + ((((intervalPeriod i n : Nat) : Int) - p) * gt).tdiv 16) else p

/-- R63: the phase correction S. -/
def phaseCorrection (err : Int) (gp p : Nat) : Int :=
  let s := err * 4096 * gp
  if s < -(6 * p : Nat) then -(6 * p : Nat) else if ((6 * p : Nat) : Int) < s then ((6 * p : Nat) : Int) else s

/-- R62, R63: the period that an accepted mark leaves. -/
def Device.nextPeriod (d : Device) (tm : Time) : Nat :=
  match d.follower.period, d.follower.lastMark with
  | some p, some m =>
    let i := (timeDiff tm m).toNat
    updatedPeriod p d.follower.gt (beatCount i d.referencePeriod) i
  | some p, none => p
  | none, _ => d.referencePeriod

/-- R62 to R64: an accepted mark updates the period, clears the wide window when near, and hands period and phase correction to the planner. -/
def Device.acceptMark (d : Device) (tm : Time) (err : Int) : Device :=
  let p := d.nextPeriod tm
  { d with follower := { d.follower with
      rejects := 0, lastE := err, wide := d.follower.wide && !belowBeat err 16 d.referencePeriod, period := some p, lastMark := some tm } }.correct p
    (some (Spread.begin (phaseCorrection err d.follower.gp p)))

/-- R60: judges a mark while LOCKED. -/
def Device.judgeMark (d : Device) (tm : Time) : Device :=
  if exceedsBeat (d.markError tm) d.follower.window d.referencePeriod then d.rejectMark tm (d.markError tm)
  else d.acceptMark tm (d.markError tm)

/-- R50: an edge within 100,000 µs of the previous taken mark is a bounce. -/
def Device.debounced (d : Device) : Bool :=
  match d.follower.prevTaken with
  | some t => decide (timeDiff d.time t < 100000)
  | none => false

/-- R51, R54: a taken mark by the follower's state. -/
def Device.takeMark (d : Device) (tm : Time) : Device :=
  match d.follower.state with
  | .off => d
  | .seeking => d.collectMark tm
  | .holding => d.collectMark tm
  | .locked => d.judgeMark tm

/-- R50: a rising edge on a beat sense input. -/
def Device.beatEdge (d : Device) (input : BeatInput) : Device :=
  if d.follower.state = .off ∨ d.follower.source ≠ input ∨ d.debounced = true then d
  else { d with follower := { d.follower with prevTaken := some d.time } }.takeMark (timeShift d.time d.follower.offset)

/-! ## Setup (R52, R53) -/

/-- The five fields of a follower setup (Table 4-1). -/
structure FollowSettings where
  follow : Bool
  source : BeatInput
  offset : Int
  gt : Nat
  gp : Nat
  deriving DecidableEq, Repr

/-- The follower with another setup. -/
def Follower.withSetup (f : Follower) (g : FollowSettings) : Follower :=
  { f with follow := g.follow, source := g.source, offset := g.offset, gt := g.gt, gp := g.gp }

/-- R53, R54, R64: what entering OFF or SEEKING clears. -/
def Follower.cleared (f : Follower) : Follower :=
  { f with marks := [], period := none, lastMark := none, rejects := 0, wide := false, lastE := 0 }

/-- R50: the previous taken mark is forgotten in OFF and at a changed source. -/
def Follower.forgotten (f : Follower) : Follower := { f with prevTaken := none }

/-- R53: the effect of a FOLLOW SETUP. -/
def Device.setupFollower (d : Device) (g : FollowSettings) : Device :=
  let f := d.follower.withSetup g
  if !g.follow then { d with follower := f.cleared.forgotten }.setFollower .off
  else if d.follower.state = .off then { d with follower := f.cleared.forgotten }.setFollower .seeking
  else if d.follower.source ≠ g.source then { d with follower := f.cleared.forgotten }.setFollower .seeking
  else if d.follower.offset ≠ g.offset then { d with follower := f.cleared }.setFollower .seeking
  else { d with follower := f }

/-! ## Nudges (R49, R67) -/

/-- R49: the balance that C+1 is to take. -/
def Device.nextBalance (d : Device) : Int :=
  match d.planner.pendBalance with
  | some b => b
  | none => match d.entryC with
    | some e => e.snap.balance
    | none => 0

/-- R67: a NUDGE write: discarded while STOPPED. -/
def Device.nudge (d : Device) (w : Word) : Device :=
  if d.runUnderWay then
    { d with planner := { d.planner with pendBalance := some (saturate64 (d.nextBalance + nudgeCount w)) } }.replan
  else d

/-- R55: the predicted next mark shown. -/
def Device.predictedNext (d : Device) : Nat :=
  match d.follower.state, d.follower.lastMark, d.follower.period with
  | .locked, some m, some p => timeLow32 (instantTime (predictedMark m p 1))
  | .holding, some m, some p => timeLow32 (instantTime (predictedMark m p 1))
  | _, _, _ => 0

end Sys2Proof.Machine
end

