-- ==== Sys2Proof/Machine/StatusPage.lean ====
section
/-! DEFINITION. The status write (R162, R163): the items of Table 10-2, the epoch, access by access. -/
namespace Sys2Proof.Machine

/-! ## What the page shows -/

/-- R3: the bar number and the beat in bar shown. -/
def Device.countsShown (d : Device) : Nat × Nat :=
  if d.runUnderWay then (match d.currentEntry with | some e => (e.bar, e.beat) | none => (1, 1))
  else match d.planner.stopped with | some r => (r.bar, r.beat) | none => (1, 1)

/-- R20: the current period. -/
def Device.periodShown (d : Device) : Nat :=
  if d.runUnderWay then (match d.currentEntry with | some e => e.segValue | none => d.planner.heldPeriod) else d.planner.heldPeriod

/-- R49: the nudge balance shown. -/
def Device.balanceShown (d : Device) : Int :=
  if d.runUnderWay then (match d.currentEntry with | some e => e.snap.balance | none => 0) else 0

/-- R39: the commit horizon shown. -/
def Device.horizonShown (d : Device) : Nat := match d.planner.horizon with | some c => c | none => 0

/-- The device time at the start of the status write under way. -/
def Device.writeStart (d : Device) : Nat := match d.writer with | some w => timeLow32 w.since | none => timeLow32 d.time

/-- R130, R144: the run state shown: RUN for NONE and LEVEL. -/
def Port.runShown (x : Port) : Nat :=
  match x.settings.kind with
  | .clock => x.run.code
  | .step => x.run.code
  | _ => 0

/-- R136: the queue depth shown: 0 for every kind but STEP. -/
def Port.depthShown (x : Port) : Nat := if x.settings.kind = .step then x.step.queue.length else 0

/-- A field of the fault record, 0 while it is empty. -/
def Device.faultShown (d : Device) (f : FaultRecord → Nat) : Nat := match d.capture with | some r => f r | none => 0

/-- The port field of a fault record: FFh for none. -/
def FaultRecord.portCode (r : FaultRecord) : Nat := match r.port with | some p => p | none => 0xFF

/-- The slot field of a fault record: FFFFh for none. -/
def FaultRecord.slotCode (r : FaultRecord) : Nat := match r.slot with | some n => n | none => 0xFFFF

/-! ## Items -/

/-- One access of a status write: offset, size in bytes, and the value as it stands when it is written. -/
structure StatusItem where
  offset : Nat
  size : Nat
  value : Device → Nat

/-- A stretch of bytes that Table 10-2 does not name, written 0. -/
def zeroItem (offset size : Nat) : StatusItem := { offset := offset, size := size, value := fun _ => 0 }

/-- Table 10-2, offsets 004h to 023h. -/
def headItems : List StatusItem :=
  [ { offset := 0x04, size := 1, value := fun d => d.planner.transport.code },
    { offset := 0x05, size := 1, value := fun d => d.mode.code },
    { offset := 0x06, size := 1, value := fun d => d.follower.state.code },
    { offset := 0x07, size := 1, value := fun d => d.meterShown },
    { offset := 0x08, size := 4, value := fun d => d.currentPI },
    { offset := 0x0C, size := 4, value := fun d => d.countsShown.1 },
    { offset := 0x10, size := 1, value := fun d => d.countsShown.2 },
    { offset := 0x11, size := 1, value := fun d => bit d.overflow },
    { offset := 0x12, size := 1, value := fun d => signedBytes 1 d.balanceShown },
    { offset := 0x13, size := 1, value := fun d => d.serviceByte },
    { offset := 0x14, size := 4, value := fun d => d.periodShown },
    { offset := 0x18, size := 4, value := fun d => tempoReadout d.periodShown },
    { offset := 0x1C, size := 4, value := fun d => d.horizonShown },
    { offset := 0x20, size := 1, value := fun d => bit d.planner.horizon.isSome },
    zeroItem 0x21 1,
    zeroItem 0x22 2 ]

/-- Table 10-2, offsets 024h to 07Fh. -/
def middleItems : List StatusItem :=
  [ { offset := 0x24, size := 4, value := fun d => d.lmax },
    { offset := 0x28, size := 4, value := fun d => signedBytes 4 d.follower.lastE },
    { offset := 0x2C, size := 4, value := fun d => d.predictedNext },
    { offset := 0x30, size := 2, value := fun d => d.heldSlots.length },
    zeroItem 0x32 2,
    { offset := 0x34, size := 4, value := fun d => d.writeStart },
    zeroItem 0x38 4,
    zeroItem 0x3C 4,
    { offset := 0x40, size := 1, value := fun d => d.faultShown (·.kind.code) },
    { offset := 0x41, size := 1, value := fun d => d.faultShown FaultRecord.portCode },
    { offset := 0x42, size := 2, value := fun d => d.faultShown FaultRecord.slotCode },
    { offset := 0x44, size := 4, value := fun d => d.faultShown (·.pi) },
    { offset := 0x48, size := 4, value := fun d => d.faultShown fun r => timeLow32 r.time },
    { offset := 0x4C, size := 1, value := fun d => d.faultShown (·.more) },
    zeroItem 0x4D 1,
    zeroItem 0x4E 2 ] ++ (List.range 12).map fun i => zeroItem (0x50 + 4 * i) 4

/-- Where the record of port p begins. -/
def recordBase (p : PortIx) : Nat := 0x80 + 16 * p.val

/-- The record of one port (Table 10-2). -/
def recordItems (p : PortIx) : List StatusItem :=
  [ { offset := recordBase p, size := 1, value := fun d => (d.port p).state.code },
    { offset := recordBase p + 1, size := 1, value := fun d => (d.port p).settings.kind.code },
    { offset := recordBase p + 2, size := 1, value := fun d => bit (d.port p).presence },
    { offset := recordBase p + 3, size := 1, value := fun d => (d.port p).runShown },
    { offset := recordBase p + 4, size := 4, value := fun d => (d.port p).settings.latency },
    { offset := recordBase p + 8, size := 4, value := fun d => (d.port p).cursor },
    { offset := recordBase p + 12, size := 1, value := fun d => (d.port p).depthShown },
    { offset := recordBase p + 13, size := 1, value := fun d => (d.port p).flaps.length },
    zeroItem (recordBase p + 14) 2 ]

/-- The items of a status write in the order written (log 8): the named items and the zero bytes, by rising offset. -/
def statusItems : List StatusItem :=
  headItems ++ middleItems ++ (allPorts.flatMap recordItems) ++ (List.range 128).map fun i => zeroItem (0x200 + 4 * i) 4

/-- The number of accesses of a status write: two of the epoch and one of each item. -/
def statusAccesses : Nat := statusItems.length + 2

/-! ## The write -/

/-- The epoch word raised by 1, modulo 2^32 (R163). -/
def Device.bumpEpoch (d : Device) : Device := d.poke 0 4 ((d.peek 0 4 + 1) % 4294967296)

/-- The end of a status write: a marked further write starts (R162). -/
def Device.endWrite (d : Device) : Device :=
  if d.writerAgain then { d with writer := some { made := 0, since := d.time }, writerAgain := false } else { d with writer := none }

/-- Access number n of a status write (R163). -/
def Device.statusAccess (d : Device) (n : Nat) : Device :=
  match n with
  | 0 => d.bumpEpoch
  | i + 1 => match statusItems[i]? with
    | some it => d.poke it.offset it.size (it.value d)
    | none => d.bumpEpoch

/-- One access of the status write under way, if there is one. -/
def Device.statusStep (d : Device) : Device :=
  match d.writer with
  | none => d
  | some w =>
    let d1 := { d.statusAccess w.made with writer := some { w with made := w.made + 1 } }
    if statusAccesses ≤ w.made + 1 then d1.endWrite else d1

/-- n accesses. -/
def Device.statusRun : Nat → Device → Device
  | 0, d => d
  | n + 1, d => Device.statusRun n d.statusStep

/-- R174: the status write under way runs to its end; one requested has started at once (R162). -/
def Device.finishWrite (d : Device) : Device :=
  match d.writer with
  | some w => Device.statusRun (statusAccesses - w.made) d
  | none => d

end Sys2Proof.Machine
end

