-- ==== Sys2Proof/Machine/Supervision.lean ====
section
/-! DEFINITION. Device modes, the service monitor, the carry timer, HOUSE, CONTROL and the soft restart (Chapter 11, R165, R125, R16). -/
namespace Sys2Proof.Machine

/-- R167: a mode change latches MODE and requests a status write. -/
def Device.setMode (d : Device) (m : DeviceMode) : Device := ({ d with mode := m }.latch .mode).requestStatus

/-! ## Service monitor (R171, R172) -/

/-- R171: a period begins now under the setup in force. -/
def Service.begin (s : Service) (now : Time) : Service :=
  { s with phase := if s.window then .closed else .openPhase, start := now, length := s.period }

/-- R171: device time has reached the half-period point. -/
def Service.halfReached (s : Service) (now : Time) : Bool := timeReached now (timePlus s.start (s.length / 2))

/-- R171: device time has reached the end of the period. -/
def Service.expired (s : Service) (now : Time) : Bool := s.phase != .stopped && timeReached now (timePlus s.start s.length)

/-- R171: the early half lasts. -/
def Service.isEarly (s : Service) (now : Time) : Bool := s.phase == .closed && !s.halfReached now

/-- R172: the carry timer starts as CARRY is entered. -/
def Device.enterCarry (d : Device) : Device :=
  { d with service := { d.service with carry := some (timePlus d.time (d.service.carryLimit * 1000000)) } }.setMode .carry

/-- R172: a service failure: SERVICE_LOST, and ATTENDED goes to CARRY. -/
def Device.serviceFailure (d : Device) (e : ServiceEvent) : Device :=
  let d1 := { d with service := { d.service with recent := e } }.captureFault .serviceLost none none
  if d.mode = .attended then d1.enterCarry else d1

/-- R172: a good service; in CARRY it stops the carry timer and returns to ATTENDED. -/
def Device.goodService (d : Device) : Device :=
  let d1 := { d with service := { d.service with recent := .good }.begin d.time }
  if d.mode = .carry then { d1 with service := { d1.service with carry := none } }.setMode .attended else d1

/-- R171, R168: judges a SERVICE write; in INIT it is discarded. -/
def Device.serviceWrite (d : Device) (w : Word) : Device :=
  if d.mode = .init then d
  else if oddParity w then d.serviceFailure .parity
  else if d.service.isEarly d.time then { d with service := d.service.begin d.time }.serviceFailure .early
  else d.goodService

/-- R171: a period has expired. -/
def Device.serviceTimeout (d : Device) : Device :=
  if d.service.expired d.time then { d with service := d.service.begin d.time }.serviceFailure .timeout else d

/-- R171: the closed half has ended. -/
def Device.closedDue (d : Device) : Bool := d.service.phase == .closed && d.service.halfReached d.time

/-- R171: CLOSED becomes OPEN. -/
def Device.closedEnds (d : Device) : Device :=
  if d.closedDue then { d with service := { d.service with phase := .openPhase } } else d

/-! ## HOUSE (R169, R153) -/

/-- R153: a LEVEL port's mixer takes the house scene. -/
def Port.house (x : Port) (h : Levels) : Port := if x.settings.kind = .level then { x with mixer := x.mixer.house h } else x

/-- R169, R102, R41: entry into HOUSE. -/
def Device.enterHouse (d : Device) : Device :=
  let d1 := { d with service := { d.service with carry := none } }.setMode .house
  let d2 := d1.cancelSlots .house d1.heldSlots
  let d3 := if d.globals.any (fun c => d.reachesTail c.due) then d2.replan else d2
  (d3.eachPort fun d p => d.modPort p (·.house d.house)).pumpAll

/-- R172: the carry timer has reached its expiry in CARRY. -/
def Device.carryDue (d : Device) : Bool :=
  d.mode == .carry && (match d.service.carry with | some t => timeReached d.time t | none => false)

/-- CARRY_TIMER_EXPIRY. -/
def Device.carryExpires (d : Device) : Device := if d.carryDue then d.enterHouse else d

/-- R169: HOUSE_CLEAR. -/
def Device.houseClear (d : Device) : Device :=
  if d.mode = .house ∧ d.service.recent = .good then d.setMode .attended else d

/-! ## INIT exit and CAPTURE_RELEASE -/

/-- R168: INIT is left: the long window opens and every port goes to its entry state. -/
def Device.leaveInit (d : Device) : Device :=
  ({ d with service := { d.service with recent := .none, phase := .long, start := d.time, length := 2000000, carry := none } }.setMode .attended).eachPort
    Device.enter

/-- R176: CAPTURE_RELEASE. -/
def Device.captureRelease (d : Device) : Device :=
  match d.capture with
  | none => d
  | some _ => { d with capture := none }.requestStatus

/-! ## Soft restart (R174, R16, R125) -/

/-- R125, R140, R129: the stop form of a port that follows a run: STOP after an ABORT owed on the Step Link. -/
def Port.owesStop (x : Port) (run : Bool) : Bool := run && x.state.joined && x.settings.kind == .step && x.run == .run

/-- R109: the settings after a soft restart. -/
def Port.restartSettings (x : Port) (keep : Bool) : Settings := if keep then x.settings else Settings.default

/-- R126, R129: the CLOCK lines after a soft restart: an active phase runs to its end while the port stays a CLOCK port. -/
def Port.restartClock (x : Port) (keep : Bool) : ClockLine :=
  if keep ∧ x.settings.kind = .clock then x.clock.leave else ClockLine.idle (x.restartSettings keep).negative

/-- R125, R145: the port after a soft restart: IDLE, cursor 0, its lines idle, its presence filter kept. The timing characters still waiting are dropped (R135), and an ABORT or STOP owed follows the character on the line: the model's choice against R140, which lets them go first (log 51). -/
def Port.restarted (x : Port) (keep run : Bool) (now : Time) : Port :=
  { x with
    settings := x.restartSettings keep
    state := .idle
    cursor := 0
    join := none
    settleEnd := none
    flaps := []
    run := .run
    resume := none
    clock := x.restartClock keep
    step := { x.step with
      timing := [], queue := [], form := .none, resumeQueued := false, owed := x.step.owed ++ (if x.owesStop run then [chStop] else []) }
    mixer := Mixer.zero
    frames := (if x.state = .locked ∧ x.settings.kind = .level then x.frames.leave now else { x.frames with waiting := false }) }

/-- R125: one port in a soft restart; a change of its state requests a status write and latches nothing. -/
def Device.restartPort (run : Bool) (d : Device) (p : PortIx) : Device :=
  let d1 := (d.modPort p fun x => x.restarted d.keep run d.time).pump p
  if (d.port p).state = .idle then d1 else d1.requestStatus

/-- Table 4-2, R52: the follower after a soft restart. -/
def Follower.restarted (f : Follower) (keep : Bool) : Follower :=
  let g := if keep then f else { Follower.reset with state := f.state }
  g.cleared.forgotten

/-- R174: the follower's part of a soft restart. -/
def Device.restartFollower (d : Device) : Device :=
  let d1 := { d with follower := d.follower.restarted d.keep }
  d1.setFollower (if d1.follower.follow then .seeking else .off)

/-- R170, R171: the service monitor after a soft restart. -/
def Service.restarted (s : Service) (keep : Bool) : Service :=
  if keep then { s with phase := .stopped, recent := .none, carry := none } else Service.reset

/-- R16: the run, if any, ends with no stopped run. -/
def Device.restartTransport (d : Device) : Device :=
  { (d.setTransport .stopped) with planner := Planner.reset }

/-- R82, R84: the intake unit after a soft restart: the list emptied, the flag cleared, a full sweep begun at slot 0. -/
def Device.restartIntake (d : Device) : Device :=
  let d1 := { d with notices := [], overflow := false, sweep := .visiting 0 }
  if d.overflow then d1.requestStatus else d1

/-- R174: a soft restart. -/
def Device.restart (d : Device) : Device :=
  let d1 := d.finishWrite
  let run := d1.runUnderWay
  let d2 := { d1 with
      runEnable := false, service := d1.service.restarted d1.keep, keepPending := none,
      house := if d1.keep then d1.house else Vector.replicate 192 255 }.setMode .init
  let d3 := (d2.cancelSlots .restart d2.heldSlots).restartTransport
  (d3.eachPort (Device.restartPort run)).restartFollower.restartIntake

/-! ## CONTROL (R165) -/

/-- R165, R168: a CONTROL write replaces RUN_ENABLE and ATTN_ENABLE; RUN_ENABLE as 1 in INIT leaves INIT. -/
def Device.controlEnables (d : Device) (w : Word) : Device :=
  let d1 := { d with runEnable := wordBit w 0, attnEnable := w.extractLsb' 1 6 }
  if wordBit w 0 ∧ d.mode = .init then d1.leaveInit else d1

/-- R165: a CONTROL write: the enables, then CAPTURE_RELEASE, HOUSE_CLEAR, RESTART. -/
def Device.controlWrite (d : Device) (w : Word) : Device :=
  let d1 := d.controlEnables w
  let d2 := if wordBit w 10 then d1.captureRelease else d1
  let d3 := if wordBit w 9 then d2.houseClear else d2
  if wordBit w 8 then d3.restart else d3

/-- A CONTROL read (R165): the action bits read as 0. -/
def Device.controlRead (d : Device) : Word := (d.attnEnable.setWidth 32 <<< 1) ||| (if d.runEnable then 1 else 0)

/-- R166: a read of ATTN returns the latched causes and clears them. -/
def Device.attnRead (d : Device) : Device := { d with readData := d.attn.setWidth 32, attn := 0 }

/-- R164: what a word read of the register window returns, before a read of ATTN clears it. -/
def Device.registerRead (d : Device) (size : AccessSize) (offset : Word) : Word :=
  if size = .word then
    match registerOffset offset with
    | 0x00 => identValue
    | 0x04 => d.controlRead
    | 0x08 => d.attn.setWidth 32
    | _ => 0
  else 0

/-- R164: a write access to the register window, routed to the block that owns the register or discarded. -/
def Device.registerWrite (d : Device) (size : AccessSize) (offset data : Word) : Device :=
  if size = .word then
    match registerOffset offset with
    | 0x04 => d.controlWrite data
    | 0x0C => d.serviceWrite data
    | 0x10 => d.nudge data
    | _ => d
  else d

/-! ## Power-on and hard reset (R17) -/

/-- Power-on and hard reset: every block in its power-on state; the sense pins keep the levels they have, and the model's counter of free choices goes on. -/
def Device.powerUp (d : Device) : Device :=
  { Device.reset with ports := Vector.map (fun x => Port.reset x.raw) d.ports, turns := d.turns }

end Sys2Proof.Machine
end

