-- ==== Sys2Proof/Machine/Validation.lean ====
section
/-! DEFINITION. Intake's eight checks in their fixed order (R85 to R87) and the clamps of an accepted cue (R88). -/
namespace Sys2Proof.Machine

/-! ## Classes (R72) -/

/-- SEND, PORT RUN, or SCENE to a port (R72): kind 10h, 11h, or 12h without FEh. -/
def Device.isPortCue (d : Device) (n : Nat) : Bool :=
  d.kindOf n == 0x10 || d.kindOf n == 0x11 || (d.kindOf n == 0x12 && d.portByte n != 0xFE)

/-- NOW-only cues (R72): control and setup cues, SCENE to FEh, TRANSPORT START and CONTINUE. -/
def Device.isNowOnly (d : Device) (n : Nat) : Bool :=
  [0x20, 0x21, 0x22, 0x30, 0x31, 0x32, 0x33].contains (d.kindOf n) || (d.kindOf n == 0x12 && d.portByte n == 0xFE) ||
    (d.kindOf n == 0x03 && decide (d.field n 16 1 ≤ 1))

/-- The kinds that may repeat (R73): SEND, and SCENE to a port. -/
def Device.mayRepeat (d : Device) (n : Nat) : Bool := d.kindOf n == 0x10 || (d.kindOf n == 0x12 && d.portByte n != 0xFE)

/-! ## Checks 1 to 4 (R85) -/

/-- Check 2 (R85, R169): the device mode accepts the kind. R154 speaks of a START taken during HOUSE, which R85 and R169 refuse WRONG_MODE: the model follows these two (log 44). -/
def Device.modeAccepts (d : Device) (n : Nat) : Bool :=
  match d.mode with
  | .init => [0x30, 0x31, 0x32, 0x33, 0x22].contains (d.kindOf n) || (d.kindOf n == 0x12 && d.portByte n == 0xFE)
  | .house => d.kindOf n == 0x22
  | _ => true

/-- A list or selector byte that names neither a port nor FFh. -/
def badSelector (v : Nat) : Bool := decide (23 < v) && v != 0xFF

/-- Check 3: BAD_PORT. -/
def Device.badPort (d : Device) (n : Nat) : Bool :=
  ([0x10, 0x11, 0x12, 0x30].contains (d.kindOf n) && decide (23 < d.portByte n) && !(d.kindOf n == 0x12 && d.portByte n == 0xFE)) ||
    (d.portByte n == 0xFE && d.kindOf n != 0x12) ||
    (d.kindOf n == 0x22 && badSelector (d.field n 16 1)) ||
    (d.kindOf n == 0x20 && d.optionsOf n == 1 && badSelector (d.field n 16 1))

/-- The kind setting of the port that slot n names. -/
def Device.namedKind (d : Device) (n : Nat) : Option PortKind := (portOf (d.portByte n)).map fun p => (d.port p).settings.kind

/-- Check 4: WRONG_PORT_KIND. -/
def Device.wrongPortKind (d : Device) (n : Nat) : Bool :=
  match d.kindOf n with
  | 0x10 => d.namedKind n != some .step
  | 0x11 => d.namedKind n != some .clock && d.namedKind n != some .step
  | 0x12 => d.portByte n != 0xFE && d.namedKind n != some .level
  | _ => false

/-! ## Check 5 (R86) -/

/-- Fire mode and fire value. -/
def Device.badFire (d : Device) (n : Nat) : Bool :=
  decide (2 < d.fireMode n) || (d.isNowOnly n && d.fireMode n != 0) || (d.fireMode n == 2 && !isGridBeats (d.fireValue n))

/-- Repeat fields (R73). -/
def Device.badRepeat (d : Device) (n : Nat) : Bool :=
  if d.mayRepeat n then d.intervalOf n == 0 && d.countOf n != 0 else d.intervalOf n != 0 || d.countOf n != 0

/-- SEND fields. -/
def Device.badSend (d : Device) (n : Nat) : Bool :=
  match d.optionsOf n with
  | 0 => d.field n 16 1 == 0 || decide (30 < d.field n 16 1)
  | 1 => d.field n 20 2 == 0 || decide (4096 < d.field n 20 2) || decide (2 < d.field n 22 1) || (d.field n 22 1 != 0 && d.field n 23 1 == 0)
  | _ => true

/-- SCENE fields: to FEh only the scene number, to a port the modulator with its range and duty too. -/
def Device.badScene (d : Device) (n : Nat) : Bool :=
  decide (47 < d.field n 16 1) ||
    (d.portByte n != 0xFE &&
      (decide (2 < d.field n 20 1) ||
        (d.field n 20 1 != 0 && (decide (191 < d.field n 23 1) || decide (d.field n 23 1 < d.field n 22 1))) ||
        (d.field n 20 1 == 2 && decide (2 < d.field n 21 1))))

/-- CANCEL fields. -/
def Device.badCancel (d : Device) (n : Nat) : Bool :=
  match d.optionsOf n with
  | 0 => decide (511 < d.field n 16 2)
  | 1 => d.field n 17 1 != 0xFF && !isKindCode (d.field n 17 1)
  | _ => true

/-- AMEND fields. -/
def Device.badAmend (d : Device) (n : Nat) : Bool :=
  decide (511 < d.field n 16 2) || decide (2 < d.field n 20 1) || (d.field n 20 1 == 2 && !isGridBeats (d.field n 24 4))

/-- A bit of a PORT SETUP's change mask (Table 5-4). -/
def Device.selects (d : Device) (n i : Nat) : Bool := (d.field n 16 2).testBit i

/-- PORT SETUP fields: a selected field with an unknown code. -/
def Device.badSetup (d : Device) (n : Nat) : Bool :=
  (d.selects n 0 && decide (3 < d.field n 18 1)) || (d.selects n 2 && !isDivision (d.field n 19 1)) || (d.selects n 3 && decide (4 < d.field n 24 1)) ||
    (d.selects n 5 && decide (1 < d.field n 26 1)) || (d.selects n 6 && decide (1 < d.field n 27 1)) || (d.selects n 7 && decide (1 < d.field n 28 1))

/-- Fields of one kind. -/
def Device.badPayload (d : Device) (n : Nat) : Bool :=
  match d.kindOf n with
  | 0x01 => d.field n 16 4 == 0
  | 0x02 => d.field n 16 1 == 0
  | 0x03 => decide (2 < d.field n 16 1)
  | 0x10 => d.badSend n
  | 0x11 => decide (1 < d.field n 16 1)
  | 0x12 => d.badScene n
  | 0x20 => d.badCancel n
  | 0x21 => d.badAmend n
  | 0x30 => d.badSetup n
  | 0x31 => decide (1 < d.field n 16 1) || decide (1 < d.field n 17 1)
  | 0x32 => decide (1 < d.field n 16 1) || decide (4 < d.field n 17 1)
  | 0x33 => decide (1 < d.field n 16 1)
  | _ => false

/-- Check 5: BAD_FIELD. -/
def Device.badField (d : Device) (n : Nat) : Bool :=
  d.badFire n || (d.isPortCue n && decide (3 < d.latenessOf n)) || d.badRepeat n || d.badPayload n

/-! ## Checks 6 to 8 (R87) -/

/-- Check 6: BULK_RANGE. -/
def Device.badBulk (d : Device) (n : Nat) : Bool :=
  d.kindOf n == 0x10 && d.optionsOf n == 1 && (decide (81920 ≤ d.field n 16 4) || decide (81920 < d.field n 16 4 + d.field n 20 2))

/-- Table 1-4: a TRANSPORT action that its transport state does not allow (R15). -/
def Device.wrongAction (d : Device) (action : Nat) : Bool :=
  match action with
  | 0 => d.planner.transport != .stopped
  | 1 => d.planner.transport != .stopped || !d.planner.canContinue
  | _ => d.planner.transport != .running

/-- Check 7: WRONG_TRANSPORT. -/
def Device.wrongTransport (d : Device) (n : Nat) : Bool :=
  (d.kindOf n == 0x03 && d.wrongAction (d.field n 16 1)) || (d.isPortCue n && d.fireMode n == 0 && !d.runUnderWay)

/-- Check 8: FOLLOWING. -/
def Device.whileFollowing (d : Device) (n : Nat) : Bool := d.kindOf n == 0x01 && d.follower.state != .off

/-- The first check that fails gives the reason (R85). -/
def Device.validate (d : Device) (n : Nat) : Option Reason :=
  if !isKindCode (d.kindOf n) then some .badKind
  else if !d.modeAccepts n then some .wrongMode
  else if d.badPort n then some .badPort
  else if d.wrongPortKind n then some .wrongPortKind
  else if d.badField n then some .badField
  else if d.badBulk n then some .bulkRange
  else if d.wrongTransport n then some .wrongTransport
  else if d.whileFollowing n then some .following
  else none

/-! ## Clamps (R88) -/

/-- A number with the flag that a clamp changed it. -/
structure Clamped (α : Type) where
  value : α
  flag : Bool

/-- A value held between two bounds. -/
def clampNat (lo hi v : Nat) : Nat := if v < lo then lo else if hi < v then hi else v

/-- A clamped number. -/
def clampTo (lo hi v : Nat) : Clamped Nat := { value := clampNat lo hi v, flag := decide (v < lo) || decide (hi < v) }

/-- The TEMPO clamp with the conversion of R19. -/
def clampTempoField (m : Nat) : Clamped Nat := { value := tempoToPeriod (clampTempo m), flag := decide (m < 40000) || decide (300000 < m) }

/-- The settings a PORT SETUP asks for, from the selected fields (R77); check 5 has refused an unknown code. -/
def Device.newSettings (d : Device) (n : Nat) (s : Settings) : Settings :=
  { kind := if d.selects n 0 then PortKind.ofCode (d.field n 18 1) else s.kind
    latency := if d.selects n 1 then clampNat 0 250000 (d.field n 20 4) else s.latency
    division := if d.selects n 2 && isDivision (d.field n 19 1) then d.field n 19 1 else s.division
    join := if d.selects n 3 then JoinSetting.ofCode (d.field n 24 1) else s.join
    settle := if d.selects n 4 then clampNat 0 8 (d.field n 25 1) else s.settle
    rejoinHost := if d.selects n 5 then d.field n 26 1 == 1 else s.rejoinHost
    mask := if d.selects n 6 then d.field n 27 1 == 1 else s.mask
    negative := if d.selects n 7 then d.field n 28 1 == 1 else s.negative
    frame := if d.selects n 8 then clampNat 4 40 (d.field n 29 1) else s.frame }

/-- A selected field of a PORT SETUP is clamped (R88). -/
def Device.setupClamped (d : Device) (n : Nat) : Bool :=
  (d.selects n 1 && decide (250000 < d.field n 20 4)) || (d.selects n 4 && decide (8 < d.field n 25 1)) ||
    (d.selects n 8 && (decide (d.field n 29 1 < 4) || decide (40 < d.field n 29 1)))

/-- R52: an input offset held between −100,000 and 0. -/
def clampOffset (v : Int) : Int := if v < -100000 then -100000 else if 0 < v then 0 else v

/-- The follower setup a FOLLOW SETUP asks for. -/
def Device.newFollow (d : Device) (n : Nat) : FollowSettings :=
  { follow := d.field n 16 1 == 1
    source := if d.field n 17 1 = 1 then .bsb else .bsa
    offset := clampOffset (signed32 (d.field n 18 4))
    gt := clampNat 0 16 (d.field n 22 1)
    gp := clampNat 0 16 (d.field n 23 1) }

/-- A field of a FOLLOW SETUP is clamped. -/
def Device.followClamped (d : Device) (n : Nat) : Bool :=
  (clampOffset (signed32 (d.field n 18 4)) != signed32 (d.field n 18 4)) || decide (16 < d.field n 22 1) || decide (16 < d.field n 23 1)

end Sys2Proof.Machine
end

