-- ==== Sys2Proof/Machine/Intake.lean ====
section
/-! DEFINITION. Intake (R82 to R84, R89): the notice list and the sweep, the beginning and the endings of a take, and handing a cue to the schedule. -/
namespace Sys2Proof.Machine

/-! ## What is taken next (R82 to R84) -/

/-- The slot the intake unit looks at next: the sweep's next slot, or the oldest notice. -/
def Device.nextSlot (d : Device) : Option Nat :=
  match d.sweep with
  | .visiting n => some n
  | .none => d.notices.head?

/-- R84, R160: a sweep begins when the list has become empty with the overflow flag set; the flag is cleared, which requests a status write. -/
def Device.checkOverflow (d : Device) : Device :=
  if d.notices = [] ∧ d.overflow = true then ({ d with sweep := .visiting 0, overflow := false }).requestStatus else d

/-- The intake unit moves on from the slot it looked at. -/
def Device.advance (d : Device) : Device :=
  match d.sweep with
  | .visiting n => if n + 1 < 512 then { d with sweep := .visiting (n + 1) } else { d with sweep := .none }.checkOverflow
  | .none => { d with notices := d.notices.tail }.checkOverflow

/-- The next slot reads POSTED and its take is this row. -/
def Device.takes (d : Device) (row : TakeRow) : Option Nat :=
  match d.nextSlot with
  | some n => if d.slotState n = stPosted ∧ d.takeRow n = row then some n else none
  | none => none

/-- R83, R158: the read of POSTED that begins a take: the slot is protected, and the counter is raised. -/
def Device.beginTake (d : Device) (n : Nat) : Device := { d.advance.protect n with seq := d.seq + 1 }

/-- R83, R156: the take has made its two reads, of the state byte and of the record; a host access let in after either finds the slot protected. -/
def Device.readRecord (d : Device) (n : Nat) : Device := (d.beginTake n).pass.pass

/-! ## Endings of a take (R89, R79) -/

/-- The result of a DONE or REFUSED cue: the current PI and the device time of the take. -/
def Device.takeResult (d : Device) (reason : Reason) (clamped : Bool) (aux : Nat) : Result :=
  { reason := reason, flags := CueFlags.ofClamped clamped, revision := 1, firePI := d.currentPI, fireTime := timeLow32 d.time, fired := 0, aux := aux }

/-- REFUSED with a reason. -/
def Device.refuse (d : Device) (n : Nat) (reason : Reason) : Device := d.finishSlot n stRefused (d.takeResult reason false 0)

/-- DONE, with the result fixed as the take began. -/
def Device.done (d : Device) (n : Nat) (r : Result) : Device := d.finishSlot n stDone r

/-- FIRED at once (R10, R12, R46). -/
def Device.firedAtOnce (d : Device) (n : Nat) (pi : Nat) (clamped : Bool) : Device :=
  d.finishSlot n stFired
    { reason := .none, flags := CueFlags.ofClamped clamped, revision := 1, firePI := pi, fireTime := timeLow32 d.time, fired := 1, aux := 0 }

/-! ## Handing over (R89, R92, R80) -/

/-- R92: the schedule entry of a taken cue. -/
def Device.newCue (d : Device) (n : Nat) (seq : BitVec 32) (due : Nat) (mark : Option Nat) (body : CueBody) (clamped : Bool) : Cue :=
  { slot := n, tag := d.tagOf n, due := due, mark := mark, seq := seq, revision := 1, grace := Lateness.ofCode (d.latenessOf n),
    interval := d.intervalOf n, left := (if d.intervalOf n = 0 then some 1 else if d.countOf n = 0 then none else some (d.countOf n)),
    fired := 0, skipped := 0, lastSkip := .none, flags := CueFlags.ofClamped clamped, body := body, lastFired := none, bytes := 0 }

/-- R80, R81: the slot of a cue in the schedule shows HELD, with reason 00h, the flags earned so far, and fire time 0. R80 gives the field writes no order: the model's choice is the four progress fields, as the cue enters its list, then these three (log 50). -/
def Device.showHeld (d : Device) (n : Nat) : Device :=
  match d.heldAt n with
  | none => d
  | some (_, c) =>
    (((d.poke (slotBase n + 48) 1 0).poke (slotBase n + 49) 1 c.flags.toByte).poke (slotBase n + 56) 4 0).poke (slotBase n) 1 stHeld

/-- R89, R94, R95: a port cue is resolved, judged and held, or ended. R80 names revision 1 and counts 0 and 0 for the moment HELD is written, and R92 and R100 raise them at a skipped attempt: the model's choice is that the slot of a repeating cue whose first attempts are skipped in its own take shows the risen revision and skipped count (log 39). -/
def Device.schedulePort (d : Device) (n : Nat) (seq : BitVec 32) (p : PortIx) (body : CueBody) : Device :=
  (d.judge p (d.newCue n seq (d.resolve (d.fireMode n) (d.fireValue n) (d.refPoint p)) (d.markAt p) body false)).showHeld n

/-- R47: a global cue's place on entering the list: while a run lasts, not below the first soft pulse. -/
def Device.placeGlobal (d : Device) (c : Cue) : Cue := if d.runUnderWay then c.movedTo d.firstSoft else c

/-- A global cue enters its list, with its progress fields (R91, R92). -/
def Device.enterGlobal (d : Device) (c : Cue) : Device := ({ d with globals := insertCue c d.globals }).writeProgress c c.due

/-- R89, R94, R47, R41: a global cue is resolved, placed and held with any other at or below C moved, and re-plans if it reaches into the plan. R95 has a global cue that moves with a due PI at or below the tail re-plan, and R41 names only entering, leaving and an AMEND: the model's choice is R41, so a cue that R47 moves as another one enters makes no re-plan by itself (log 53). -/
def Device.scheduleGlobal (d : Device) (n : Nat) (seq : BitVec 32) (body : CueBody) (clamped : Bool) : Device :=
  let c := d.placeGlobal (d.newCue n seq (d.resolve (d.fireMode n) (d.fireValue n) d.globalRef) none body clamped)
  ((d.enterGlobal c).moveWaiting.showHeld n).replanFor c.due

/-! ## One take, and what a command is to the queue -/

/-- R83, R85: the take of slot n: it begins, is validated, and is refused or completed by its kind's effect. -/
def Device.runTake (d : Device) (n : Nat) (effect : Device → Device) : Device :=
  match (d.readRecord n).validate n with
  | some r => (d.readRecord n).refuse n r
  | none => effect (d.readRecord n)

/-- The take of the next slot if it is a take of this row; otherwise nothing (log 3). The effect has the slot and its sequence number. -/
def Device.takeNext (d : Device) (row : TakeRow) (effect : Nat → BitVec 32 → Device → Device) : Device :=
  match d.takes row with
  | some n => d.runTake n (effect n d.seq)
  | none => d

/-- A host access as it waits at the arbiter, for its free number of engine accesses; no other command waits there. -/
def waitingOf (turn : Nat) : Instr → Option WaitingAccess
  | .hostSlotWrite size addr data => some { after := Config.arbiterOrder turn, size := size, addr := addr, data := data }
  | .statusProtect size addr data => some { after := Config.arbiterOrder turn, size := size, addr := addr, data := data }
  | .finishedMapWrite size addr data => some { after := Config.arbiterOrder turn, size := size, addr := addr, data := data }
  | _ => none

/-- The host accesses at the front of a command queue. -/
def hostAhead (turn : Nat) : List Instr → List WaitingAccess
  | [] => []
  | c :: q => match waitingOf turn c with
    | some w => w :: hostAhead (turn + 1) q
    | none => []

/-- R156, log 38: the host accesses that arrive together with the command now taken: those at the front of the queue behind it, less those already served. -/
def State.presented (s : State) : List WaitingAccess := (hostAhead s.turns s.pending).drop s.ahead

/-- A command acts on the part and leaves the queue and the model's counter of choices alone. Host accesses presented meanwhile may fall between its accesses to the exchange memory (R156); what was served so is noted. -/
def State.act (s : State) (f : Device → Device) : Host.Outcome State Fault Refusal :=
  let e := f { s.toDevice with arbiter := s.presented }
  .next { s with toDevice :=
    { e with arbiter := s.arbiter, ahead := e.ahead + (s.presented.length - e.arbiter.length), turns := e.turns + (s.presented.length - e.arbiter.length) } }

/-- A command of the host's own, between whose effects nothing falls: an access to the exchange memory, or a start point. -/
def State.actAlone (s : State) (f : Device → Device) : Host.Outcome State Fault Refusal := .next { s with toDevice := f s.toDevice }

/-- A host write access whose turn in the queue has come: one that has been served already, inside the command before, is done with. -/
def Device.present (d : Device) (size : AccessSize) (addr data : Word) : Device :=
  if d.ahead = 0 then d.hostWrite size addr data else { d with ahead := d.ahead - 1 }

end Sys2Proof.Machine
end

