-- ==== Sys2Proof/Machine/Events.lean ====
section
/-! DEFINITION. The part's own events: the timeline, presence, supervision, the links and the status writer. Each acts only when its condition holds (log 3). -/
namespace Sys2Proof.Machine

/-- PLAN_EXTENSION -/
def execPlanExtension (s : State) : Host.Outcome State Fault Refusal := s.act Device.extend

/-- REFERENCE_CURSOR_REACH -/
def execReferenceCursorReach (s : State) : Host.Outcome State Fault Refusal := s.act Device.tryCursorReach

/-- PORT_REACH -/
def execPortReach (port : PortIx) (s : State) : Host.Outcome State Fault Refusal := s.act fun d => d.tryReach port

/-- BEAT_MARK -/
def execBeatMark (input : BeatInput) (s : State) : Host.Outcome State Fault Refusal := s.act fun d => d.beatEdge input

/-- R113: the raw level of a sense pin changes and restarts the wait; the level it has already is no change. -/
def Device.rawChange (d : Device) (p : PortIx) (level : Bool) : Device :=
  if (d.port p).raw = level then d else d.modPort p fun x => { x with raw := level, rawSince := d.time }

/-- RAW_PRESENCE_CHANGE -/
def execRawPresenceChange (port : PortIx) (level : Bool) (s : State) : Host.Outcome State Fault Refusal := s.act fun d => d.rawChange port level

/-- PRESENCE_RECOGNIZED -/
def execPresenceRecognized (port : PortIx) (s : State) : Host.Outcome State Fault Refusal :=
  s.act fun d => if d.presenceDue port then d.recognize port else d

/-- FLAP_ENTRY_AGED -/
def execFlapEntryAged (port : PortIx) (s : State) : Host.Outcome State Fault Refusal := s.act fun d => if d.flapDue port then d.ageFlaps port else d

/-- SERVICE_TIMEOUT -/
def execServiceTimeout (s : State) : Host.Outcome State Fault Refusal := s.act Device.serviceTimeout

/-- CARRY_TIMER_EXPIRY -/
def execCarryTimerExpiry (s : State) : Host.Outcome State Fault Refusal := s.act Device.carryExpires

/-- LEVEL_FRAME_BEGIN -/
def execLevelFrameBegin (port : PortIx) (s : State) : Host.Outcome State Fault Refusal := s.act fun d => if d.frameDue port then d.beginFrame port else d

/-- R135: the character on the line has ended by now. -/
def Device.characterDue (d : Device) (p : PortIx) : Bool :=
  match (d.port p).step.line with
  | some c => timeReached d.time c.ends
  | none => false

/-- R135, R139, R143: a character ends; a message may end with it, the transmitter chooses, and a waiting first frame may begin. -/
def Device.characterEnds (d : Device) (p : PortIx) : Device :=
  (((d.modPort p fun x => { x with step := { x.step with line := none } }).messageEnd p).choose p).waitingFrame p

/-- R143: the last character of a cut frame has ended, and a character or a first frame has waited for it (log 49). -/
def Device.linkFree (d : Device) (p : PortIx) : Bool :=
  !(d.port p).sending d.time && ((d.port p).step.hasNext || (d.port p).frameReady d.time)

/-- CHARACTER_END: a Step Link character ends; so does the last character of a cut frame for which the port's next traffic has waited (log 49). -/
def execCharacterEnd (port : PortIx) (s : State) : Host.Outcome State Fault Refusal :=
  s.act fun d => if d.characterDue port then d.characterEnds port else if d.linkFree port then (d.choose port).waitingFrame port else d

/-- R127: wire A's present phase has ended by now. -/
def Device.phaseDue (d : Device) (p : PortIx) : Bool :=
  match (d.port p).clock.phaseEnds with
  | some t => timeReached d.time t
  | none => false

/-- CLOCK_PHASE_END -/
def execClockPhaseEnd (port : PortIx) (s : State) : Host.Outcome State Fault Refusal :=
  s.act fun d => if d.phaseDue port then d.modPort port fun x => { x with clock := x.clock.phaseEnd d.time x.settings.negative } else d

/-- CLOCK_LEAD_IN -/
def execClockLeadIn (port : PortIx) (s : State) : Host.Outcome State Fault Refusal := s.act fun d => d.tryClockLeadIn port

/-- R128: the RESET pulse has lasted 1,000 µs. -/
def Device.pulseDue (d : Device) (p : PortIx) : Bool :=
  match (d.port p).clock.form with
  | .pulse _ t _ _ => timeReached d.time t
  | _ => false

/-- RESET_PULSE_END -/
def execResetPulseEnd (port : PortIx) (s : State) : Host.Outcome State Fault Refusal :=
  s.act fun d => if d.pulseDue port then d.modPort port fun x => { x with clock := x.clock.pulseEnd d.time } else d

/-- STEP_LEAD_IN -/
def execStepLeadIn (port : PortIx) (s : State) : Host.Outcome State Fault Refusal := s.act fun d => (d.tryStepLeadIn port).pump port

/-- STEP_RESUME_FORM -/
def execStepResumeForm (port : PortIx) (s : State) : Host.Outcome State Fault Refusal := s.act fun d => (d.tryResumeForm port).pump port

/-- STATUS_WRITE -/
def execStatusWrite (accesses : Nat) (s : State) : Host.Outcome State Fault Refusal := s.act (Device.statusRun accesses)

/-- R128: the low gap after a late RESET pulse has lasted 1,000 µs. -/
def Device.gapDue (d : Device) (p : PortIx) : Bool :=
  match (d.port p).clock.form with
  | .gap _ t _ => timeReached d.time t
  | _ => false

/-- LOW_GAP_END -/
def execLowGapEnd (port : PortIx) (s : State) : Host.Outcome State Fault Refusal :=
  s.act fun d => if d.gapDue port then d.modPort port fun x => { x with clock := x.clock.gapEnd d.time } else d

/-- CLOSED_PHASE_END -/
def execClosedPhaseEnd (s : State) : Host.Outcome State Fault Refusal := s.act Device.closedEnds

end Sys2Proof.Machine
end

