-- ==== Sys2Proof/Machine/HostCommands.lean ====
section
/-! DEFINITION. The starting points and the host's accesses: POWER_ON, HARD_RESET, exchange-memory writes, CONTROL writes, ATTN, SERVICE, NUDGE, discarded register writes. -/
namespace Sys2Proof.Machine

/-- POWER_ON -/
def execPowerOn (s : State) : Host.Outcome State Fault Refusal := s.actAlone Device.powerUp

/-- HARD_RESET -/
def execHardReset (s : State) : Host.Outcome State Fault Refusal := s.actAlone fun d => d.powerUp

/-- HOST_SLOT_WRITE (a write that the address takes to another region follows that region's rule, log 4) -/
def execHostSlotWrite (size : AccessSize) (addr data : Word) (s : State) : Host.Outcome State Fault Refusal :=
  s.actAlone fun d => d.present size addr data

/-- STATUS_PROTECT -/
def execStatusProtect (size : AccessSize) (addr data : Word) (s : State) : Host.Outcome State Fault Refusal :=
  s.actAlone fun d => d.present size addr data

/-- FINISHED_MAP_WRITE -/
def execFinishedMapWrite (size : AccessSize) (addr data : Word) (s : State) : Host.Outcome State Fault Refusal :=
  s.actAlone fun d => d.present size addr data

/-- RUN_ENABLE -/
def execRunEnable (control : Word) (s : State) : Host.Outcome State Fault Refusal := s.act fun d => d.controlWrite control

/-- ATTN_ENABLE -/
def execAttnEnable (control : Word) (s : State) : Host.Outcome State Fault Refusal := s.act fun d => d.controlWrite control

/-- CAPTURE_RELEASE -/
def execCaptureRelease (control : Word) (s : State) : Host.Outcome State Fault Refusal := s.act fun d => d.controlWrite (control ||| 0x400)

/-- HOUSE_CLEAR -/
def execHouseClear (control : Word) (s : State) : Host.Outcome State Fault Refusal := s.act fun d => d.controlWrite (control ||| 0x200)

/-- RESTART -/
def execRestart (control : Word) (s : State) : Host.Outcome State Fault Refusal := s.act fun d => d.controlWrite (control ||| 0x100)

/-- ATTN_READ -/
def execAttnRead (s : State) : Host.Outcome State Fault Refusal := s.act Device.attnRead

/-- SERVICE -/
def execService (data : Word) (s : State) : Host.Outcome State Fault Refusal := s.act fun d => d.serviceWrite data

/-- NUDGE -/
def execNudge (data : Word) (s : State) : Host.Outcome State Fault Refusal := s.act fun d => d.nudge data

/-- REGISTER_WRITE_DISCARDED -/
def execRegisterWriteDiscarded (size : AccessSize) (offset data : Word) (s : State) : Host.Outcome State Fault Refusal :=
  s.act fun d => d.registerWrite size offset data

end Sys2Proof.Machine
end

