-- ==== Sys2Proof/Machine/ControlCues.lean ====
section
/-! DEFINITION. Takes of the control cues CANCEL, AMEND and REPORT (R103 to R108). -/
namespace Sys2Proof.Machine

/-! ## CANCEL (R103 to R105) -/

/-- R103: why a CANCEL by slot is refused, or none. -/
def cancelRefusal (target : Option (Place × Cue)) (revision : Nat) : Option Reason :=
  match target with
  | none => some .notHeld
  | some (_, c) => if revision ≠ 0 ∧ revision ≠ c.revision then some .stale else none

/-- R105, R41: HELD cues are ended; the planner re-plans if a global one reached into the plan, and idle transmitters choose. -/
def Device.cancelCues (d : Device) (reason : Reason) (slots : List Nat) : Device :=
  let d1 := d.cancelSlots reason slots
  (if d.globals.any (fun c => slots.contains c.slot && d.reachesTail c.due) then d1.replan else d1).pumpAll

/-- R103: an accepted CANCEL by slot. -/
def Device.takeCancelSlot (n : Nat) (_seq : BitVec 32) (d : Device) : Device :=
  match cancelRefusal (d.heldAt (d.field n 16 2)) (d.field n 18 2) with
  | some r => d.refuse n r
  | none => (d.cancelCues .bySlot [d.field n 16 2]).done n (d.takeResult .none false 0)

/-- R104: a selector matches a HELD cue by port, kind and tag. -/
def selectorMatches (port kind tag : Nat) (x : Place × Cue) : Bool :=
  (port == 0xFF || (match x.1 with | .global => false | .list p => p.val == port | .flight p => p.val == port)) &&
    (kind == 0xFF || x.2.body.kindCode == kind) && (tag == 0xFFFF || x.2.tag == tag)

/-- R104: the slots a CANCEL by selector in slot n names. -/
def Device.selected (d : Device) (n : Nat) : List Nat :=
  (d.held.filter (selectorMatches (d.field n 16 1) (d.field n 17 1) (d.field n 18 2))).map (·.2.slot)

/-- R104: an accepted CANCEL by selector. -/
def Device.takeCancelSelector (n : Nat) (_seq : BitVec 32) (d : Device) : Device :=
  (d.cancelCues .bySelector (d.selected n)).done n (d.takeResult .none false (d.selected n).length)

/-! ## AMEND (R106, R107) -/

/-- R106: why an AMEND is refused, or none. -/
def Device.amendRefusal (d : Device) (n : Nat) (target : Option (Place × Cue)) : Option Reason :=
  match target with
  | none => some .notHeld
  | some (.flight _, _) => some .notHeld
  | some (place, c) =>
    if d.field n 18 2 ≠ 0 ∧ d.field n 18 2 ≠ c.revision then some .stale
    else if d.field n 22 2 ≠ 0xFFFF ∧ c.interval = 0 ∧ d.field n 22 2 ≠ 0 then some .badField
    else if place ≠ .global ∧ d.field n 20 1 = 0 ∧ d.runUnderWay = false then some .wrongTransport
    else none

/-- R107: the attempts left after an AMEND. -/
def amendedLeft (c : Cue) (count : Nat) : Option Nat :=
  if count = 0xFFFF then c.left
  else if count = 0 then (if c.interval = 0 then some 1 else none)
  else some count

/-- R107: the target with its new fire point. -/
def Cue.amended (c : Cue) (due : Nat) (mark : Option Nat) (count : Nat) : Cue :=
  { c with due := due, mark := mark, left := amendedLeft c count, revision := nextRevision c.revision }

/-- R107: a port cue leaves its list, and is resolved and judged afresh. -/
def Device.amendPort (d : Device) (n : Nat) (p : PortIx) (c : Cue) : Device :=
  (d.modPort p fun x => { x with cues := dropCue c.slot x.cues }).judge p
    (c.amended (d.resolve (d.field n 20 1) (d.field n 24 4) (d.refPoint p)) (d.markAt p) (d.field n 22 2))

/-- R107, R47, R41: a global cue is placed anew with any other at or below C moved, and re-plans if its old or new fire PI reaches into the plan (R47's move of another cue makes no re-plan: log 53, DESIGN CHOICE). -/
def Device.amendGlobal (d : Device) (n : Nat) (c : Cue) : Device :=
  let c1 := d.placeGlobal (c.amended (d.resolve (d.field n 20 1) (d.field n 24 4) d.globalRef) none (d.field n 22 2))
  let d1 := (({ d with globals := dropCue c.slot d.globals }).enterGlobal c1).moveWaiting
  if d.reachesTail c.due || d.reachesTail c1.due then d1.replan else d1

/-- R107: the target takes its new fire point. -/
def Device.amendTarget (d : Device) (n : Nat) : Device :=
  match d.heldAt (d.field n 16 2) with
  | some (.global, c) => d.amendGlobal n c
  | some (.list p, c) => d.amendPort n p c
  | _ => d

/-- R106, R107: an accepted AMEND. -/
def Device.takeAmend (n : Nat) (_seq : BitVec 32) (d : Device) : Device :=
  match d.amendRefusal n (d.heldAt (d.field n 16 2)) with
  | some r => d.refuse n r
  | none => (d.amendTarget n).done n (d.takeResult .none false 0)

/-! ## REPORT (R108, R76) -/

/-- R108: the cues of the named list in fire order, those in flight first. -/
def Device.reported (d : Device) (list : Nat) : List Nat :=
  match portOf list with
  | some p => (d.port p).step.queue.map (·.cue.slot) ++ (d.port p).cues.map (·.slot)
  | none => d.globals.map (·.slot)

/-- R76: the i-th halfword of the output. -/
def reportWord (slots : List Nat) (i : Nat) : Nat :=
  match slots[i]? with
  | some n => n
  | none => 0xFFFF

/-- R76, R108: the output in the payload of slot n. -/
def Device.writeReport (d : Device) (n : Nat) (slots : List Nat) : Device :=
  (List.range 15).foldl (fun d i => d.poke (slotBase n + 18 + 2 * i) 2 (reportWord slots i)) (d.poke (slotBase n + 17) 1 (Nat.min 15 slots.length))

/-- R108, R81: an accepted REPORT. R81 gives the payload output and the result region no order between them: the payload output, byte 17 and then the halfwords by rising offset, comes first (log 50, DESIGN CHOICE). -/
def Device.takeReport (n : Nat) (_seq : BitVec 32) (d : Device) : Device :=
  (d.writeReport n (d.reported (d.field n 16 1))).done n (d.takeResult .none false (d.reported (d.field n 16 1)).length)

/-- CANCEL_BY_SLOT -/
def execCancelBySlot (s : State) : Host.Outcome State Fault Refusal := s.act fun d => d.takeNext .cancelBySlot Device.takeCancelSlot

/-- CANCEL_BY_SELECTOR -/
def execCancelBySelector (s : State) : Host.Outcome State Fault Refusal :=
  s.act fun d => d.takeNext .cancelBySelector Device.takeCancelSelector

/-- AMEND -/
def execAmend (s : State) : Host.Outcome State Fault Refusal := s.act fun d => d.takeNext .amend Device.takeAmend

/-- REPORT -/
def execReport (s : State) : Host.Outcome State Fault Refusal := s.act fun d => d.takeNext .report Device.takeReport

end Sys2Proof.Machine
end

