-- ==== Sys2Proof/Machine/GlobalCues.lean ====
section
/-! DEFINITION. Takes of the global cues: TEMPO, METER, TRANSPORT START, CONTINUE and STOP (R5, R10, R12, R13, R19, R46). -/
namespace Sys2Proof.Machine

/-- R46: a NOW TEMPO taken while STOPPED replaces the held period. -/
def Device.holdTempo (d : Device) (n : Nat) (period : Clamped Nat) : Device :=
  ({ d with planner := { d.planner with heldPeriod := period.value } }).firedAtOnce n d.nextFirst period.flag

/-- R19, R45, R46: an accepted TEMPO. -/
def Device.takeTempo (n : Nat) (seq : BitVec 32) (d : Device) : Device :=
  let period := clampTempoField (d.field n 16 4)
  if d.fireMode n = 0 ∧ d.runUnderWay = false then d.holdTempo n period
  else d.scheduleGlobal n seq (.tempo period.value (d.field n 20 2)) period.flag

/-- R5: an accepted METER. -/
def Device.takeMeter (n : Nat) (seq : BitVec 32) (d : Device) : Device :=
  let beats := clampTo 1 15 (d.field n 16 1)
  d.scheduleGlobal n seq (.meter beats.value) beats.flag

/-- R10: an accepted START. -/
def Device.takeStart (n : Nat) (_seq : BitVec 32) (d : Device) : Device := (d.beginRun d.startOpening).firedAtOnce n 0 false

/-- R12: an accepted CONTINUE. -/
def Device.takeContinue (n : Nat) (_seq : BitVec 32) (d : Device) : Device :=
  match d.planner.stopped with
  | some r => (d.beginRun (d.continueOpening r)).firedAtOnce n (r.pi + 1) false
  | none => d.refuse n .wrongTransport

/-- R13: an accepted STOP. -/
def Device.takeStop (n : Nat) (seq : BitVec 32) (d : Device) : Device := d.scheduleGlobal n seq .stop false

/-- BAD_KIND: the take of a slot whose kind is unknown; the first check refuses it (R85). -/
def Device.takeBadKind (n : Nat) (_seq : BitVec 32) (d : Device) : Device := d.refuse n .badKind

/-- BAD_KIND -/
def execBadKind (s : State) : Host.Outcome State Fault Refusal := s.act fun d => d.takeNext .badKind Device.takeBadKind

/-- TEMPO -/
def execTempo (s : State) : Host.Outcome State Fault Refusal := s.act fun d => d.takeNext .tempo Device.takeTempo

/-- METER -/
def execMeter (s : State) : Host.Outcome State Fault Refusal := s.act fun d => d.takeNext .meter Device.takeMeter

/-- TRANSPORT_START -/
def execTransportStart (s : State) : Host.Outcome State Fault Refusal := s.act fun d => d.takeNext .transportStart Device.takeStart

/-- TRANSPORT_CONTINUE -/
def execTransportContinue (s : State) : Host.Outcome State Fault Refusal := s.act fun d => d.takeNext .transportContinue Device.takeContinue

/-- TRANSPORT_STOP -/
def execTransportStop (s : State) : Host.Outcome State Fault Refusal := s.act fun d => d.takeNext .transportStop Device.takeStop

end Sys2Proof.Machine
end

