-- ==== Sys2Proof/Machine/PortCues.lean ====
section
/-! DEFINITION. Takes of the port cues SEND, PORT RUN and SCENE, and of the SCENE to the house target (R74, R75, R130, R152). -/
namespace Sys2Proof.Machine

/-- The message of a SEND as intake reads it (R74, Table 5-4). -/
def Device.sendBody (d : Device) (n : Nat) : CueBody :=
  if d.optionsOf n = 1 then .send true (d.field n 16 4) (d.field n 20 2) (Pacing.ofCode (d.field n 22 1)) (d.field n 23 1)
  else .send false 0 (d.field n 16 1) .whole 0

/-- The action of a PORT RUN. -/
def Device.runBody (d : Device) (n : Nat) : CueBody := .portRun (if d.field n 16 1 = 0 then .run else .halt)

/-- The fields of a SCENE to a port; with modulator NONE its range is not read (R75). -/
def Device.sceneBody (d : Device) (n : Nat) : CueBody :=
  match Modulator.ofCode (d.field n 20 1) (d.field n 21 1) with
  | .none => .scene (d.field n 16 1) (d.field n 18 2) .none 0 0
  | m => .scene (d.field n 16 1) (d.field n 18 2) m (d.field n 22 1) (d.field n 23 1)

/-- R89: an accepted port cue goes to its port's list. -/
def Device.takePortCue (body : CueBody) (n : Nat) (seq : BitVec 32) (d : Device) : Device :=
  match portOf (d.portByte n) with
  | some p => d.schedulePort n seq p body
  | none => d.refuse n .badPort

/-- R74: an accepted SEND. -/
def Device.takeSend (n : Nat) (seq : BitVec 32) (d : Device) : Device := Device.takePortCue (d.sendBody n) n seq d

/-- R130: an accepted PORT RUN. -/
def Device.takePortRun (n : Nat) (seq : BitVec 32) (d : Device) : Device := Device.takePortCue (d.runBody n) n seq d

/-- R75: an accepted SCENE to a port. -/
def Device.takeScene (n : Nat) (seq : BitVec 32) (d : Device) : Device := Device.takePortCue (d.sceneBody n) n seq d

/-- R152, R147: a SCENE to FEh copies its scene into the house scene. -/
def Device.takeSceneHouse (n : Nat) (_seq : BitVec 32) (d : Device) : Device :=
  let x := d.copyLevels (sceneBase (d.field n 16 1))
  ({ x.2 with house := x.1 }).done n (d.takeResult .none false 0)

/-- SEND -/
def execSend (s : State) : Host.Outcome State Fault Refusal := s.act fun d => d.takeNext .send Device.takeSend

/-- PORT_RUN -/
def execPortRun (s : State) : Host.Outcome State Fault Refusal := s.act fun d => d.takeNext .portRun Device.takePortRun

/-- SCENE -/
def execScene (s : State) : Host.Outcome State Fault Refusal := s.act fun d => d.takeNext .scene Device.takeScene

/-- SCENE_HOUSE -/
def execSceneHouse (s : State) : Host.Outcome State Fault Refusal := s.act fun d => d.takeNext .sceneHouse Device.takeSceneHouse

end Sys2Proof.Machine
end

