-- ==== Sys2Proof/Machine/SetupCues.lean ====
section
/-! DEFINITION. Takes of the setup cues PORT SETUP, FOLLOW SETUP, SUPERVISE and KEEP (R53, R77, R78, R110, R170, R173). -/
namespace Sys2Proof.Machine

/-- R77, R110: an accepted PORT SETUP. -/
def Device.takePortSetup (n : Nat) (_seq : BitVec 32) (d : Device) : Device :=
  match portOf (d.portByte n) with
  | some p => (d.applySetup p (d.newSettings n (d.port p).settings)).done n (d.takeResult .none (d.setupClamped n) 0)
  | none => d.refuse n .badPort

/-- R52, R53: an accepted FOLLOW SETUP. -/
def Device.takeFollowSetup (n : Nat) (_seq : BitVec 32) (d : Device) : Device :=
  (d.setupFollower (d.newFollow n)).done n (d.takeResult .none (d.followClamped n) 0)

/-- R170: the service setup a SUPERVISE asks for; the period under way keeps its values. -/
def Device.newService (d : Device) (n : Nat) : Service :=
  { d.service with
    window := d.field n 16 1 == 1, period := servicePeriod (d.field n 17 1), carryLimit := clampNat 1 60 (d.field n 18 1) }

/-- R170: an accepted SUPERVISE. -/
def Device.takeSupervise (n : Nat) (_seq : BitVec 32) (d : Device) : Device :=
  ({ d with service := d.newService n }).done n (d.takeResult .none (clampTo 1 60 (d.field n 18 1)).flag 0)

/-- R173: an accepted KEEP replaces any pending one. -/
def Device.takeKeep (n : Nat) (_seq : BitVec 32) (d : Device) : Device :=
  ({ d with keepPending := some (d.field n 16 1 == 1, n) }).done n (d.takeResult .none false 0)

/-- PORT_SETUP -/
def execPortSetup (s : State) : Host.Outcome State Fault Refusal := s.act fun d => d.takeNext .portSetup Device.takePortSetup

/-- FOLLOW_SETUP -/
def execFollowSetup (s : State) : Host.Outcome State Fault Refusal := s.act fun d => d.takeNext .followSetup Device.takeFollowSetup

/-- SUPERVISE -/
def execSupervise (s : State) : Host.Outcome State Fault Refusal := s.act fun d => d.takeNext .supervise Device.takeSupervise

/-- KEEP -/
def execKeep (s : State) : Host.Outcome State Fault Refusal := s.act fun d => d.takeNext .keep Device.takeKeep

end Sys2Proof.Machine
end

