-- ==== Sys2Proof/Machine/IntakeEvents.lean ====
section
/-! DEFINITION. A notice that is discarded, and the sweep (R83, R84). -/
namespace Sys2Proof.Machine

/-- The effect of an accepted cue by its row. -/
def TakeRow.effect : TakeRow → Nat → BitVec 32 → Device → Device
  | .badKind => Device.takeBadKind
  | .tempo => Device.takeTempo
  | .meter => Device.takeMeter
  | .transportStart => Device.takeStart
  | .transportContinue => Device.takeContinue
  | .transportStop => Device.takeStop
  | .send => Device.takeSend
  | .portRun => Device.takePortRun
  | .scene => Device.takeScene
  | .sceneHouse => Device.takeSceneHouse
  | .cancelBySlot => Device.takeCancelSlot
  | .cancelBySelector => Device.takeCancelSelector
  | .amend => Device.takeAmend
  | .report => Device.takeReport
  | .portSetup => Device.takePortSetup
  | .followSetup => Device.takeFollowSetup
  | .supervise => Device.takeSupervise
  | .keep => Device.takeKeep

/-- R83: the oldest notice is discarded if its slot does not read POSTED and no sweep is under way. -/
def Device.discardNotice (d : Device) : Device :=
  match d.sweep, d.notices.head? with
  | .none, some n => if d.slotState n = stPosted then d else d.advance
  | _, _ => d

/-- R84: one visit of the sweep: a POSTED slot is taken, another is passed over. -/
def Device.visit (d : Device) : Device :=
  match d.sweep with
  | .visiting n => if d.slotState n = stPosted then d.runTake n ((d.takeRow n).effect n d.seq) else d.advance
  | _ => d

/-- n visits (log 8). -/
def Device.visits : Nat → Device → Device
  | 0, d => d
  | n + 1, d => Device.visits n d.visit

/-- NOTICE_DISCARDED -/
def execNoticeDiscarded (s : State) : Host.Outcome State Fault Refusal := s.act Device.discardNotice

/-- SWEEP -/
def execSweep (visits : Nat) (s : State) : Host.Outcome State Fault Refusal := s.act (Device.visits visits)

end Sys2Proof.Machine
end

