-- ==== Sys2Proof/Machine/Idle.lean ====
section
/-! DEFINITION. What the part does when nothing waits in the command queue: an event of its own that is due, or one microsecond of device time (R17, log 1, 2). -/
namespace Sys2Proof.Machine

/-- A command if its condition holds. -/
def whenDue (b : Bool) (c : Instr) : List Instr := if b then [c] else []

/-- The events of one port that device time has made due. -/
def Device.portDue (d : Device) (p : PortIx) : List Instr :=
  whenDue (d.portReachDue p).isSome (.portReach p) ++ whenDue (d.presenceDue p) (.presenceRecognized p) ++ whenDue (d.flapDue p) (.flapEntryAged p) ++
    whenDue (d.frameDue p) (.levelFrameBegin p) ++ whenDue (d.characterDue p || d.linkFree p) (.characterEnd p) ++ whenDue (d.phaseDue p) (.clockPhaseEnd p) ++
    whenDue (d.clockLeadDue p).isSome (.clockLeadIn p) ++ whenDue (d.pulseDue p) (.resetPulseEnd p) ++ whenDue (d.gapDue p) (.lowGapEnd p) ++
    whenDue (d.stepLeadDue p).isSome (.stepLeadIn p) ++ whenDue (d.resumeFormDue p).isSome (.stepResumeForm p)

/-- The events that device time has made due: each is taken before device time goes on. -/
def Device.timedDue (d : Device) : List Instr :=
  whenDue d.extendDue .planExtension ++ whenDue d.cursorReachDue.isSome .referenceCursorReach ++ whenDue (d.service.expired d.time) .serviceTimeout ++
    whenDue d.carryDue .carryTimerExpiry ++ whenDue d.closedDue .closedPhaseEnd ++ allPorts.flatMap d.portDue

/-- The take of a row as a command. -/
def TakeRow.command : TakeRow → Instr
  | .badKind => .badKind
  | .tempo => .tempo
  | .meter => .meter
  | .transportStart => .transportStart
  | .transportContinue => .transportContinue
  | .transportStop => .transportStop
  | .send => .send
  | .portRun => .portRun
  | .scene => .scene
  | .sceneHouse => .sceneHouse
  | .cancelBySlot => .cancelBySlot
  | .cancelBySelector => .cancelBySelector
  | .amend => .amend
  | .report => .report
  | .portSetup => .portSetup
  | .followSetup => .followSetup
  | .supervise => .supervise
  | .keep => .keep

/-- What the intake unit does next, if it has work (R82 to R84). -/
def Device.intakeWork (d : Device) : List Instr :=
  match d.sweep with
  | .none => (match d.notices.head? with
    | none => []
    | some n => if d.slotState n = stPosted then [(d.takeRow n).command] else [.noticeDiscarded])
  | .visiting _ => [.sweep 1]

/-- What the status writer does next, if it has work (R163). -/
def Device.writerWork (d : Device) : List Instr := whenDue d.writer.isSome (.statusWrite 1)

/-- The choices of an idle step; none is one microsecond of device time. -/
def Device.idleChoices (d : Device) : List (Option Instr) :=
  match d.timedDue with
  | [] => none :: (d.intakeWork ++ d.writerWork).map some
  | l => l.map some

/-- The choice made: the only one, or a free one (log 2). -/
def pickIdle (n : Nat) (l : List (Option Instr)) : Option Instr :=
  match l with
  | [x] => x
  | l => match l[Config.idleOrder n % l.length]? with
    | some x => x
    | none => none

/-- The event an idle step takes, or none for one microsecond. -/
def State.idlePick (s : State) : Option Instr := pickIdle s.choices s.idleChoices

/-- One microsecond passes (R17). -/
def Device.tick (d : Device) : Device := { d with time := d.time + 1 }

/-- The machine after a choice has been made. -/
def State.chosen (s : State) : State := { s with choices := s.choices + 1 }

/-- The front command is taken off the queue. -/
def State.rest (s : State) (q : List Instr) : State := { s with pending := q }

end Sys2Proof.Machine
end

