-- ==== Sys2Proof/Machine/Dispatch.lean ====
section
/-! DEFINITION. The meaning of every command: one arm per constructor of Instr. -/
namespace Sys2Proof.Machine

def exec (i : Instr) (s : State) : Host.Outcome State Fault Refusal :=
  match i with
  | .powerOn => Sys2Proof.Machine.execPowerOn s
  | .hardReset => Sys2Proof.Machine.execHardReset s
  | .hostSlotWrite size addr data => Sys2Proof.Machine.execHostSlotWrite size addr data s
  | .statusProtect size addr data => Sys2Proof.Machine.execStatusProtect size addr data s
  | .finishedMapWrite size addr data => Sys2Proof.Machine.execFinishedMapWrite size addr data s
  | .runEnable control => Sys2Proof.Machine.execRunEnable control s
  | .attnEnable control => Sys2Proof.Machine.execAttnEnable control s
  | .captureRelease control => Sys2Proof.Machine.execCaptureRelease control s
  | .houseClear control => Sys2Proof.Machine.execHouseClear control s
  | .restart control => Sys2Proof.Machine.execRestart control s
  | .attnRead => Sys2Proof.Machine.execAttnRead s
  | .service data => Sys2Proof.Machine.execService data s
  | .nudge data => Sys2Proof.Machine.execNudge data s
  | .registerWriteDiscarded size offset data => Sys2Proof.Machine.execRegisterWriteDiscarded size offset data s
  | .noticeDiscarded => Sys2Proof.Machine.execNoticeDiscarded s
  | .sweep visits => Sys2Proof.Machine.execSweep visits s
  | .badKind => Sys2Proof.Machine.execBadKind s
  | .tempo => Sys2Proof.Machine.execTempo s
  | .meter => Sys2Proof.Machine.execMeter s
  | .transportStart => Sys2Proof.Machine.execTransportStart s
  | .transportContinue => Sys2Proof.Machine.execTransportContinue s
  | .transportStop => Sys2Proof.Machine.execTransportStop s
  | .send => Sys2Proof.Machine.execSend s
  | .portRun => Sys2Proof.Machine.execPortRun s
  | .scene => Sys2Proof.Machine.execScene s
  | .sceneHouse => Sys2Proof.Machine.execSceneHouse s
  | .cancelBySlot => Sys2Proof.Machine.execCancelBySlot s
  | .cancelBySelector => Sys2Proof.Machine.execCancelBySelector s
  | .amend => Sys2Proof.Machine.execAmend s
  | .report => Sys2Proof.Machine.execReport s
  | .portSetup => Sys2Proof.Machine.execPortSetup s
  | .followSetup => Sys2Proof.Machine.execFollowSetup s
  | .supervise => Sys2Proof.Machine.execSupervise s
  | .keep => Sys2Proof.Machine.execKeep s
  | .planExtension => Sys2Proof.Machine.execPlanExtension s
  | .referenceCursorReach => Sys2Proof.Machine.execReferenceCursorReach s
  | .portReach port => Sys2Proof.Machine.execPortReach port s
  | .beatMark input => Sys2Proof.Machine.execBeatMark input s
  | .rawPresenceChange port level => Sys2Proof.Machine.execRawPresenceChange port level s
  | .presenceRecognized port => Sys2Proof.Machine.execPresenceRecognized port s
  | .flapEntryAged port => Sys2Proof.Machine.execFlapEntryAged port s
  | .serviceTimeout => Sys2Proof.Machine.execServiceTimeout s
  | .carryTimerExpiry => Sys2Proof.Machine.execCarryTimerExpiry s
  | .levelFrameBegin port => Sys2Proof.Machine.execLevelFrameBegin port s
  | .characterEnd port => Sys2Proof.Machine.execCharacterEnd port s
  | .clockPhaseEnd port => Sys2Proof.Machine.execClockPhaseEnd port s
  | .clockLeadIn port => Sys2Proof.Machine.execClockLeadIn port s
  | .resetPulseEnd port => Sys2Proof.Machine.execResetPulseEnd port s
  | .stepLeadIn port => Sys2Proof.Machine.execStepLeadIn port s
  | .stepResumeForm port => Sys2Proof.Machine.execStepResumeForm port s
  | .statusWrite accesses => Sys2Proof.Machine.execStatusWrite accesses s
  | .lowGapEnd port => Sys2Proof.Machine.execLowGapEnd port s
  | .closedPhaseEnd => Sys2Proof.Machine.execClosedPhaseEnd s

end Sys2Proof.Machine
end

