-- ==== Sys2Proof/Machine/Step.lean ====
section
/-! DEFINITION. One step: the front command of the queue, or, with an empty queue, an event of the part's own or one microsecond (log 1, 2). -/
namespace Sys2Proof.Machine

/-- One step of the machine. -/
def step (s : State) : Host.Outcome State Fault Refusal :=
  match s.pending with
  | c :: q => exec c (s.rest q)
  | [] =>
    match s.idlePick with
    | some c => exec c s.chosen
    | none => .next { s.chosen with toDevice := s.toDevice.tick }

/-- s with the command that a word spells at the front of its queue; s unchanged where the word spells none. -/
def State.withFetchWord (s : State) (nbits w : Nat) : State :=
  match decodeTableWord nbits w with
  | some c => { s with pending := c :: s.pending }
  | none => s

end Sys2Proof.Machine
end

