-- ==== Sys2Proof/Safety.lean ====
section
/-! DEFINITION. What the statements call a safe machine: the canonical form of the memory and the bounds the spec gives the part's own lists and numbers; and what a reader of a slot sees. -/
namespace Sys2Proof.Machine

/-! ## Invariants -/

/-- The exchange memory is in its canonical form. -/
def Device.MemOk (d : Device) : Prop := Memory.wf d.mem = true

/-- R159, R69, R84: at most 32 notices, never the same index twice; every notice is a slot index, and so is the place of a sweep. -/
def Device.NoticesOk (d : Device) : Prop :=
  d.notices.length ≤ 32 ∧ d.notices.Nodup ∧ (∀ n ∈ d.notices, n < 512) ∧ ∀ n, d.sweep = .visiting n → n < 512

/-- R18, R24, R31: entry b is the one planned after entry a. -/
def PlanEntry.Follows (a b : PlanEntry) : Prop :=
  b.pi = a.pi + 1 ∧ b.instant = a.instant + BitVec.ofNat 64 b.period ∧ periodMin ≤ b.period ∧ b.period ≤ periodMax

/-- Each entry of a plan is the one planned after the entry before it. -/
def planChain : List PlanEntry → Prop
  | a :: b :: l => a.Follows b ∧ planChain (b :: l)
  | _ => True

/-- R31, R18, R24: the plan has no gap, and each instant is the one before it plus a legal period. The capacity of 256 entries (R31) is not part of it. -/
def Device.PlanOk (d : Device) : Prop := planChain d.planner.plan

/-- R49: a nudge balance in its range. -/
def balanceOk (b : Int) : Prop := -64 ≤ b ∧ b ≤ 64

/-- R49: every nudge balance the planner holds is in its range. -/
def Device.BalanceOk (d : Device) : Prop :=
  (∀ e ∈ d.planner.plan, balanceOk e.snap.balance) ∧ (∀ e, d.planner.anchor = some e → balanceOk e.snap.balance) ∧
    ∀ b, d.planner.pendBalance = some b → balanceOk b

/-- Table 4-1, R54, R56, R58, R61: the follower's numbers are in their ranges, and it has a period and a last mark while LOCKED or HOLDING. -/
def Follower.Ok (f : Follower) : Prop :=
  f.gt ≤ 16 ∧ f.gp ≤ 16 ∧ -100000 ≤ f.offset ∧ f.offset ≤ 0 ∧ f.rejects ≤ 3 ∧ f.marks.length ≤ 3 ∧
    (∀ p, f.period = some p → periodMin ≤ p ∧ p ≤ periodMax) ∧
    (f.state = .locked ∨ f.state = .holding → f.period.isSome = true ∧ f.lastMark.isSome = true)

/-- Table 7-1: the numbers among a port's settings are legal. -/
def Settings.Ok (s : Settings) : Prop := s.latency ≤ 250000 ∧ isDivision s.division = true ∧ s.settle ≤ 8 ∧ 4 ≤ s.frame ∧ s.frame ≤ 40

/-- R127, R135, R136: a port's queues are within their capacities. -/
def Port.LinksOk (x : Port) : Prop := x.step.queue.length ≤ 8 ∧ x.step.timing.length ≤ 16 ∧ x.clock.waiting.length ≤ 16

/-- Every port's settings are legal. -/
def Device.SettingsOk (d : Device) : Prop := ∀ p, (d.port p).settings.Ok

/-- Every port's queues are within their capacities. -/
def Device.LinksOk (d : Device) : Prop := ∀ p, (d.port p).LinksOk

/-- No host access arrives together with the command now taken (R156, log 38): none stands at the front of the queue behind it, and none waits. -/
def State.Quiet (s : State) : Prop := s.presented = [] ∧ s.arbiter = []

/-! ## What a reader of a slot sees -/

/-- R81, R79: slot n shows a final state with this result region, its finished-map bit is set, and it is not protected. -/
structure Device.Shows (e : Device) (n st : Nat) (r : Result) : Prop where
  state : e.slotState n = st
  reason : e.field n 48 1 = r.reason.code
  flags : e.field n 49 1 = r.flags.toByte
  revision : e.field n 50 2 = r.revision % 65536
  firePI : e.field n 52 4 = r.firePI % 4294967296
  fireTime : e.field n 56 4 = r.fireTime % 4294967296
  fired : e.field n 60 2 = r.fired % 65536
  aux : e.field n 62 2 = r.aux % 65536
  finished : (Memory.read e.mem (mapBase + n / 8)).getLsbD (n % 8) = true
  unprotected : n ∉ e.prot

/-- R80: the slot of a HELD cue shows HELD with its progress fields. -/
structure Device.ShowsHeld (e : Device) (c : Cue) : Prop where
  state : e.slotState c.slot = stHeld
  reason : e.field c.slot 48 1 = 0
  flags : e.field c.slot 49 1 = c.flags.toByte
  revision : e.field c.slot 50 2 = c.revision % 65536
  firePI : e.field c.slot 52 4 = c.due % 4294967296
  fireTime : e.field c.slot 56 4 = 0
  fired : e.field c.slot 60 2 = c.fired % 65536
  aux : e.field c.slot 62 2 = c.aux % 65536

/-- The bytes that the ending of the cue of slot n writes (R81): the state byte, the result region, the byte of its finished-map bit. -/
def endBytes (n a : Nat) : Prop := a = slotBase n ∨ (slotBase n + 48 ≤ a ∧ a < slotBase n + 64) ∨ a = mapBase + n / 8

/-- Bytes 48 to 63 and the state byte of slot n: what holding its cue writes (R80). -/
def heldBytes (n a : Nat) : Prop := a = slotBase n ∨ (slotBase n + 48 ≤ a ∧ a < slotBase n + 64)

/-- Every byte outside these reads as before. -/
def Device.SameBytes (d e : Device) (written : Nat → Prop) : Prop := ∀ a, ¬ written a → Memory.read e.mem a = Memory.read d.mem a

/-- R82 to R84: what a take does to intake: the slot leaves the notice list, or the sweep goes on; the counter rises by 1. -/
structure Device.Taken (d e : Device) : Prop where
  notices : e.notices = if d.sweep = .none then d.notices.tail else d.notices
  sweep : e.sweep = d.advance.sweep
  overflow : e.overflow = d.advance.overflow
  seq : e.seq = d.seq + 1

/-- A take of slot n that ends it: what it shows, and that it writes nothing else. -/
structure Device.TakeEnds (d e : Device) (n st : Nat) (r : Result) : Prop extends Device.Shows e n st r, Device.Taken d e where
  bytes : d.SameBytes e (endBytes n)
  mapByte : Memory.read e.mem (mapBase + n / 8) = Memory.read d.mem (mapBase + n / 8) ||| (1 <<< (n % 8))
  others : ∀ m, m ≠ n → (m ∈ e.prot ↔ m ∈ d.prot)

/-- The intake unit's next take is of slot n, by this row; the memory is in its canonical form, and no host access waits at the arbiter (one that falls inside a take is the subject of statements of its own). -/
structure State.NextTake (s : State) (row : TakeRow) (n : Nat) : Prop where
  next : s.nextSlot = some n
  slot : n < 512
  posted : s.slotState n = stPosted
  row : s.takeRow n = row
  mem : s.MemOk
  quiet : s.Quiet

/-- R111: the entry state of a port with these settings and this presence, once INIT has been left. -/
def entryOf (g : Settings) (presence : Bool) : PortState :=
  if g.kind = .none ∨ g.mask = true then .idle
  else if presence = false then .detached
  else if g.kind = .level then .locked
  else .acquiring

/-- The device d after intake has moved on from the slot it takes (`advance`: the notice list, the sweep, the overflow flag with its status write), with what else any take may change taken from e: memory, protection flags, counter, causes. -/
def Device.intakeOf (d e : Device) : Device := { d.advance with mem := e.mem, prot := e.prot, seq := e.seq, attn := e.attn }

/-- The device d with the status-write request of e. -/
def Device.requestOf (d e : Device) : Device := { d with writer := e.writer, writerAgain := e.writerAgain }

/-! ## Plans made again, and join pulses -/

/-- R42: the plan of e is that of d made again: its entries below C+1 stay, and the entries l take the place of the others, each the one planned after the entry before it, until the limit is reached. -/
structure Device.Replanned (d e : Device) (l : List PlanEntry) : Prop where
  plan : e.planner.plan = d.planner.plan.filter (fun x => decide (x.pi < d.firstSoft)) ++ l
  some : l ≠ []
  limit : e.extendDue = false ∨ l.length = 257
  chain : ∀ l1 x y l2, e.planner.plan = l1 ++ x :: y :: l2 →
    (d.planner.plan.filter fun x => decide (x.pi < d.firstSoft)).length ≤ l1.length + 1 → x.Follows y

/-- R45, R13, R6: the global cue c takes effect in the soft entries l that were planned with it: a TEMPO at its fire PI, where it is applied or, while the follower is not OFF, passed over; a STOP at its fire PI, which is the latched stop pulse; a METER at the first bar start at or above its fire PI, under the meter and origin of the pulse before. -/
structure Device.TakesEffect (e : Device) (c : Cue) (l : List PlanEntry) : Prop where
  tempo : ∀ period ramp, c.body = .tempo period ramp → ∀ x ∈ l, x.pi = c.due → if e.follower.state = .off then c.slot ∈ x.applied else c.slot ∈ x.passed
  stop : c.body = .stop → ∀ x ∈ l, x.pi = c.due →
    x.stop = true ∧ c.slot ∈ x.applied ∧ e.planner.latched = some c.due ∧ e.planner.transport = .stopping
  meter : ∀ beats, c.body = .meter beats → ∀ l1 a x l2, e.planner.plan = l1 ++ a :: x :: l2 → e.firstSoft ≤ x.pi → c.due ≤ x.pi →
    a.snap.origin ≤ x.pi → (x.pi - a.snap.origin) % (a.snap.meter * 96) = 0 → (∀ y ∈ l1 ++ [a], e.firstSoft ≤ y.pi → c.slot ∉ y.applied) → c.slot ∈ x.applied

/-- R2, R7, R118: pulse k is a join boundary of this join setting under this meter and grid origin. -/
def onJoinBoundary (j : JoinSetting) (k meter origin : Nat) : Prop :=
  match j with
  | .beat => k % 96 = 0
  | .bar => origin ≤ k ∧ (k - origin) % (meter * 96) = 0
  | .phrase4 => origin ≤ k ∧ (k - origin) % (4 * meter * 96) = 0
  | .phrase8 => origin ≤ k ∧ (k - origin) % (8 * meter * 96) = 0
  | .phrase16 => origin ≤ k ∧ (k - origin) % (16 * meter * 96) = 0

/-- R27: the due time of entry x at a port of this latency lies after this device time. -/
def PlanEntry.StillAhead (x : PlanEntry) (latency : Nat) (now : Time) : Prop := 0 < timeDiff (timeMinus (instantTime x.instant) latency) now

/-- R118: entry x is a candidate for the join pulse of a CLOCK or STEP port with these settings, from pulse lo on. -/
def Settings.Candidate (g : Settings) (now : Time) (lo : Nat) (x : PlanEntry) : Prop :=
  lo ≤ x.pi ∧ onJoinBoundary g.join x.pi x.snap.meter x.snap.origin ∧ x.StillAhead g.latency now

/-- x is the first entry of the list that has the property. -/
def FirstOf (P : PlanEntry → Prop) (l : List PlanEntry) (x : PlanEntry) : Prop := ∃ l1 l2, l = l1 ++ x :: l2 ∧ P x ∧ ∀ y ∈ l1, ¬ P y

end Sys2Proof.Machine
end

