-- ==== Sys2Proof/WellFormed.lean ====
section
/-! DEFINITION. Which commands are well formed: an access that its row's name fits (R157, R164, R155), and counts within a sweep's and a status write's length (R84, R163). -/
namespace Sys2Proof

/-- The operands fit the row. The five CONTROL rows take any word, as do SERVICE and NUDGE; port and level operands are always in range. -/
def Instr.wf : Instr → Bool
  | .hostSlotWrite size addr _ =>
    Machine.regionOf (Machine.hostOffset size addr) == .cueSlots || Machine.regionOf (Machine.hostOffset size addr) == .plain
  | .statusProtect size addr _ => Machine.regionOf (Machine.hostOffset size addr) == .statusPage
  | .finishedMapWrite size addr _ => Machine.regionOf (Machine.hostOffset size addr) == .finishedMap
  | .registerWriteDiscarded size offset _ => size != .word || !([0x04, 0x0C, 0x10].contains (Machine.registerOffset offset))
  | .sweep visits => decide (1 ≤ visits) && decide (visits ≤ 512)
  | .statusWrite accesses => decide (1 ≤ accesses) && decide (accesses ≤ Machine.statusAccesses)
  | _ => true

end Sys2Proof
end

