-- ==== Sys2Proof/Certificates/Slice0/Obligations.lean ====
section
/-! DEFINITION. The statements for the provers: what the commands and the machine do by the rules of spec/. -/

open Sys2Proof Sys2Proof.Machine

/-! ## Start points and the step -/

/-- R17, R157 and the reset clauses of the chapters: what power-on and hard reset leave; that the machine then satisfies every invariant; and that POWER_ON and HARD_RESET put the whole part into that state, each sense pin keeping the level it has (log 9) and the model's counter of free choices going on (log 38). -/
def Obligations.ResetState : Prop :=
  State.reset.time = 0 ∧ (∀ a, Memory.read State.reset.mem a = 0) ∧ State.reset.prot = [] ∧ State.reset.notices = [] ∧ State.reset.overflow = false ∧
  State.reset.seq = 0 ∧ State.reset.sweep = .none ∧ State.reset.mode = .init ∧ State.reset.planner.transport = .stopped ∧ State.reset.planner.stopped = none ∧
  State.reset.planner.heldPeriod = 341333333 ∧ State.reset.planner.heldMeter = 4 ∧ State.reset.planner.heldOrigin = 0 ∧ State.reset.planner.plan = [] ∧
  State.reset.planner.anchor = none ∧ State.reset.planner.cursor = none ∧ State.reset.planner.history = [] ∧ State.reset.planner.horizon = none ∧
  State.reset.globals = [] ∧ State.reset.follower.state = .off ∧ State.reset.follower.follow = false ∧ State.reset.follower.source = .bsa ∧
  State.reset.follower.offset = 0 ∧ State.reset.follower.gt = 4 ∧ State.reset.follower.gp = 8 ∧ State.reset.follower.marks = [] ∧
  (∀ p, (State.reset.port p).settings = Settings.default ∧ (State.reset.port p).state = .idle ∧ (State.reset.port p).presence = false ∧
    (State.reset.port p).cursor = 0 ∧ (State.reset.port p).flaps = [] ∧ (State.reset.port p).cues = [] ∧ (State.reset.port p).run = .run ∧
    (State.reset.port p).step.queue = [] ∧ (State.reset.port p).clock.wireB = false ∧ (State.reset.port p).mixer.output = Vector.replicate 192 0) ∧
  State.reset.house = Vector.replicate 192 255 ∧ State.reset.service.window = false ∧ State.reset.service.period = 500000 ∧
  State.reset.service.carryLimit = 10 ∧ State.reset.service.phase = .stopped ∧ State.reset.service.carry = none ∧ State.reset.keep = false ∧
  State.reset.keepPending = none ∧ State.reset.capture = none ∧ State.reset.controlRead = 0 ∧ State.reset.attn = 0 ∧ State.reset.interruptLine = false ∧
  State.reset.MemOk ∧ State.reset.NoticesOk ∧ State.reset.PlanOk ∧ State.reset.BalanceOk ∧ State.reset.follower.Ok ∧ State.reset.SettingsOk ∧
  State.reset.LinksOk ∧ State.reset.arbiter = [] ∧
  ∀ s : State, ∃ d : Device, exec .powerOn s = .next { s with toDevice := d } ∧ exec .hardReset s = .next { s with toDevice := d } ∧
    d = { Device.reset with ports := d.ports, turns := s.turns } ∧ ∀ p, d.port p = Port.reset (s.port p).raw

/-- A step takes the command at the front of the queue and is its meaning on the state with the queue's rest. -/
def Obligations.StepRunsFrontCommand : Prop :=
  ∀ (c : Instr) (q : List Instr) (s : State), step { s with pending := c :: q } = exec c { s with pending := q }

/-- The model's choice (log 1, 2): with an empty queue a step takes an event of the part's own, timed ones first, or else lets one microsecond pass. -/
def Obligations.IdleStep : Prop :=
  ∀ s : State, s.pending = [] →
    (∀ c, s.idlePick = some c →
      step s = exec c { s with choices := s.choices + 1 } ∧ (c ∈ s.timedDue ∨ s.timedDue = [] ∧ c ∈ s.intakeWork ++ s.writerWork)) ∧
    (s.idlePick = none →
      s.timedDue = [] ∧ step s = .next { s with toDevice := { s.toDevice with time := s.time + 1 }, choices := s.choices + 1 })

/-- R155 and the steps of 95: every command completes; none stops the machine, and none touches the queue. -/
def Obligations.EveryCommandCompletes : Prop :=
  ∀ (c : Instr) (s : State), ∃ d : Device, exec c s = .next { s with toDevice := d }

/-- R166: apart from power-on and hard reset, no command but a read of ATTN clears a latched cause. That none of them changes device time is the model's choice (log 21: a command takes no device time; only an idle step lets it pass). -/
def Obligations.TimeAndCausesKept : Prop :=
  ∀ (c : Instr) (s t : State), exec c s = .next t → c ≠ .powerOn → c ≠ .hardReset → t.time = s.time ∧ (c ≠ .attnRead → t.attn ||| s.attn = t.attn)

/-! ## The host port -/

/-- R175, R36: a fault reported to the capture fills the empty record, raises the more-count of a filled one up to 255, and latches FAULT; a fill and a rise request a status write. Nothing else changes. The current PI it records is the last the reference cursor has reached, the run's first PI before that, and while STOPPED that of the last stop pulse or 0. -/
def Obligations.FaultCapture : Prop :=
  ∀ (d : Device) (k : FaultKind) (port slot : Option Nat),
    (d.capture = none → d.captureFault k port slot =
      ({ d with capture := some { kind := k, port := port, slot := slot, pi := d.currentPI, time := d.time, more := 0 }, attn := d.attn ||| 16 } : Device).requestStatus) ∧
    (∀ r, d.capture = some r → r.more < 255 → d.captureFault k port slot =
      ({ d with capture := some { r with more := r.more + 1 }, attn := d.attn ||| 16 } : Device).requestStatus) ∧
    (∀ r, d.capture = some r → ¬ r.more < 255 → d.captureFault k port slot = { d with attn := d.attn ||| 16 }) ∧
    (d.writer = none → d.requestStatus = { d with writer := some { made := 0, since := d.time } }) ∧
    (∀ w, d.writer = some w → d.requestStatus = { d with writerAgain := true }) ∧
    (d.planner.transport = .stopped → (∀ r, d.planner.stopped = some r → d.currentPI = r.pi) ∧ (d.planner.stopped = none → d.currentPI = 0)) ∧
    (∀ o, d.planner.transport ≠ .stopped → d.planner.opening = some o → (d.planner.cursor = some o.first → d.currentPI = o.first) ∧
      ∀ c, o.first ≤ c → d.planner.cursor = some (c + 1) → d.currentPI = c)

/-- R158, R156: a host write access to a protected slot is discarded whole, raises no notice, and captures OWNED_WRITE with the slot's index; so is one that the arbiter lets in between a take's read of POSTED and its read of the record. By the model's choice (log 38) an access that was let in inside the command before it in the queue is done with when its own turn in the queue comes. -/
def Obligations.OwnedSlotWrite : Prop :=
  (∀ (size : AccessSize) (addr data : Word) (s : State), regionOf (hostOffset size addr) = .cueSlots → slotOf (hostOffset size addr) ∈ s.prot → s.ahead = 0 →
    exec (.hostSlotWrite size addr data) s = .next { s with toDevice := s.captureFault .ownedWrite none (some (slotOf (hostOffset size addr))) } ∧
    (s.captureFault .ownedWrite none (some (slotOf (hostOffset size addr)))).mem = s.mem ∧
    (s.captureFault .ownedWrite none (some (slotOf (hostOffset size addr)))).notices = s.notices) ∧
  (∀ (d : Device) (n : Nat) (w : WaitingAccess), d.arbiter = [w] → w.after ≤ 1 → regionOf (hostOffset w.size w.addr) = .cueSlots →
    slotOf (hostOffset w.size w.addr) = n →
    (d.beginTake n).pass = ({ d.beginTake n with arbiter := [] } : Device).captureFault .ownedWrite none (some n)) ∧
  ∀ (size : AccessSize) (addr data : Word) (s : State), s.ahead ≠ 0 →
    exec (.hostSlotWrite size addr data) s = .next { s with toDevice := { s.toDevice with ahead := s.ahead - 1 } } ∧
    exec (.statusProtect size addr data) s = .next { s with toDevice := { s.toDevice with ahead := s.ahead - 1 } } ∧
    exec (.finishedMapWrite size addr data) s = .next { s with toDevice := { s.toDevice with ahead := s.ahead - 1 } }

/-- R69, R71, R159: a host write to a slot that is not protected lands but for a state byte other than 00h and 01h; one that carries the state byte and leaves it POSTED offers the slot to the notice list; other bytes stay. -/
def Obligations.SlotWriteLands : Prop :=
  ∀ (size : AccessSize) (addr data : Word) (s : State), regionOf (hostOffset size addr) = .cueSlots → slotOf (hostOffset size addr) ∉ s.prot → s.MemOk →
    s.ahead = 0 →
    ∃ d : Device, exec (.hostSlotWrite size addr data) s = .next { s with toDevice := d } ∧
      (∀ i, i < AccessSize.bytes size → Memory.read d.mem (hostOffset size addr + i) =
        if (hostOffset size addr + i) % 64 = 0 ∧ wordByte data i ≠ 0 ∧ wordByte data i ≠ 1 then Memory.read s.mem (hostOffset size addr + i) else wordByte data i) ∧
      s.SameBytes d (fun a => hostOffset size addr ≤ a ∧ a < hostOffset size addr + AccessSize.bytes size) ∧
      (¬ (hostOffset size addr % 64 = 0 ∧ d.slotState (slotOf (hostOffset size addr)) = 1) → d.notices = s.notices) ∧
      (hostOffset size addr % 64 = 0 → d.slotState (slotOf (hostOffset size addr)) = 1 → slotOf (hostOffset size addr) ∉ s.notices → s.notices.length < 32 →
        d.notices = s.notices ++ [slotOf (hostOffset size addr)]) ∧
      (slotOf (hostOffset size addr) ∈ s.notices → d.notices = s.notices) ∧
      (s.notices.length < 32 → d = { s.toDevice with mem := d.mem, notices := d.notices, keep := d.keep, keepPending := d.keepPending }) ∧
      (s.keepPending = none → d.keep = s.keep ∧ d.keepPending = none)

/-- R160: an offer that finds the list full is not appended, sets the overflow flag and captures NOTICE_OVERFLOW with the slot; the slot keeps POSTED. -/
def Obligations.NoticeOverflow : Prop :=
  ∀ (size : AccessSize) (addr data : Word) (s : State), regionOf (hostOffset size addr) = .cueSlots → slotOf (hostOffset size addr) ∉ s.prot → s.MemOk →
    s.ahead = 0 → hostOffset size addr % 64 = 0 → wordByte data 0 = 1 → slotOf (hostOffset size addr) ∉ s.notices → 32 ≤ s.notices.length →
    ∃ d : Device, exec (.hostSlotWrite size addr data) s = .next { s with toDevice := d } ∧
      d.notices = s.notices ∧ d.overflow = true ∧ d.slotState (slotOf (hostOffset size addr)) = 1 ∧ d.attn = s.attn ||| 16 ∧
      (s.overflow = false → d.writer.isSome = true) ∧
      (s.capture = none → d.capture =
        some { kind := .noticeOverflow, port := none, slot := some (slotOf (hostOffset size addr)), pi := s.currentPI, time := s.time, more := 0 })

/-- R157, R161: writes outside the slots. A plain RAM write lands (log 4); a write to the status page is discarded whole with STATUS_PROTECT; a write to the finished map clears exactly the bits it carries as ones. -/
def Obligations.RegionWrites : Prop :=
  ∀ (size : AccessSize) (addr data : Word) (s : State), s.MemOk → s.ahead = 0 →
    (regionOf (hostOffset size addr) = .plain → ∃ m, exec (.hostSlotWrite size addr data) s = .next { s with toDevice := { s.toDevice with mem := m } } ∧
      (∀ i, i < AccessSize.bytes size → Memory.read m (hostOffset size addr + i) = wordByte data i) ∧
      ∀ a, a < hostOffset size addr ∨ hostOffset size addr + AccessSize.bytes size ≤ a → Memory.read m a = Memory.read s.mem a) ∧
    (regionOf (hostOffset size addr) = .statusPage →
      exec (.statusProtect size addr data) s = .next { s with toDevice := s.captureFault .statusProtect none none } ∧
      (s.captureFault .statusProtect none none).mem = s.mem) ∧
    (regionOf (hostOffset size addr) = .finishedMap → ∃ m, exec (.finishedMapWrite size addr data) s = .next { s with toDevice := { s.toDevice with mem := m } } ∧
      (∀ i, i < AccessSize.bytes size →
        Memory.read m (hostOffset size addr + i) = Memory.read s.mem (hostOffset size addr + i) &&& ~~~(wordByte data i)) ∧
      ∀ a, a < hostOffset size addr ∨ hostOffset size addr + AccessSize.bytes size ≤ a → Memory.read m a = Memory.read s.mem a)

/-- R164, R165: a byte or halfword write to the register window, and a word write to a register that is not CONTROL, SERVICE or NUDGE, is discarded; a CONTROL write without action bits that leaves the mode alone replaces RUN_ENABLE and the six ATTN_ENABLE bits and does nothing else. -/
def Obligations.RegisterWrites : Prop :=
  (∀ (size : AccessSize) (offset data : Word) (s : State), Instr.wf (.registerWriteDiscarded size offset data) = true →
    exec (.registerWriteDiscarded size offset data) s = .next s) ∧
  ∀ (w : Word) (s : State), wordBit w 8 = false → wordBit w 9 = false → wordBit w 10 = false → (wordBit w 0 = true → s.mode ≠ .init) →
    exec (.runEnable w) s = .next { s with toDevice := { s.toDevice with runEnable := wordBit w 0, attnEnable := w.extractLsb' 1 6 } } ∧
    exec (.attnEnable w) s = .next { s with toDevice := { s.toDevice with runEnable := wordBit w 0, attnEnable := w.extractLsb' 1 6 } }

/-- R168, R111, R121: a CONTROL write with RUN_ENABLE as 1 in INIT leaves INIT: ATTENDED, the long window, the carry timer stopped, every port in its entry state. With the transport STOPPED no port takes a join pulse and every cursor stays. -/
def Obligations.InitExit : Prop :=
  ∀ (w : Word) (s : State), wordBit w 8 = false → wordBit w 9 = false → wordBit w 10 = false → wordBit w 0 = true → s.mode = .init →
    ∃ d : Device, exec (.runEnable w) s = .next { s with toDevice := d } ∧ exec (.attnEnable w) s = .next { s with toDevice := d } ∧
      d.mode = .attended ∧ d.runEnable = true ∧ d.attnEnable = w.extractLsb' 1 6 ∧ d.attn.getLsbD 3 = true ∧ d.writer.isSome = true ∧
      d.service = { s.service with recent := .none, phase := .long, start := s.time, length := 2000000, carry := none } ∧
      (∀ p, (d.port p).state = entryOf (s.port p).settings (s.port p).presence) ∧ (∀ p, (d.port p).settings = (s.port p).settings) ∧ d.follower = s.follower ∧ d.house = s.house ∧
      (s.planner.transport = .stopped → ∀ p, (d.port p).cursor = (s.port p).cursor ∧ ((s.port p).join = none → (d.port p).join = none))

/-- R176: a CONTROL write carrying CAPTURE_RELEASE empties a filled record and requests a status write; on an empty record it does nothing; the next fault fills the record afresh. -/
def Obligations.CaptureRelease : Prop :=
  (∀ (w : Word) (s : State), wordBit w 8 = false ∨ s.presented = [] → ∃ t, exec (.captureRelease w) s = .next t ∧ t.capture = none) ∧
  (∀ (w : Word) (s : State), wordBit w 8 = false → wordBit w 9 = false → (wordBit w 0 = true → s.mode ≠ .init) →
    (∀ r, s.capture = some r → exec (.captureRelease w) s = .next { s with toDevice :=
      ({ s.toDevice with runEnable := wordBit w 0, attnEnable := w.extractLsb' 1 6, capture := none } : Device).requestStatus }) ∧
    (s.capture = none → exec (.captureRelease w) s = .next { s with toDevice :=
      { s.toDevice with runEnable := wordBit w 0, attnEnable := w.extractLsb' 1 6 } })) ∧
  (∀ (d : Device) (k : FaultKind) (port slot : Option Nat), d.capture = none →
    (d.captureFault k port slot).capture = some { kind := k, port := port, slot := slot, pi := d.currentPI, time := d.time, more := 0 })

/-- R169: HOUSE_CLEAR takes HOUSE to ATTENDED when the most recent service event is GOOD, with MODE latched and a status write; otherwise it does nothing. Mixers, ports and lists stay as they are (R154). -/
def Obligations.HouseClear : Prop :=
  ∀ (w : Word) (s : State), wordBit w 8 = false → wordBit w 10 = false → (wordBit w 0 = true → s.mode ≠ .init) →
    (s.mode = .house → s.service.recent = .good → exec (.houseClear w) s = .next { s with toDevice :=
      ({ s.toDevice with runEnable := wordBit w 0, attnEnable := w.extractLsb' 1 6, mode := .attended, attn := s.attn ||| 8 } : Device).requestStatus }) ∧
    (¬ (s.mode = .house ∧ s.service.recent = .good) → exec (.houseClear w) s = .next { s with toDevice :=
      { s.toDevice with runEnable := wordBit w 0, attnEnable := w.extractLsb' 1 6 } })

/-- R174, R16, R82, R84, R102, R125: what a soft restart leaves, whatever else the write carries: INIT, nothing planned, every port IDLE, the intake unit at slot 0 of a full sweep. Where the write does not leave INIT first, every HELD cue ends CANCELLED with reason RESTART and leaves its list, and a capture record that the write does not release stays. -/
def Obligations.SoftRestart : Prop :=
  ∀ (w : Word) (s : State), s.Quiet → ∃ d : Device, exec (.restart w) s = .next { s with toDevice := d } ∧
    d.mode = .init ∧ d.runEnable = false ∧ d.attnEnable = w.extractLsb' 1 6 ∧ d.attn.getLsbD 3 = true ∧ d.attn ||| s.attn = d.attn ∧ d.time = s.time ∧
    d.planner = Planner.reset ∧ (s.planner.transport ≠ .stopped → d.attn.getLsbD 5 = true) ∧
    d.service.phase = .stopped ∧ d.service.carry = none ∧ d.keepPending = none ∧ d.keep = s.keep ∧
    (s.keep = true → d.service.window = s.service.window ∧ d.service.period = s.service.period ∧ d.service.carryLimit = s.service.carryLimit ∧ d.house = s.house) ∧
    (s.keep = false → d.service.window = false ∧ d.service.period = 500000 ∧ d.service.carryLimit = 10 ∧ d.house = Vector.replicate 192 255) ∧
    (∀ p, (d.port p).state = .idle ∧ (d.port p).cursor = 0 ∧ (d.port p).join = none ∧ (d.port p).settleEnd = none ∧ (d.port p).flaps = [] ∧
      (d.port p).run = .run ∧ (d.port p).step.queue = [] ∧ (d.port p).mixer = Mixer.zero ∧ (d.port p).presence = (s.port p).presence ∧
      (d.port p).settings = if s.keep then (s.port p).settings else Settings.default) ∧
    (d.follower.state = if s.keep && s.follower.follow then .seeking else .off) ∧ d.follower.marks = [] ∧ d.follower.period = none ∧ d.follower.prevTaken = none ∧
    d.notices = [] ∧ d.overflow = false ∧ d.sweep = .visiting 0 ∧ d.seq = s.seq ∧
    ((wordBit w 0 = true → s.mode ≠ .init) → (wordBit w 10 = false → d.capture = s.capture) ∧
      (s.MemOk → s.heldSlots.Nodup → (∀ n ∈ s.heldSlots, n < 512) →
        d.globals = [] ∧ (∀ p, (d.port p).cues = []) ∧
        ∀ n ∈ s.heldSlots, d.slotState n = stCancelled ∧ d.field n 48 1 = 0x13 ∧ d.field n 56 4 = timeLow32 s.time ∧ n ∉ d.prot))

/-- R166: a read of ATTN returns the latched causes and clears them in the same event; the interrupt line is asserted while a latched cause is enabled. -/
def Obligations.AttnReadAndInterruptLine : Prop :=
  (∀ s : State, exec .attnRead s = .next { s with toDevice := { s.toDevice with readData := s.attn.setWidth 32, attn := 0 } }) ∧
  ∀ d : Device, d.interruptLine = true ↔ ∃ i, i < 6 ∧ d.attn.getLsbD i = true ∧ d.attnEnable.getLsbD i = true

/-- R171, R172: how a SERVICE write is judged: discarded in INIT; PARITY by odd parity, EARLY in the closed half, else GOOD; each with its effect on the period, the mode and the carry timer. -/
def Obligations.ServiceJudged : Prop :=
  ∀ (w : Word) (s : State),
    (s.mode = .init → exec (.service w) s = .next s) ∧
    (s.mode ≠ .init → oddParity w = true → ∃ d : Device, exec (.service w) s = .next { s with toDevice := d } ∧
      d.service = { s.service with recent := .parity, carry := if s.mode = .attended then some (timePlus s.time (s.service.carryLimit * 1000000)) else s.service.carry } ∧
      (d.mode = if s.mode = .attended then .carry else s.mode) ∧ d.attn.getLsbD 4 = true ∧ (s.mode = .attended → d.attn.getLsbD 3 = true)) ∧
    (s.mode ≠ .init → oddParity w = false → s.service.isEarly s.time = true → ∃ d : Device, exec (.service w) s = .next { s with toDevice := d } ∧
      d.service = { s.service with
        recent := .early, phase := if s.service.window then .closed else .openPhase, start := s.time, length := s.service.period,
        carry := if s.mode = .attended then some (timePlus s.time (s.service.carryLimit * 1000000)) else s.service.carry } ∧
      (d.mode = if s.mode = .attended then .carry else s.mode) ∧ d.attn.getLsbD 4 = true ∧ (s.mode = .attended → d.attn.getLsbD 3 = true)) ∧
    (s.mode ≠ .init → oddParity w = false → s.service.isEarly s.time = false → ∃ d : Device, exec (.service w) s = .next { s with toDevice := d } ∧
      d.service = { s.service with
        recent := .good, phase := if s.service.window then .closed else .openPhase, start := s.time, length := s.service.period,
        carry := if s.mode = .carry then none else s.service.carry } ∧
      (d.mode = if s.mode = .carry then .attended else s.mode) ∧ (s.mode = .carry → d.attn.getLsbD 3 = true) ∧ d.capture = s.capture)

/-- R67, R49: a NUDGE write is discarded while STOPPED; while a run lasts its signed count is added to the balance that C+1 takes, saturating at 64 either way, and no entry at or below the commit horizon changes. -/
def Obligations.Nudge : Prop :=
  ∀ (w : Word) (s : State),
    (nudgeCount w = if wordBit w 4 then -((w.toNat % 16 : Nat) : Int) else ((w.toNat % 16 : Nat) : Int)) ∧
    (s.planner.transport = .stopped → exec (.nudge w) s = .next s) ∧
    (s.planner.transport ≠ .stopped → ∃ d : Device, exec (.nudge w) s = .next { s with toDevice := d } ∧
      d.planner.pendBalance = some (saturate64 (s.nextBalance + nudgeCount w)) ∧ d.planner.horizon = s.planner.horizon ∧
      (∀ c, s.planner.horizon = some c → ∀ e ∈ s.planner.plan, e.pi ≤ c → e ∈ d.planner.plan) ∧
      d.time = s.time ∧ d.follower = s.follower ∧ d.mode = s.mode ∧ d.service = s.service ∧ d.house = s.house)

/-! ## Intake -/

/-- R83, R84, R160: a notice whose slot does not read POSTED is discarded, and nothing is written. A list that becomes empty with the overflow flag set, by a notice or as a sweep ends, clears the flag, which requests a status write, and begins a sweep at slot 0. A sweep passes over a slot that is not POSTED, takes one that is (slot 0 and slot 511 included), and ends after slot 511. That the command SWEEP carries a number of visits, the last clause, is the model's choice (log 8). -/
def Obligations.NoticesAndSweep : Prop :=
  ∀ s : State,
    (∀ n rest, s.sweep = .none → s.notices = n :: rest → s.slotState n ≠ stPosted → ¬ (rest = [] ∧ s.overflow = true) →
      exec .noticeDiscarded s = .next { s with toDevice := { s.toDevice with notices := rest } }) ∧
    (∀ n, s.sweep = .none → s.notices = [n] → s.slotState n ≠ stPosted → s.overflow = true →
      exec .noticeDiscarded s = .next { s with toDevice := ({ s.toDevice with notices := [], sweep := .visiting 0, overflow := false } : Device).requestStatus }) ∧
    (∀ n, s.sweep = .visiting n → n < 511 → s.slotState n ≠ stPosted →
      exec (.sweep 1) s = .next { s with toDevice := { s.toDevice with sweep := .visiting (n + 1) } }) ∧
    (s.sweep = .visiting 511 → s.slotState 511 ≠ stPosted → ¬ (s.notices = [] ∧ s.overflow = true) →
      exec (.sweep 1) s = .next { s with toDevice := { s.toDevice with sweep := .none } }) ∧
    (s.sweep = .visiting 511 → s.slotState 511 ≠ stPosted → s.notices = [] → s.overflow = true →
      exec (.sweep 1) s = .next { s with toDevice := ({ s.toDevice with sweep := .visiting 0, overflow := false } : Device).requestStatus }) ∧
    (∀ n, s.sweep = .visiting n → s.slotState n = stPosted → exec (.sweep 1) s = exec (s.takeRow n).command s) ∧
    (∀ n t, s.Quiet → exec (.sweep 1) s = .next t → exec (.sweep (n + 1)) s = exec (.sweep n) t)

/-- R85 to R87, R72, R73, Table 1-4: the eight checks of intake in their order, BAD_KIND, WRONG_MODE, BAD_PORT, WRONG_PORT_KIND, BAD_FIELD, BULK_RANGE, WRONG_TRANSPORT, FOLLOWING: the first that fails gives the reason, and a cue that passes all eight is accepted. -/
def Obligations.EightChecks : Prop :=
  ∀ (d : Device) (n : Nat),
    let kind := d.kindOf n
    let port := d.portByte n
    let mode := d.fireMode n
    let opt := d.optionsOf n
    let f : Nat → Nat → Nat := fun offset size => d.field n offset size
    let grid : List Nat := [1, 2, 4, 8, 16, 32, 64]
    let badKind := kind ∉ [0x01, 0x02, 0x03, 0x10, 0x11, 0x12, 0x20, 0x21, 0x22, 0x30, 0x31, 0x32, 0x33]
    let wrongMode := (d.mode = .init ∧ kind ∉ [0x30, 0x31, 0x32, 0x33, 0x22] ∧ ¬ (kind = 0x12 ∧ port = 0xFE)) ∨ (d.mode = .house ∧ kind ≠ 0x22)
    let badPort := (kind ∈ [0x10, 0x11, 0x12, 0x30] ∧ 23 < port ∧ ¬ (kind = 0x12 ∧ port = 0xFE)) ∨ (port = 0xFE ∧ kind ≠ 0x12) ∨
      (kind = 0x22 ∧ 23 < f 16 1 ∧ f 16 1 ≠ 0xFF) ∨ (kind = 0x20 ∧ opt = 1 ∧ 23 < f 16 1 ∧ f 16 1 ≠ 0xFF)
    let wrongKind := ∃ p : PortIx, p.val = port ∧ ((kind = 0x10 ∧ (d.port p).settings.kind ≠ .step) ∨
      (kind = 0x11 ∧ (d.port p).settings.kind ≠ .clock ∧ (d.port p).settings.kind ≠ .step) ∨ (kind = 0x12 ∧ (d.port p).settings.kind ≠ .level))
    let portCue := kind = 0x10 ∨ kind = 0x11 ∨ (kind = 0x12 ∧ port ≠ 0xFE)
    let nowOnly := kind ∈ [0x20, 0x21, 0x22, 0x30, 0x31, 0x32, 0x33] ∨ (kind = 0x12 ∧ port = 0xFE) ∨ (kind = 0x03 ∧ f 16 1 ≤ 1)
    let mayRepeat := kind = 0x10 ∨ (kind = 0x12 ∧ port ≠ 0xFE)
    let badHeader := 2 < mode ∨ (nowOnly ∧ mode ≠ 0) ∨ (mode = 2 ∧ d.fireValue n ∉ grid) ∨ (portCue ∧ 3 < d.latenessOf n) ∨
      (mayRepeat ∧ d.intervalOf n = 0 ∧ d.countOf n ≠ 0) ∨ (¬ mayRepeat ∧ (d.intervalOf n ≠ 0 ∨ d.countOf n ≠ 0))
    let badGlobal := (kind = 0x01 ∧ f 16 4 = 0) ∨ (kind = 0x02 ∧ f 16 1 = 0) ∨ (kind = 0x03 ∧ 2 < f 16 1)
    let badSend := kind = 0x10 ∧ (1 < opt ∨ (opt = 0 ∧ (f 16 1 = 0 ∨ 30 < f 16 1)) ∨
      (opt = 1 ∧ (f 20 2 = 0 ∨ 4096 < f 20 2 ∨ 2 < f 22 1 ∨ (f 22 1 ≠ 0 ∧ f 23 1 = 0))))
    let badScene := kind = 0x12 ∧ (47 < f 16 1 ∨ (port ≠ 0xFE ∧
      (2 < f 20 1 ∨ (f 20 1 ≠ 0 ∧ (191 < f 23 1 ∨ f 23 1 < f 22 1)) ∨ (f 20 1 = 2 ∧ 2 < f 21 1))))
    let badControl := (kind = 0x11 ∧ 1 < f 16 1) ∨
      (kind = 0x20 ∧ (1 < opt ∨ (opt = 0 ∧ 511 < f 16 2) ∨
        (opt = 1 ∧ f 17 1 ≠ 0xFF ∧ f 17 1 ∉ [0x01, 0x02, 0x03, 0x10, 0x11, 0x12, 0x20, 0x21, 0x22, 0x30, 0x31, 0x32, 0x33]))) ∨
      (kind = 0x21 ∧ (511 < f 16 2 ∨ 2 < f 20 1 ∨ (f 20 1 = 2 ∧ f 24 4 ∉ grid)))
    let badSetup := (kind = 0x30 ∧ (((f 16 2).testBit 0 = true ∧ 3 < f 18 1) ∨
        ((f 16 2).testBit 2 = true ∧ f 19 1 ∉ [1, 2, 3, 4, 6, 8, 12, 16, 24, 32, 48, 96]) ∨ ((f 16 2).testBit 3 = true ∧ 4 < f 24 1) ∨
        ((f 16 2).testBit 5 = true ∧ 1 < f 26 1) ∨ ((f 16 2).testBit 6 = true ∧ 1 < f 27 1) ∨ ((f 16 2).testBit 7 = true ∧ 1 < f 28 1))) ∨
      (kind = 0x31 ∧ (1 < f 16 1 ∨ 1 < f 17 1)) ∨ (kind = 0x32 ∧ (1 < f 16 1 ∨ 4 < f 17 1)) ∨ (kind = 0x33 ∧ 1 < f 16 1)
    let badField := badHeader ∨ badGlobal ∨ badSend ∨ badScene ∨ badControl ∨ badSetup
    let bulkRange := kind = 0x10 ∧ opt = 1 ∧ (81920 ≤ f 16 4 ∨ 81920 < f 16 4 + f 20 2)
    let wrongTransport := (kind = 0x03 ∧ f 16 1 = 0 ∧ d.planner.transport ≠ .stopped) ∨
      (kind = 0x03 ∧ f 16 1 = 1 ∧ ¬ (d.planner.transport = .stopped ∧ ∃ r, d.planner.stopped = some r ∧ r.pi < 4294967295)) ∨
      (kind = 0x03 ∧ 2 ≤ f 16 1 ∧ d.planner.transport ≠ .running) ∨ (portCue ∧ mode = 0 ∧ d.planner.transport = .stopped)
    let following := kind = 0x01 ∧ d.follower.state ≠ .off
    (badKind → d.validate n = some .badKind) ∧ (¬ badKind → wrongMode → d.validate n = some .wrongMode) ∧
    (¬ badKind → ¬ wrongMode → badPort → d.validate n = some .badPort) ∧
    (¬ badKind → ¬ wrongMode → ¬ badPort → wrongKind → d.validate n = some .wrongPortKind) ∧
    (¬ badKind → ¬ wrongMode → ¬ badPort → ¬ wrongKind → badField → d.validate n = some .badField) ∧
    (¬ badKind → ¬ wrongMode → ¬ badPort → ¬ wrongKind → ¬ badField → bulkRange → d.validate n = some .bulkRange) ∧
    (¬ badKind → ¬ wrongMode → ¬ badPort → ¬ wrongKind → ¬ badField → ¬ bulkRange → wrongTransport → d.validate n = some .wrongTransport) ∧
    (¬ badKind → ¬ wrongMode → ¬ badPort → ¬ wrongKind → ¬ badField → ¬ bulkRange → ¬ wrongTransport → following → d.validate n = some .following) ∧
    (d.validate n = none ↔ ¬ badKind ∧ ¬ wrongMode ∧ ¬ badPort ∧ ¬ wrongKind ∧ ¬ badField ∧ ¬ bulkRange ∧ ¬ wrongTransport ∧ ¬ following)

/-- R83, R85, R79, R81: a take that a check fails ends REFUSED with that reason: the result region, the state byte, the finished-map bit, cause FINISHED, and nothing else. It holds for the take of every row, and it is the whole effect of BAD_KIND. -/
def Obligations.RefusedTake : Prop :=
  ∀ (row : TakeRow) (s : State) (n : Nat) (reason : Reason), s.NextTake row n → s.validate n = some reason →
    ∃ d : Device, exec row.command s = .next { s with toDevice := d } ∧
      s.TakeEnds d n stRefused { reason := reason, flags := CueFlags.clear, revision := 1, firePI := s.currentPI, fireTime := timeLow32 s.time, fired := 0, aux := 0 } ∧
      d = s.intakeOf d ∧ d.attn = s.attn ||| 1 ∧ (row = .badKind → s.validate n = some .badKind)

/-- R19, R46: a NOW TEMPO taken while STOPPED replaces the held period by the converted tempo and ends FIRED at once with the next run's first PI. -/
def Obligations.TempoNowWhileStopped : Prop :=
  ∀ (s : State) (n : Nat), s.NextTake .tempo n → s.validate n = none → s.fireMode n = 0 → s.planner.transport = .stopped →
    ∃ d : Device, exec .tempo s = .next { s with toDevice := d } ∧
      s.TakeEnds d n stFired
        { reason := .none, flags := CueFlags.ofClamped (decide (s.field n 16 4 < 40000) || decide (300000 < s.field n 16 4)), revision := 1,
          firePI := (match s.planner.stopped with | some r => if r.pi < 4294967295 then r.pi + 1 else 0 | none => 0), fireTime := timeLow32 s.time, fired := 1, aux := 0 } ∧
      d = { s.intakeOf d with planner := { s.planner with
        heldPeriod := roundDiv 40960000000000 (if s.field n 16 4 < 40000 then 40000 else if 300000 < s.field n 16 4 then 300000 else s.field n 16 4) } } ∧
      d.attn = s.attn ||| 1

/-- R89, R91, R92, R94, R47, R80, R41 to R43, R45, R13, R6: a TEMPO (but a NOW TEMPO while STOPPED), METER or STOP that passes the checks enters the global list HELD, at its resolved fire PI, or at the first soft pulse with MOVED if that lies above; no global cue is left below the first soft pulse of a run, and the slot shows HELD. Where it does not reach into the plan nothing else changes. Where it does, the plan is made again from the first soft pulse on: no hard entry changes, and the new entries apply the cue where it falls due. -/
def Obligations.GlobalCueHeld : Prop :=
  ∀ (s : State) (n : Nat) (row : TakeRow) (body : CueBody) (clamped : Bool), s.NextTake row n → s.validate n = none → s.heldAt n = none →
    ((row = .tempo ∧ ¬ (s.fireMode n = 0 ∧ s.planner.transport = .stopped) ∧
        body = .tempo (roundDiv 40960000000000 (if s.field n 16 4 < 40000 then 40000 else if 300000 < s.field n 16 4 then 300000 else s.field n 16 4)) (s.field n 20 2) ∧
        clamped = (decide (s.field n 16 4 < 40000) || decide (300000 < s.field n 16 4))) ∨
      (row = .meter ∧ body = .meter (if 15 < s.field n 16 1 then 15 else s.field n 16 1) ∧ clamped = decide (15 < s.field n 16 1)) ∨
      (row = .transportStop ∧ body = .stop ∧ clamped = false)) →
    let due := s.resolve (s.fireMode n) (s.fireValue n) s.globalRef
    let low : Bool := decide (s.planner.transport ≠ .stopped) && decide (due < s.firstSoft)
    let alone := s.planner.transport = .stopped ∨ ∀ x ∈ s.globals, s.firstSoft ≤ x.due
    ∃ (d : Device) (c : Cue), exec row.command s = .next { s with toDevice := d } ∧
      c = { slot := n, tag := s.tagOf n, due := if low then s.firstSoft else due, mark := none, seq := s.seq, revision := 1, grace := Lateness.ofCode (s.latenessOf n),
            interval := s.intervalOf n, left := if s.intervalOf n = 0 then some 1 else if s.countOf n = 0 then none else some (s.countOf n),
            fired := 0, skipped := 0, lastSkip := .none, flags := { clamped := clamped, moved := low, late := false, superseded := false }, body := body,
            lastFired := none, bytes := 0 } ∧
      d.ShowsHeld c ∧ n ∈ d.prot ∧ s.Taken d ∧ (∃ flags, { c with flags := flags } ∈ d.globals) ∧
      (s.planner.transport ≠ .stopped → ∀ x ∈ d.globals, s.firstSoft ≤ x.due) ∧ d.planner.horizon = s.planner.horizon ∧
      (∀ h, s.planner.horizon = some h → ∀ e ∈ s.planner.plan, e.pi ≤ h → e ∈ d.planner.plan) ∧
      (alone → s.SameBytes d (heldBytes n)) ∧
      (alone → s.reachesTail c.due = false → d.globals = insertCue c s.globals ∧ d = { s.intakeOf d with globals := d.globals } ∧ d.attn = s.attn) ∧
      (s.reachesTail c.due = true → s.planner.transport ≠ .stopped → s.planner.opening.isSome = true →
        (∀ z h, s.planner.latched = some z → s.planner.horizon = some h → h < z) → ∃ l, s.Replanned d l ∧ d.TakesEffect c l)

/-- R89, R91, R92, R94, R95, R80: a SEND, PORT RUN or SCENE to a port that passes the checks and is not late beyond its grace enters its port's list HELD at its resolved due PI. Nothing else changes. -/
def Obligations.PortCueHeld : Prop :=
  ∀ (s : State) (n : Nat) (p : PortIx) (row : TakeRow) (body : CueBody), s.NextTake row n → s.validate n = none → s.heldAt n = none → s.portByte n = p.val →
    ((row = .send ∧ s.optionsOf n = 0 ∧ body = .send false 0 (s.field n 16 1) .whole 0) ∨
      (row = .send ∧ s.optionsOf n = 1 ∧ body = .send true (s.field n 16 4) (s.field n 20 2) (Pacing.ofCode (s.field n 22 1)) (s.field n 23 1)) ∨
      (row = .portRun ∧ body = .portRun (if s.field n 16 1 = 0 then .run else .halt)) ∨
      (row = .scene ∧ s.field n 20 1 = 0 ∧ body = .scene (s.field n 16 1) (s.field n 18 2) .none 0 0) ∨
      (row = .scene ∧ s.field n 20 1 ≠ 0 ∧
        body = .scene (s.field n 16 1) (s.field n 18 2) (Modulator.ofCode (s.field n 20 1) (s.field n 21 1)) (s.field n 22 1) (s.field n 23 1))) →
    (s.planner.transport = .stopped ∨ s.refPoint p ≤ s.resolve (s.fireMode n) (s.fireValue n) (s.refPoint p) ∨
      ((s.port p).state.joined = true ∧
        s.withinGrace (Lateness.ofCode (s.latenessOf n)) (s.refPoint p - s.resolve (s.fireMode n) (s.fireValue n) (s.refPoint p)) = true)) →
    ∃ (d : Device) (c : Cue), exec row.command s = .next { s with toDevice := d } ∧
      c = { slot := n, tag := s.tagOf n, due := s.resolve (s.fireMode n) (s.fireValue n) (s.refPoint p),
            mark := if (s.port p).state.joined then (s.port p).join else none, seq := s.seq, revision := 1, grace := Lateness.ofCode (s.latenessOf n),
            interval := s.intervalOf n, left := if s.intervalOf n = 0 then some 1 else if s.countOf n = 0 then none else some (s.countOf n),
            fired := 0, skipped := 0, lastSkip := .none, flags := CueFlags.clear, body := body, lastFired := none, bytes := 0 } ∧
      d.ShowsHeld c ∧ n ∈ d.prot ∧ s.Taken d ∧ s.SameBytes d (heldBytes n) ∧
      d = { s.intakeOf d with ports := d.ports } ∧ d.attn = s.attn ∧
      d.port p = { s.port p with cues := insertCue c (s.port p).cues } ∧ ∀ q, q ≠ p → d.port q = s.port q

/-- R95, R100, R79: a port cue without repeats that is late beyond its grace at a joined port, or due below the reference cursor at another port, ends MISSED in its take, with reason LATE or DETACHED and its due PI. Nothing else changes. -/
def Obligations.PortCueMissedAtIntake : Prop :=
  ∀ (s : State) (n : Nat) (p : PortIx) (row : TakeRow), s.NextTake row n → s.validate n = none → s.heldAt n = none → s.portByte n = p.val →
    (row = .send ∨ row = .portRun ∨ row = .scene) → s.intervalOf n = 0 → s.planner.transport ≠ .stopped →
    s.resolve (s.fireMode n) (s.fireValue n) (s.refPoint p) < s.refPoint p →
    ((s.port p).state.joined = true →
      s.withinGrace (Lateness.ofCode (s.latenessOf n)) (s.refPoint p - s.resolve (s.fireMode n) (s.fireValue n) (s.refPoint p)) = false) →
    ∃ d : Device, exec row.command s = .next { s with toDevice := d } ∧
      s.TakeEnds d n stMissed
        { reason := if (s.port p).state.joined then .late else .detached, flags := CueFlags.clear, revision := 1,
          firePI := s.resolve (s.fireMode n) (s.fireValue n) (s.refPoint p), fireTime := timeLow32 s.time, fired := 0, aux := 0 } ∧
      d = s.intakeOf d ∧ d.attn = s.attn ||| 1

/-- R10, R11, R36, R38, R122: an accepted START ends FIRED at PI 0 and begins a run: PI 0 is planned at the start instant with the held period, or, while the follower is LOCKED, on the earliest predicted mark at or after that instant with the follower's period; the counts are 1 and 1, the horizon is clear, the history empty, and every port's cursor is 0. -/
def Obligations.Start : Prop :=
  ∀ (s : State) (n : Nat), s.NextTake .transportStart n → s.validate n = none →
    let plain := timeInstant (timePlus s.time (s.lmax + 8000))
    ∃ (d : Device) (e : PlanEntry), exec .transportStart s = .next { s with toDevice := d } ∧
      d.Shows n stFired { reason := .none, flags := CueFlags.clear, revision := 1, firePI := 0, fireTime := timeLow32 s.time, fired := 1, aux := 0 } ∧
      s.planner.transport = .stopped ∧ d.planner.transport ≠ .stopped ∧ d.planner.stopped = none ∧ d.planner.horizon = none ∧ d.planner.anchor = none ∧
      d.planner.history = [] ∧ d.planner.cursor = some 0 ∧ d.attn.getLsbD 5 = true ∧ d.attn.getLsbD 0 = true ∧ d.writer.isSome = true ∧
      d.planner.plan.head? = some e ∧ e.pi = 0 ∧ e.beatStart = true ∧ e.barStart = true ∧ e.bar = 1 ∧ e.beat = 1 ∧ e.snap.origin = 0 ∧
      (s.follower.state ≠ .locked → e.instant = plain ∧ e.period = s.planner.heldPeriod) ∧
      (∀ m q, s.follower.state = .locked → s.follower.lastMark = some m → s.follower.period = some q → 0 < q →
        let behind := (instDiff plain (timeInstant m)).toNat
        e.period = q ∧ ∃ k : Nat, e.instant = timeInstant m + BitVec.ofNat 64 (k * (96 * q)) ∧ behind ≤ k * (96 * q) ∧ ∀ j : Nat, behind ≤ j * (96 * q) → k ≤ j) ∧
      (∀ p, (d.port p).cursor = 0 ∧ (d.port p).state = (s.port p).state ∧ ((s.port p).state.counts = true → (d.port p).join = some 0)) ∧
      d.time = s.time ∧ d.follower = s.follower ∧ d.mode = s.mode ∧ d.service = s.service ∧ d.house = s.house ∧ s.Taken d

/-- R12, R3, R11, R122: an accepted CONTINUE ends FIRED at s+1 and resumes the run there, with the held period, meter and origin, the counts going on from those of s, and the beat history kept; every port's cursor is s+1. -/
def Obligations.Continue : Prop :=
  ∀ (s : State) (n : Nat), s.NextTake .transportContinue n → s.validate n = none →
    ∃ (d : Device) (e : PlanEntry) (r : StoppedRun), exec .transportContinue s = .next { s with toDevice := d } ∧
      s.planner.stopped = some r ∧ r.pi < 4294967295 ∧
      d.Shows n stFired { reason := .none, flags := CueFlags.clear, revision := 1, firePI := r.pi + 1, fireTime := timeLow32 s.time, fired := 1, aux := 0 } ∧
      d.planner.transport ≠ .stopped ∧ d.planner.stopped = none ∧ d.planner.horizon = none ∧ d.planner.history = s.planner.history ∧
      d.planner.cursor = some (r.pi + 1) ∧ d.attn.getLsbD 5 = true ∧
      d.planner.plan.head? = some e ∧ e.pi = r.pi + 1 ∧ e.instant = timeInstant (timePlus s.time (s.lmax + 8000)) ∧ e.period = s.planner.heldPeriod ∧
      ((∀ c ∈ s.globals, c.isMeter = false) → e.snap.meter = s.planner.heldMeter ∧ e.snap.origin = s.planner.heldOrigin) ∧
      (e.barStart = true → e.bar = r.bar + 1 ∧ e.beat = 1) ∧
      (e.barStart = false → (r.pi + 1) % 96 = 0 → e.bar = r.bar ∧ e.beat = r.beat + 1) ∧
      (e.barStart = false → (r.pi + 1) % 96 ≠ 0 → e.bar = r.bar ∧ e.beat = r.beat) ∧
      (∀ p, (d.port p).cursor = r.pi + 1 ∧ (d.port p).state = (s.port p).state) ∧
      d.time = s.time ∧ d.follower = s.follower ∧ d.mode = s.mode ∧ d.service = s.service ∧ d.house = s.house ∧ s.Taken d

/-- R152, R147, R156: a SCENE to the house target copies its scene's 192 levels into the house scene and ends DONE; nothing else changes. A host write to plain memory that arrives meanwhile falls between two accesses of the take, and the levels read before it are the old ones, those read after it the new ones; where it falls, `after` engine accesses later, is a free value (log 38). -/
def Obligations.SceneToHouse : Prop :=
  (∀ (s : State) (n : Nat), s.NextTake .sceneHouse n → s.validate n = none →
    ∃ d : Device, exec .sceneHouse s = .next { s with toDevice := d } ∧
      s.TakeEnds d n stDone { reason := .none, flags := CueFlags.clear, revision := 1, firePI := s.currentPI, fireTime := timeLow32 s.time, fired := 0, aux := 0 } ∧
      (∀ c (h : c < 192), d.house[c] = Memory.read s.mem (0x9000 + 192 * s.field n 16 1 + c)) ∧ d = { s.intakeOf d with house := d.house } ∧ d.attn = s.attn ||| 1) ∧
  ∀ (s : State) (n : Nat) (w : WaitingAccess), s.nextSlot = some n → n < 512 → s.slotState n = stPosted → s.takeRow n = .sceneHouse → s.MemOk → s.presented = [w] →
    s.validate n = none → regionOf (hostOffset w.size w.addr) = .plain →
    ∃ d : Device, exec .sceneHouse s = .next { s with toDevice := d } ∧ d.slotState n = stDone ∧
      ∀ c (h : c < 192), d.house[c] = Memory.read
        (if Nat.max 1 w.after ≤ c + 2 then Memory.writeBytes s.mem (hostOffset w.size w.addr) (accessBytes w.size w.data) else s.mem)
        (0x9000 + 192 * s.field n 16 1 + c)

/-- R103, R105, R140: a CANCEL by slot. A target that is not HELD refuses it NOT_HELD; another revision, STALE; otherwise the target ends CANCELLED with reason BY_SLOT and leaves its place, and a SEND cut short after its first character owes an ABORT. -/
def Obligations.CancelBySlot : Prop :=
  ∀ (s : State) (n m : Nat), s.NextTake .cancelBySlot n → s.validate n = none → m = s.field n 16 2 →
    (∀ r, ((s.heldAt m = none ∧ r = .notHeld) ∨ (∃ place c, s.heldAt m = some (place, c) ∧ s.field n 18 2 ≠ 0 ∧ s.field n 18 2 ≠ c.revision ∧ r = .stale)) →
      ∃ d : Device, exec .cancelBySlot s = .next { s with toDevice := d } ∧
        s.TakeEnds d n stRefused { reason := r, flags := CueFlags.clear, revision := 1, firePI := s.currentPI, fireTime := timeLow32 s.time, fired := 0, aux := 0 } ∧
        d = s.intakeOf d ∧ d.attn = s.attn ||| 1) ∧
    (∀ place c, s.heldAt m = some (place, c) → m ≠ n → (s.field n 18 2 = 0 ∨ s.field n 18 2 = c.revision) →
      ∃ d : Device, exec .cancelBySlot s = .next { s with toDevice := d } ∧
        d.Shows n stDone { reason := .none, flags := CueFlags.clear, revision := 1, firePI := s.currentPI, fireTime := timeLow32 s.time, fired := 0, aux := 0 } ∧
        d.slotState m = stCancelled ∧ d.field m 48 1 = 0x10 ∧ d.field m 56 4 = timeLow32 s.time ∧ s.Taken d ∧ d.attn.getLsbD 0 = true ∧
        (place = .global → d.field m 52 4 = c.due % 4294967296 ∧ ∀ c' ∈ d.globals, c'.slot ≠ m) ∧
        (∀ p, place = .list p → d.field m 52 4 = c.due % 4294967296 ∧ (d.port p).cues = dropCue m (s.port p).cues ∧ d.planner = s.planner ∧ d.globals = s.globals) ∧
        (∀ p, place = .flight p →
          (d.port p).step.queue.map (·.cue.slot) = ((s.port p).step.queue.map (·.cue.slot)).filter (· != m) ∧ d.planner = s.planner ∧ d.globals = s.globals ∧
          ∀ f rest, (s.port p).step.queue = f :: rest → f.cue.slot = m → 0 < f.sent →
            chAbort ∈ (d.port p).step.owed ∨ ∃ l, (d.port p).step.line = some l ∧ l.code = chAbort))

/-- R104: a CANCEL by selector ends DONE; its aux counts the HELD cues that match its port, kind and tag, and each of them ends CANCELLED with reason BY_SELECTOR. -/
def Obligations.CancelBySelector : Prop :=
  ∀ (s : State) (n : Nat), s.NextTake .cancelBySelector n → s.validate n = none → (∀ x ∈ s.held, x.2.slot < 512) →
    ∃ (d : Device) (hit : List Nat), exec .cancelBySelector s = .next { s with toDevice := d } ∧
      d.Shows n stDone { reason := .none, flags := CueFlags.clear, revision := 1, firePI := s.currentPI, fireTime := timeLow32 s.time, fired := 0, aux := hit.length } ∧
      hit = (s.held.filter fun x =>
        (s.field n 16 1 == 0xFF || (match x.1 with | .global => false | .list p => p.val == s.field n 16 1 | .flight p => p.val == s.field n 16 1)) &&
          (s.field n 17 1 == 0xFF || x.2.body.kindCode == s.field n 17 1) && (s.field n 18 2 == 0xFFFF || x.2.tag == s.field n 18 2)).map (·.2.slot) ∧
      (∀ m ∈ hit, m ≠ n → d.slotState m = stCancelled ∧ d.field m 48 1 = 0x11) ∧ s.Taken d ∧ d.attn.getLsbD 0 = true ∧
      d.planner.horizon = s.planner.horizon ∧ d.time = s.time ∧ d.follower = s.follower ∧ d.mode = s.mode ∧ d.service = s.service ∧ d.house = s.house

/-- R106, R107, R95, R100, R47, R41: an AMEND. Its checks refuse it in order. One that passes gives a port cue its new due PI, its attempts and a revision one higher: while STOPPED, or where R95 finds it on time or within its grace, it stands at its new place in the list; else, without repeats, it ends MISSED with reason LATE or DETACHED. A global cue is placed anew, at the first soft pulse with MOVED if it would lie below, and where its old or new fire PI reaches into the plan the plan is made again. The AMEND ends DONE. -/
def Obligations.Amend : Prop :=
  ∀ (s : State) (n m : Nat), s.NextTake .amend n → s.validate n = none → m = s.field n 16 2 →
    let left : Cue → Option Nat := fun c =>
      if s.field n 22 2 = 0xFFFF then c.left else if s.field n 22 2 = 0 then (if c.interval = 0 then some 1 else none) else some (s.field n 22 2)
    let revision : Cue → Nat := fun c => if 65535 ≤ c.revision then 1 else c.revision + 1
    let fits : Cue → Prop := fun c => (s.field n 18 2 = 0 ∨ s.field n 18 2 = c.revision) ∧ (s.field n 22 2 = 0xFFFF ∨ c.interval ≠ 0 ∨ s.field n 22 2 = 0)
    let done : Device → Prop := fun d =>
      d.Shows n stDone { reason := .none, flags := CueFlags.clear, revision := 1, firePI := s.currentPI, fireTime := timeLow32 s.time, fired := 0, aux := 0 } ∧ s.Taken d
    (∀ r, ((r = .notHeld ∧ (s.heldAt m = none ∨ ∃ p c, s.heldAt m = some (.flight p, c))) ∨
        (∃ place c, s.heldAt m = some (place, c) ∧ (∀ p, place ≠ .flight p) ∧
          ((r = .stale ∧ s.field n 18 2 ≠ 0 ∧ s.field n 18 2 ≠ c.revision) ∨
            ((s.field n 18 2 = 0 ∨ s.field n 18 2 = c.revision) ∧
              ((r = .badField ∧ s.field n 22 2 ≠ 0xFFFF ∧ c.interval = 0 ∧ s.field n 22 2 ≠ 0) ∨
                ((s.field n 22 2 = 0xFFFF ∨ c.interval ≠ 0 ∨ s.field n 22 2 = 0) ∧ r = .wrongTransport ∧ place ≠ .global ∧ s.field n 20 1 = 0 ∧
                  s.planner.transport = .stopped)))))) →
      ∃ d : Device, exec .amend s = .next { s with toDevice := d } ∧
        s.TakeEnds d n stRefused { reason := r, flags := CueFlags.clear, revision := 1, firePI := s.currentPI, fireTime := timeLow32 s.time, fired := 0, aux := 0 } ∧
        d = s.intakeOf d ∧ d.attn = s.attn ||| 1) ∧
    (∀ p c, s.heldAt m = some (.list p, c) → m ≠ n → fits c →
      let c' := { c with
        due := s.resolve (s.field n 20 1) (s.field n 24 4) (s.refPoint p), mark := if (s.port p).state.joined then (s.port p).join else none, left := left c,
        revision := revision c }
      let late := s.planner.transport ≠ .stopped ∧ c'.due < s.refPoint p ∧
        ((s.port p).state.joined = true → s.withinGrace c.grace (s.refPoint p - c'.due) = false)
      (¬ late → (s.planner.transport = .stopped → s.field n 20 1 ≠ 0) → ∃ d : Device, exec .amend s = .next { s with toDevice := d } ∧ done d ∧
        (d.port p).cues = insertCue c' (dropCue m (s.port p).cues) ∧
        d.field m 50 2 = c'.revision % 65536 ∧ d.field m 52 4 = c'.due % 4294967296 ∧ d.slotState m = s.slotState m ∧ d.attn = s.attn ||| 1 ∧
        d = { s.intakeOf d with ports := d.ports } ∧ ∀ q, q ≠ p → d.port q = s.port q) ∧
      (late → c.interval = 0 → left c = some 1 → c.lastFired = none → ∃ d : Device, exec .amend s = .next { s with toDevice := d } ∧ done d ∧
        (d.port p).cues = dropCue m (s.port p).cues ∧ d.slotState m = stMissed ∧ d.field m 48 1 = (if (s.port p).state.joined then 0x0B else 0x0C) ∧
        d.field m 52 4 = c'.due % 4294967296 ∧ m ∉ d.prot ∧ d.attn = s.attn ||| 1 ∧ d = { s.intakeOf d with ports := d.ports } ∧
        ∀ q, q ≠ p → d.port q = s.port q)) ∧
    (∀ c, s.heldAt m = some (.global, c) → m ≠ n → fits c →
      let due := s.resolve (s.field n 20 1) (s.field n 24 4) s.globalRef
      let low : Bool := decide (s.planner.transport ≠ .stopped) && decide (due < s.firstSoft)
      let c' := { c with
        due := if low then s.firstSoft else due, mark := none, left := left c, revision := revision c, flags := { c.flags with moved := c.flags.moved || low } }
      let alone := s.planner.transport = .stopped ∨ ∀ x ∈ dropCue m s.globals, s.firstSoft ≤ x.due
      ∃ d : Device, exec .amend s = .next { s with toDevice := d } ∧ done d ∧ (∃ flags, { c' with flags := flags } ∈ d.globals) ∧
        (s.planner.transport ≠ .stopped → ∀ x ∈ d.globals, s.firstSoft ≤ x.due) ∧
        d.field m 50 2 = c'.revision % 65536 ∧ d.field m 52 4 = c'.due % 4294967296 ∧ d.slotState m = s.slotState m ∧
        (∀ h, s.planner.horizon = some h → ∀ e ∈ s.planner.plan, e.pi ≤ h → e ∈ d.planner.plan) ∧
        (alone → s.reachesTail c.due = false → s.reachesTail c'.due = false →
          d.globals = insertCue c' (dropCue m s.globals) ∧ d = { s.intakeOf d with globals := d.globals } ∧ d.attn = s.attn ||| 1) ∧
        (s.reachesTail c.due = true ∨ s.reachesTail c'.due = true → s.planner.transport ≠ .stopped → s.planner.opening.isSome = true →
          (∀ z h, s.planner.latched = some z → s.planner.horizon = some h → h < z) → ∃ l, s.Replanned d l ∧ d.TakesEffect c' l))

/-- R108, R76: a REPORT writes into its own payload the number of indices and up to 15 slot indices of the named list in fire order, FFFFh beyond, and ends DONE with the full count as aux. -/
def Obligations.Report : Prop :=
  ∀ (s : State) (n : Nat) (slots : List Nat), s.NextTake .report n → s.validate n = none →
    slots = (match portOf (s.field n 16 1) with
      | some p => (s.port p).step.queue.map (·.cue.slot) ++ (s.port p).cues.map (·.slot)
      | none => s.globals.map (·.slot)) →
    ∃ d : Device, exec .report s = .next { s with toDevice := d } ∧
      d.Shows n stDone { reason := .none, flags := CueFlags.clear, revision := 1, firePI := s.currentPI, fireTime := timeLow32 s.time, fired := 0, aux := slots.length } ∧
      d.field n 17 1 = Nat.min 15 slots.length ∧
      (∀ i, i < 15 → d.field n (18 + 2 * i) 2 = (match slots[i]? with | some k => k % 65536 | none => 0xFFFF)) ∧
      s.SameBytes d (fun a => endBytes n a ∨ (slotBase n + 17 ≤ a ∧ a < slotBase n + 48)) ∧ s.Taken d ∧ d = s.intakeOf d ∧ d.attn = s.attn ||| 1

/-- R77, R88, R110: a PORT SETUP in INIT applies exactly the selected fields, clamped, and ends DONE; the port's state and every other port stay. -/
def Obligations.PortSetupInInit : Prop :=
  ∀ (s : State) (n : Nat) (p : PortIx), s.NextTake .portSetup n → s.validate n = none → s.portByte n = p.val → s.mode = .init →
    let on : Nat → Bool := fun i => (s.field n 16 2).testBit i
    ∃ d : Device, exec .portSetup s = .next { s with toDevice := d } ∧
      s.TakeEnds d n stDone
        { reason := .none, flags := CueFlags.ofClamped ((on 1 && decide (250000 < s.field n 20 4)) || (on 4 && decide (8 < s.field n 25 1)) ||
            (on 8 && (decide (s.field n 29 1 < 4) || decide (40 < s.field n 29 1)))),
          revision := 1, firePI := s.currentPI, fireTime := timeLow32 s.time, fired := 0, aux := 0 } ∧
      (d.port p).settings =
        { kind := if on 0 then PortKind.ofCode (s.field n 18 1) else (s.port p).settings.kind
          latency := if on 1 then (if 250000 < s.field n 20 4 then 250000 else s.field n 20 4) else (s.port p).settings.latency
          division := if on 2 then s.field n 19 1 else (s.port p).settings.division
          join := if on 3 then JoinSetting.ofCode (s.field n 24 1) else (s.port p).settings.join
          settle := if on 4 then (if 8 < s.field n 25 1 then 8 else s.field n 25 1) else (s.port p).settings.settle
          rejoinHost := if on 5 then s.field n 26 1 == 1 else (s.port p).settings.rejoinHost
          mask := if on 6 then s.field n 27 1 == 1 else (s.port p).settings.mask
          negative := if on 7 then s.field n 28 1 == 1 else (s.port p).settings.negative
          frame := if on 8 then (if s.field n 29 1 < 4 then 4 else if 40 < s.field n 29 1 then 40 else s.field n 29 1) else (s.port p).settings.frame } ∧
      (d.port p).state = (s.port p).state ∧ (d.port p).presence = (s.port p).presence ∧ (d.port p).cursor = (s.port p).cursor ∧ (d.port p).cues = (s.port p).cues ∧
      (∀ q, q ≠ p → d.port q = s.port q) ∧ d = { s.intakeOf d with ports := d.ports } ∧ d.attn = s.attn ||| 1

/-- R110, Table 7-2, R112, R119: outside INIT a PORT SETUP acts on the port's state by the first row that holds; a change of kind latches PORT from any state that passes through DETACHED. A join setting that changes while the port is ACQUIRING chooses the join pulse anew, at or above the present one. -/
def Obligations.PortSetupActsOnState : Prop :=
  ∀ (s : State) (n : Nat) (p : PortIx), s.NextTake .portSetup n → s.validate n = none → s.portByte n = p.val → s.mode ≠ .init →
    let old := (s.port p).settings
    let new := s.newSettings n old
    ∃ d : Device, exec .portSetup s = .next { s with toDevice := d } ∧
      d.Shows n stDone { reason := .none, flags := CueFlags.ofClamped (s.setupClamped n), revision := 1, firePI := s.currentPI, fireTime := timeLow32 s.time, fired := 0, aux := 0 } ∧
      (d.port p).settings = new ∧
      (old.kind ≠ new.kind → (s.port p).state = .faulted → new.mask = true → (d.port p).state = .faulted) ∧
      (old.kind ≠ new.kind → ¬ ((s.port p).state = .faulted ∧ new.mask = true) →
        (d.port p).state = entryOf new (s.port p).presence ∧ d.attn.getLsbD 1 = true) ∧
      (old.kind = new.kind → old.mask = true → new.mask = false → (d.port p).state = entryOf new (s.port p).presence) ∧
      (old.kind = new.kind → old.mask = false → new.mask = true → (s.port p).state ≠ .faulted → (d.port p).state = .idle) ∧
      (old.kind = new.kind → old.mask = new.mask → old.latency ≠ new.latency → (s.port p).state.joined = true →
        if new.kind = .level then (d.port p).state = (s.port p).state ∧ d.attn.getLsbD 1 = true else (d.port p).state = .acquiring) ∧
      (old.kind = new.kind → old.mask = new.mask → (old.latency = new.latency ∨ (s.port p).state.joined = false) → (d.port p).state = (s.port p).state) ∧
      (∀ j r e, old.kind = new.kind → old.mask = new.mask → old.latency = new.latency → old.join ≠ new.join → (s.port p).state = .acquiring →
        (s.port p).join = some j → s.planner.cursor = some r → s.planner.transport ≠ .stopped → s.extendDue = false →
        FirstOf (new.Candidate s.time (Nat.max j (Nat.max (s.port p).cursor r))) s.planner.plan e → (d.port p).join = some e.pi ∧ (d.port p).cursor = e.pi) ∧
      (∀ q, q ≠ p → (d.port q).state = (s.port q).state ∧ (d.port q).settings = (s.port q).settings) ∧
      d.time = s.time ∧ d.follower = s.follower ∧ d.mode = s.mode ∧ d.service = s.service ∧ d.house = s.house

/-- R52, R53, R55: a FOLLOW SETUP replaces the five fields, clamped, and acts on the follower by the four cases; a change of state latches FOLLOW. The plan does not change. -/
def Obligations.FollowSetup : Prop :=
  ∀ (s : State) (n : Nat), s.NextTake .followSetup n → s.validate n = none →
    let off : Int := (BitVec.ofNat 32 (s.field n 18 4)).toInt
    let g : Follower := { s.follower with
      follow := s.field n 16 1 == 1, source := if s.field n 17 1 = 1 then .bsb else .bsa, offset := if off < -100000 then -100000 else if 0 < off then 0 else off,
      gt := if 16 < s.field n 22 1 then 16 else s.field n 22 1, gp := if 16 < s.field n 23 1 then 16 else s.field n 23 1 }
    let cleared : Follower := { g with marks := [], period := none, lastMark := none, rejects := 0, wide := false, lastE := 0 }
    ∃ d : Device, exec .followSetup s = .next { s with toDevice := d } ∧
      s.TakeEnds d n stDone
        { reason := .none, flags := CueFlags.ofClamped (g.offset != off || decide (16 < s.field n 22 1) || decide (16 < s.field n 23 1)),
          revision := 1, firePI := s.currentPI, fireTime := timeLow32 s.time, fired := 0, aux := 0 } ∧
      (g.follow = false → d.follower = { cleared with state := .off, prevTaken := none }) ∧
      (g.follow = true → s.follower.state = .off → d.follower = { cleared with state := .seeking, prevTaken := none }) ∧
      (g.follow = true → s.follower.state ≠ .off → s.follower.source ≠ g.source → d.follower = { cleared with state := .seeking, prevTaken := none }) ∧
      (g.follow = true → s.follower.state ≠ .off → s.follower.source = g.source → s.follower.offset ≠ g.offset → d.follower = { cleared with state := .seeking }) ∧
      (g.follow = true → s.follower.state ≠ .off → s.follower.source = g.source → s.follower.offset = g.offset → d.follower = g) ∧
      (d.follower.state ≠ s.follower.state → d.attn = s.attn ||| 5 ∧ d.writer.isSome = true) ∧
      (d.follower.state = s.follower.state → d.attn = s.attn ||| 1 ∧ d.writer = s.advance.writer) ∧
      d = { (s.intakeOf d).requestOf d with follower := d.follower }

/-- R170: a SUPERVISE replaces service mode, period and carry limit, clamped, and ends DONE; the period under way, the carry timer and all else stay. -/
def Obligations.Supervise : Prop :=
  ∀ (s : State) (n : Nat), s.NextTake .supervise n → s.validate n = none →
    ∃ d : Device, exec .supervise s = .next { s with toDevice := d } ∧
      s.TakeEnds d n stDone
        { reason := .none, flags := CueFlags.ofClamped (decide (s.field n 18 1 < 1) || decide (60 < s.field n 18 1)),
          revision := 1, firePI := s.currentPI, fireTime := timeLow32 s.time, fired := 0, aux := 0 } ∧
      d.service.window = (s.field n 16 1 == 1) ∧
      [(0, 100000), (1, 200000), (2, 500000), (3, 1000000), (4, 2000000)].contains (s.field n 17 1, d.service.period) = true ∧
      (d.service.carryLimit = if s.field n 18 1 < 1 then 1 else if 60 < s.field n 18 1 then 60 else s.field n 18 1) ∧
      d = { s.intakeOf d with service := { s.service with window := d.service.window, period := d.service.period, carryLimit := d.service.carryLimit } } ∧
      d.attn = s.attn ||| 1

/-- R173: a KEEP becomes the pending one and ends DONE; the host's landed write of FREE to its slot gives the request to the flag, and one of POSTED drops it. -/
def Obligations.Keep : Prop :=
  (∀ (s : State) (n : Nat), s.NextTake .keep n → s.validate n = none →
    ∃ d : Device, exec .keep s = .next { s with toDevice := d } ∧
      s.TakeEnds d n stDone { reason := .none, flags := CueFlags.clear, revision := 1, firePI := s.currentPI, fireTime := timeLow32 s.time, fired := 0, aux := 0 } ∧
      d = { s.intakeOf d with keepPending := some (s.field n 16 1 == 1, n) } ∧ d.attn = s.attn ||| 1) ∧
  ∀ (size : AccessSize) (addr data : Word) (s : State) (v : Bool), regionOf (hostOffset size addr) = .cueSlots → slotOf (hostOffset size addr) ∉ s.prot → s.MemOk →
    s.ahead = 0 → hostOffset size addr % 64 = 0 → s.keepPending = some (v, slotOf (hostOffset size addr)) →
    ∃ d : Device, exec (.hostSlotWrite size addr data) s = .next { s with toDevice := d } ∧
      (wordByte data 0 = 0 → d.keep = v ∧ d.keepPending = none) ∧ (wordByte data 0 = 1 → d.keep = s.keep ∧ d.keepPending = none)

/-! ## The timeline -/

/-- R24, R21, R18, R2, R3, R6, R45, R22: the segment value of a pulse; the period used, from segment value, spread share and nudge unit, clamped, share and unit being spent; the instant of a pulse that follows another; its flags and counts; the METER cues that take effect at a bar start, and the segment that the TEMPO cues due there open while the follower is OFF. -/
def Obligations.PulsePlanned : Prop :=
  (∀ (g : Segment) (k : Nat),
    (k ≤ g.start → g.value k = g.p0) ∧
    (g.start < k → k ≤ g.start + g.len → ((g.value k : Nat) : Int) = (g.p0 : Int) + ((((g.p1 : Int) - g.p0) * ((k - g.start : Nat) : Int)).tdiv g.len)) ∧
    (g.start + g.len < k → g.value k = g.p1)) ∧
  (∀ (d : Device) (b : PlanBase) (i : Instant), b.prev = some i →
    let at' := (b.withPending d.planner d.firstSoft).snap
    let e := d.buildEntry b
    let share : Int := match at'.spread with | none => 0 | some x => if x.count ≤ 1 then x.share + x.rem else x.share
    let unit : Int := if 0 < at'.balance then ((e.segValue / 8 : Nat) : Int) else if at'.balance < 0 then -((e.segValue / 8 : Nat) : Int) else 0
    let sum : Int := (e.segValue : Int) + share + unit
    e.pi = b.pi ∧ e.instant = i + BitVec.ofNat 64 e.period ∧
      (sum < 136533333 → e.period = 136533333) ∧ (1024000000 < sum → e.period = 1024000000) ∧
      (136533333 ≤ sum → sum ≤ 1024000000 → (e.period : Int) = sum) ∧
      (e.snap.spread = match at'.spread with | none => none | some x => if x.count ≤ 1 then none else some { x with count := x.count - 1 }) ∧
      e.snap.balance = if 0 < at'.balance then at'.balance - 1 else if at'.balance < 0 then at'.balance + 1 else 0) ∧
  ∀ (d : Device) (b : PlanBase),
    let at' := (b.withPending d.planner d.firstSoft).snap
    let e := d.buildEntry b
    let barBefore := b.snap.origin ≤ b.pi ∧ (b.pi - b.snap.origin) % (b.snap.meter * 96) = 0
    let meters := d.globals.filter fun c => c.isMeter && decide (c.due ≤ b.pi) && !(d.planner.plan.any fun x => decide (d.firstSoft ≤ x.pi) && x.applied.contains c.slot)
    let tempos := d.globals.filter fun c => c.isTempo && c.due == b.pi
    (e.beatStart = true ↔ b.pi % 96 = 0) ∧ (e.barStart = true ↔ e.snap.origin ≤ b.pi ∧ (b.pi - e.snap.origin) % (e.snap.meter * 96) = 0) ∧
    (b.fixedCounts = false → (e.barStart = true → e.bar = b.bar + 1 ∧ e.beat = 1) ∧ (e.barStart = false → e.beatStart = true → e.bar = b.bar ∧ e.beat = b.beat + 1) ∧
      (e.barStart = false → e.beatStart = false → e.bar = b.bar ∧ e.beat = b.beat)) ∧
    (¬ barBefore ∨ meters = [] → e.snap.meter = b.snap.meter ∧ e.snap.origin = b.snap.origin) ∧
    (∀ l c beats, barBefore → meters = l ++ [c] → c.body = .meter beats → e.snap.meter = beats ∧ e.snap.origin = b.pi ∧ ∀ x ∈ meters, x.slot ∈ e.applied) ∧
    (e.segValue = at'.seg.value b.pi) ∧ (d.follower.state ≠ .off ∨ tempos = [] → e.snap.seg = { at'.seg with k := Nat.min (b.pi - at'.seg.start) at'.seg.len }) ∧
    (∀ l c target ramp, d.follower.state = .off → tempos = l ++ [c] → c.body = .tempo target ramp →
      e.snap.seg = { start := b.pi, p0 := at'.seg.value b.pi, p1 := target, len := ramp, k := 0 } ∧ (∀ x ∈ tempos, x.slot ∈ e.applied) ∧ e.passed = []) ∧
    (d.follower.state ≠ .off → e.passed = tempos.map (·.slot))

/-- R34, R31, R32, R13: the plan is extended while its tail lies below the limit: entries are appended at the tail, each the one planned after the entry before it, and nothing else of the timeline changes but for a stop pulse that is planned. -/
def Obligations.PlanExtension : Prop :=
  ∀ s : State,
    (s.extendDue = true ↔ s.planner.transport ≠ .stopped ∧ ∀ e, s.planner.plan.getLast? = some e →
      (∀ k, s.planner.latched = some k → e.pi < k) ∧ instDiff e.instant (timeInstant (timePlus s.time (s.lmax + 8000))) < 0) ∧
    (s.extendDue = false → exec .planExtension s = .next s) ∧
    (s.extendDue = true → ∃ (d : Device) (l : List PlanEntry), exec .planExtension s = .next { s with toDevice := d } ∧
      d.planner.plan = s.planner.plan ++ l ∧ (s.planBase.isSome = true → l ≠ [] ∧ (d.extendDue = false ∨ l.length = 256)) ∧
      (∀ l1 e f l2, d.planner.plan = l1 ++ e :: f :: l2 → s.planner.plan.length ≤ l1.length + 1 → e.Follows f) ∧
      (∀ e ∈ l, e.stop = true → d.planner.latched = some e.pi ∧ d.planner.transport = .stopping) ∧
      ((∀ e ∈ l, e.stop = false) → d.planner.latched = s.planner.latched ∧ d.planner.transport = s.planner.transport) ∧
      d.planner.horizon = s.planner.horizon ∧ d.planner.cursor = s.planner.cursor ∧ d.planner.anchor = s.planner.anchor ∧
      d.planner.history = s.planner.history ∧ d.time = s.time ∧ d.follower = s.follower ∧ d.mode = s.mode ∧ d.service = s.service ∧ d.house = s.house)

/-- R36, R37, R38, R39, R162, R98: the reference cursor reaches the head of the plan once its instant has come, and never before: the entry becomes the anchor, a beat start enters the history and requests a status write, and the commit horizon covers the pulse. A cue due by then at a port that takes no part in the timeline is missed with reason DETACHED and leaves its list; so does one at an ACQUIRING port of latency 0 whose reach of the same pulse has not been taken before, and that port then joins with the cue gone. That it joins within this command, before the pulse is retired, is the model's inference (log 23). -/
def Obligations.CursorReach : Prop :=
  ∀ s : State,
    (∀ e, s.cursorReachDue = some e ↔ s.planner.transport ≠ .stopped ∧ s.planner.plan.head? = some e ∧ s.planner.cursor = some e.pi ∧
      0 ≤ timeDiff s.time (instantTime e.instant)) ∧
    (s.cursorReachDue = none → exec .referenceCursorReach s = .next s) ∧
    (∀ p c k, s.MemOk → s.arbiter = [] → (s.port p).state.joined = false → (s.port p).cues = [c] → c.slot < 512 → c.due ≤ k → c.interval = 0 →
      c.left = some 1 → c.lastFired = none →
      (Device.missPort k s.toDevice p).Shows c.slot stMissed
          { reason := .detached, flags := c.flags, revision := c.revision, firePI := c.due, fireTime := timeLow32 s.time, fired := c.fired, aux := c.aux } ∧
        ((Device.missPort k s.toDevice p).port p).cues = []) ∧
    (∀ e, s.cursorReachDue = some e → s.planner.latched ≠ some e.pi → ∃ d : Device, exec .referenceCursorReach s = .next { s with toDevice := d } ∧
      d.planner.cursor = some (e.pi + 1) ∧ d.planner.anchor = some e ∧ d.planner.plan = s.planner.plan.tail ∧
      (d.planner.history = if e.beatStart then (s.planner.history ++ [e.instant]).drop (s.planner.history.length - 3) else s.planner.history) ∧
      (d.planner.horizon = match s.planner.horizon with | some c => some (Nat.max c e.pi) | none => some e.pi) ∧
      (e.beatStart = true → d.writer.isSome = true) ∧ d.planner.transport = s.planner.transport ∧ d.planner.latched = s.planner.latched ∧
      (∀ p c, (s.port p).state.counts = false → (s.port p).cues = [c] → c.due ≤ e.pi → c.interval = 0 → c.left = some 1 → (d.port p).cues = []) ∧
      (∀ p c, (s.port p).settings.latency = 0 → (s.port p).state = .acquiring → (s.port p).join = some e.pi → (s.port p).cues = [c] → c.due ≤ e.pi →
        c.interval = 0 → c.left = some 1 →
        (d.port p).cues = [] ∧ (d.port p).cursor = e.pi + 1 ∧ (d.port p).state = if (s.port p).settings.settle = 0 then .locked else .settling) ∧
      d.time = s.time ∧ d.follower = s.follower ∧ d.mode = s.mode ∧ d.service = s.service ∧ d.house = s.house)

/-- R14, R9, R122, R130: the reference cursor retires the latched stop pulse, and the run ends: STOPPED with the stop pulse's position, period, meter and origin held, the plan emptied, no STOP cue left, every cursor above the stop pulse. That the last reached pulse of a port away from LOCKED is cleared with the others is the model's choice (log 46). -/
def Obligations.RunEnd : Prop :=
  ∀ (s : State) (e : PlanEntry), s.cursorReachDue = some e → s.planner.latched = some e.pi →
    ∃ d : Device, exec .referenceCursorReach s = .next { s with toDevice := d } ∧
      d.planner.transport = .stopped ∧ d.planner.stopped = some { pi := e.pi, bar := e.bar, beat := e.beat } ∧
      d.planner.heldPeriod = e.segValue ∧ d.planner.heldMeter = e.snap.meter ∧ d.planner.heldOrigin = e.snap.origin ∧
      d.planner.plan = [] ∧ d.planner.anchor = none ∧ d.planner.latched = none ∧ d.planner.cursor = none ∧ d.planner.horizon = none ∧
      (d.planner.history = if e.beatStart then (s.planner.history ++ [e.instant]).drop (s.planner.history.length - 3) else s.planner.history) ∧
      (∀ c ∈ d.globals, c.body ≠ .stop) ∧ d.attn.getLsbD 5 = true ∧ d.writer.isSome = true ∧
      (∀ p, (d.port p).cursor = e.pi + 1 ∧ (d.port p).resume = none ∧ (d.port p).mixer.reached = none ∧
        ((d.port p).state = .acquiring → (d.port p).join = none)) ∧
      d.time = s.time ∧ d.follower = s.follower ∧ d.mode = s.mode ∧ d.service = s.service ∧ d.house = s.house

/-- R39, R48, R45, R6: the commit horizon rises through one entry: its applied cues end FIRED with that pulse and the present time, SUPERSEDED if the entry applied another TEMPO after a TEMPO, or another METER after a METER; those it passed over end MISSED with reason FOLLOWING; both leave the global list, and other global cues stay. A horizon that does not rise changes nothing. -/
def Obligations.HorizonHardens : Prop :=
  ∀ (d : Device) (k : Nat) (e : PlanEntry),
    (d.risesTo k = true ↔ d.planner.transport ≠ .stopped ∧ ∀ c, d.planner.horizon = some c → c < k) ∧
    (d.risesTo k = false → d.raiseHorizon k = d) ∧
    (d.risesTo k = true → d.MemOk → d.arbiter = [] → (d.softEntries.filter fun x => decide (x.pi ≤ k)) = [e] → (d.globals.map (·.slot)).Nodup →
      (∀ c ∈ d.globals, c.slot < 512) → (∀ n ∈ e.applied, n ∉ e.passed) →
      (d.raiseHorizon k).planner.horizon = some k ∧ (d.raiseHorizon k).planner.plan = d.planner.plan ∧
      (d.raiseHorizon k).globals = d.globals.filter (fun c => decide (c.slot ∉ e.applied) && decide (c.slot ∉ e.passed)) ∧
      (∀ c ∈ d.globals, c.slot ∈ e.applied → (d.raiseHorizon k).slotState c.slot = stFired ∧ (d.raiseHorizon k).field c.slot 48 1 = 0 ∧
        (d.raiseHorizon k).field c.slot 52 4 = e.pi % 4294967296 ∧ (d.raiseHorizon k).field c.slot 56 4 = timeLow32 d.time) ∧
      (∀ c l1 l2, c ∈ d.globals → e.applied.Nodup → e.applied = l1 ++ c.slot :: l2 → (d.raiseHorizon k).field c.slot 49 1 =
        ({ c.flags with
            superseded := c.flags.superseded ||
              d.globals.any fun x => decide (x.slot ∈ l2) && ((c.isTempo && x.isTempo) || (c.isMeter && x.isMeter)) } : CueFlags).toByte) ∧
      (∀ c ∈ d.globals, c.slot ∈ e.passed → (d.raiseHorizon k).slotState c.slot = stMissed ∧ (d.raiseHorizon k).field c.slot 48 1 = 8 ∧
        (d.raiseHorizon k).field c.slot 52 4 = e.pi % 4294967296 ∧ (d.raiseHorizon k).field c.slot 56 4 = timeLow32 d.time))

/-- R117, R39, R127 to R129, R133, R138, R146: a LOCKED port with nothing in its list, or one that stays SETTLING, reaches its cursor pulse once its due time has come, and never before. Its reach raises the commit horizon, and it emits its kind's traffic: a LEVEL port moves its fade, a CLOCK port drives an edge at a division boundary, lets RUN rise at the join pulse to stay high, and lets it fall at the stop pulse, a STEP port sends BAR, BEAT or TICK at a boundary and STOP at the stop pulse, and the head SEND of its queue is given its release, but not while an ABORT is owed or on the line (R140). -/
def Obligations.PortReachEmits : Prop :=
  ∀ (s : State) (p : PortIx),
    (s.portReachDue p = none → exec (.portReach p) s = .next s) ∧
    (∀ e, s.portReachDue p = some e → 0 ≤ timeDiff s.time (timeMinus (instantTime e.instant) (s.port p).settings.latency)) ∧
    (∀ e, s.portReachDue p = some e → ((s.port p).state = .locked ∨ ((s.port p).state = .settling ∧ ∃ k, (s.port p).settleEnd = some k ∧ e.pi < k)) →
      (s.port p).cues = [] → s.Quiet →
      ∃ d : Device, exec (.portReach p) s = .next { s with toDevice := d } ∧ (d.port p).cursor = e.pi + 1 ∧ (∀ q, q ≠ p → d.port q = s.port q) ∧
        d.planner = (s.raiseHorizon e.pi).planner ∧ d.globals = (s.raiseHorizon e.pi).globals ∧ d.mem = (s.raiseHorizon e.pi).mem ∧
        (s.risesTo e.pi = true → d.planner.horizon = some e.pi) ∧
        ((s.port p).step.queue = [] → (s.port p).settings.kind = .level → d = (s.raiseHorizon e.pi).setPort p { s.port p with cursor := e.pi + 1, mixer := { (s.port p).mixer with
          pos := Nat.min (s.port p).mixer.len (e.pi - (s.port p).mixer.start), reached := some e.pi } }) ∧
        ((s.port p).step.queue = [] → (s.port p).settings.kind = .clock → (s.port p).run = .run → (s.port p).resume = none → (s.port p).clock.form = .none →
          (s.port p).clock.waiting = [] → (s.port p).clock.phase = .rest →
          let edge : Bool := e.pi % (s.port p).settings.division == 0
          d = (s.raiseHorizon e.pi).setPort p { s.port p with cursor := e.pi + 1, clock := { (s.port p).clock with
            phase := if edge then .active (timePlus s.time (Nat.min 1000 ((s.port p).settings.division * e.period / 65536 / 2))) else .rest
            wireB := if e.stop && !edge then false else (s.port p).clock.wireB
            fallOwed := if e.stop && edge then true else (s.port p).clock.fallOwed } }) ∧
        ((s.port p).settings.kind = .clock → (s.port p).run = .run → (s.port p).resume = none → (s.port p).clock.form = .ready e.pi → e.stop = false →
          (d.port p).clock.wireB = true ∧ (d.port p).clock.form = .none ∧ (d.port p).clock.fallOwed = false) ∧
        ((s.port p).settings.kind = .step → (s.port p).run = .run → (s.port p).resume = none → (s.port p).step.form = .none →
          (s.port p).step.timing = [] → (s.port p).step.line = none → (s.port p).step.owed = [] → (s.port p).step.queue = [] →
          let codes : List (BitVec 9) := (if e.pi % (s.port p).settings.division = 0 then
            [if e.barStart then 0x103 else if e.beatStart then 0x102 else 0x101] else []) ++ (if e.stop then [0x111] else [])
          ((d.port p).step.line.map (·.code)).toList ++ (d.port p).step.timing.map (·.code) = codes ∧
            (∀ l, (d.port p).step.line = some l → l.ends = timePlus s.time 110)) ∧
        (∀ f rest, (s.port p).settings.kind = .step → (s.port p).step.line.isSome = true → (s.port p).step.queue = f :: rest →
          let counts := ¬ (0x13F ∈ (s.port p).step.owed ∨ ∃ l, (s.port p).step.line = some l ∧ l.code = 0x13F) ∧
            ((f.cue.body.pacing = .perBeat ∧ e.beatStart = true) ∨ (f.cue.body.pacing = .perTick ∧ e.pi % (s.port p).settings.division = 0))
          (counts → (d.port p).step.queue = { f with releases := Nat.min (f.releases + 1) f.framesLeft } :: rest) ∧ (¬ counts → (d.port p).step.queue = f :: rest)))

/-- R120, R94, R97, R112: an ACQUIRING port reaches its join pulse j: it joins there, SETTLING until j + 96 × N or LOCKED at once with N = 0; a SETTLING port becomes LOCKED as it reaches its settle end, with cause PORT, and else stays, its due cues deferred with the join as their mark. -/
def Obligations.PortReachJoins : Prop :=
  ∀ (s : State) (p : PortIx) (e : PlanEntry), s.portReachDue p = some e →
    ((s.port p).state = .acquiring → ∃ d : Device, exec (.portReach p) s = .next { s with toDevice := d } ∧ (s.port p).join = some e.pi ∧
      (d.port p).cursor = e.pi + 1 ∧ (d.port p).join = some e.pi ∧ (d.port p).settleEnd = some (e.pi + 96 * (s.port p).settings.settle) ∧
      ((s.port p).settings.settle ≠ 0 → (d.port p).state = .settling ∧ (d.port p).cues = (s.port p).cues.map fun c => { c with mark := some e.pi }) ∧
      ((s.port p).settings.settle = 0 → (d.port p).state = .locked ∧ d.attn.getLsbD 1 = true) ∧ d.writer.isSome = true ∧
      (d.planner.horizon = match s.planner.horizon with | some c => some (Nat.max c e.pi) | none => some e.pi)) ∧
    ((s.port p).state = .settling → ∃ d : Device, exec (.portReach p) s = .next { s with toDevice := d } ∧ (d.port p).cursor = e.pi + 1 ∧
      (∀ k, (s.port p).settleEnd = some k → k ≤ e.pi → (d.port p).state = .locked ∧ d.attn.getLsbD 1 = true ∧ d.writer.isSome = true) ∧
      (∀ k, (s.port p).settleEnd = some k → e.pi < k → (d.port p).state = .settling ∧
        (d.port p).cues = (s.port p).cues.map fun c => if c.due ≤ e.pi ∧ c.mark = none then { c with mark := (s.port p).join } else c) ∧
      (d.planner.horizon = match s.planner.horizon with | some c => some (Nat.max c e.pi) | none => some e.pi))

/-- R97, R99, R101, R130, R148, R136, R100: a LOCKED port reaches a pulse at or above the due PI of the one cue of its list. Within its grace the cue fires there, LATE if it was due lower: a SCENE sets the mixer, a PORT RUN the run state, with STOP queued at a STEP port that halts and its resume form withdrawn if its boundary lies above the pulse, a SEND enters the message queue and stays HELD. Beyond its grace the attempt is skipped. A cue whose attempts are used up ends, FIRED if an attempt of it fired and else MISSED; a repeating one is re-armed a repeat interval higher and stays HELD. Of two SCENEs, or two PORT RUNs, that fire at one reach the first is SUPERSEDED and the second acts on what the first left. -/
def Obligations.Dispatch : Prop :=
  (∀ (s : State) (p : PortIx) (e : PlanEntry) (c : Cue), s.Quiet → s.portReachDue p = some e → (s.port p).state = .locked → (s.port p).cues = [c] → c.due ≤ e.pi →
    c.slot < 512 → s.MemOk → s.risesTo e.pi = false → c.interval = 0 → c.left = some 1 → c.lastFired = none →
    let within := s.withinGrace c.grace (e.pi - c.due)
    let flags : CueFlags := { c.flags with late := c.flags.late || decide (c.due < e.pi) }
    ∃ d : Device, exec (.portReach p) s = .next { s with toDevice := d } ∧ (d.port p).cues = [] ∧ (d.port p).cursor = e.pi + 1 ∧
      (∀ n fade m first last, within = true → c.body = .scene n fade m first last → (s.port p).settings.kind = .level →
        d.Shows c.slot stFired { reason := .none, flags := flags, revision := c.revision, firePI := e.pi, fireTime := timeLow32 s.time, fired := satInc c.fired, aux := 0 } ∧
        (d.port p).mixer = { fromL := (s.port p).mixer.fade, toL := s.levelsAt (0x9000 + 192 * n), start := e.pi, len := fade, pos := 0,
                             modulator := m, first := first, last := last, reached := some e.pi }) ∧
      (∀ action, within = true → c.body = .portRun action →
        d.Shows c.slot stFired { reason := .none, flags := flags, revision := c.revision, firePI := e.pi, fireTime := timeLow32 s.time, fired := satInc c.fired, aux := 0 } ∧
        (d.port p).run = action ∧ ((s.port p).settings.kind = .clock → (s.port p).run = .run → action = .halt →
          (d.port p).clock.wireB = false ∧ (d.port p).clock.waiting = []) ∧
        ((s.port p).settings.kind = .step → (s.port p).run = .run → action = .halt → (s.port p).step.line.isSome = true → (s.port p).step.timing.length < 16 →
          ((s.port p).resume = none ∨ (∃ b, (s.port p).resume = some b ∧ b ≤ e.pi ∧ (s.port p).step.resumeQueued = true) →
            (d.port p).resume = none ∧ (d.port p).step.timing.map (·.code) = (s.port p).step.timing.map (·.code) ++ [0x111]) ∧
          (∀ b, (s.port p).resume = some b → e.pi < b → (∀ x, (s.port p).step.timing.head? = some x → x.posData = false) →
            (d.port p).resume = none ∧
            (d.port p).step.timing.map (·.code) = ((s.port p).step.timing.filter (·.source != .resumeForm)).map (·.code) ++ [0x111]))) ∧
      (∀ bulk offset len pacing chunk, within = true → c.body = .send bulk offset len pacing chunk → (s.port p).step.queue.length < 8 →
        (d.port p).step.queue.map (·.cue.slot) = (s.port p).step.queue.map (·.cue.slot) ++ [c.slot] ∧ d.slotState c.slot = s.slotState c.slot ∧
        d.field c.slot 52 4 = e.pi % 4294967296) ∧
      (∀ bulk offset len pacing chunk, within = true → c.body = .send bulk offset len pacing chunk → 8 ≤ (s.port p).step.queue.length →
        d.slotState c.slot = stMissed ∧ d.field c.slot 48 1 = 0x0E ∧ d.attn.getLsbD 4 = true) ∧
      (within = false →
        d.slotState c.slot = stMissed ∧ d.field c.slot 52 4 = c.due % 4294967296 ∧
        (d.field c.slot 48 1 = match c.mark with | some j => if j ≤ c.due then 0x0D else 0x0B | none => 0x0B))) ∧
  (∀ (s : State) (p : PortIx) (e : PlanEntry) (c : Cue), s.Quiet → s.portReachDue p = some e → (s.port p).state = .locked → (s.port p).cues = [c] → c.due ≤ e.pi →
    c.slot < 512 → s.MemOk → s.risesTo e.pi = false → c.interval ≠ 0 →
    let within := s.withinGrace c.grace (e.pi - c.due)
    let fires := within = true ∧ ∃ n fade m first last, c.body = .scene n fade m first last
    let next := c.due + c.interval * 96
    let mark := if (s.port p).state.joined then (s.port p).join else none
    let skip : Reason := match c.mark with | some j => if j ≤ c.due then .settling else .late | none => .late
    ∃ d : Device, exec (.portReach p) s = .next { s with toDevice := d } ∧ (d.port p).cursor = e.pi + 1 ∧
      (c.left ≠ some 0 → c.left ≠ some 1 → e.pi < next → next ≤ 4294967295 → fires →
        (d.port p).cues = [{ c with
          due := next, mark := mark, revision := if 65535 ≤ c.revision then 1 else c.revision + 1, left := c.left.map (· - 1),
          fired := satInc c.fired, lastFired := some (e.pi, s.time), flags := { c.flags with late := c.flags.late || decide (c.due < e.pi) } }] ∧
        d.field c.slot 52 4 = next % 4294967296 ∧ d.slotState c.slot = s.slotState c.slot) ∧
      (c.left ≠ some 0 → c.left ≠ some 1 → e.pi < next → next ≤ 4294967295 → within = false →
        (d.port p).cues = [{ c with
          due := next, mark := mark, revision := if 65535 ≤ c.revision then 1 else c.revision + 1, left := c.left.map (· - 1),
          skipped := satInc c.skipped, lastSkip := skip }] ∧
        d.field c.slot 52 4 = next % 4294967296 ∧ d.slotState c.slot = s.slotState c.slot) ∧
      (c.left = some 1 ∨ 4294967295 < next → fires → (d.port p).cues = [] ∧ d.slotState c.slot = stFired ∧ d.field c.slot 52 4 = e.pi % 4294967296 ∧
        d.field c.slot 60 2 = satInc c.fired % 65536 ∧ d.field c.slot 62 2 = c.skipped % 65536) ∧
      (∀ k t, c.left = some 1 ∨ 4294967295 < next → within = false → c.lastFired = some (k, t) →
        (d.port p).cues = [] ∧ d.slotState c.slot = stFired ∧ d.field c.slot 52 4 = k % 4294967296 ∧ d.field c.slot 56 4 = timeLow32 t)) ∧
  ∀ (s : State) (p : PortIx) (e : PlanEntry) (a b : Cue), s.Quiet → s.portReachDue p = some e → (s.port p).state = .locked → (s.port p).cues = [a, b] →
    a.due ≤ e.pi → b.due ≤ e.pi → a.slot ≠ b.slot → a.slot < 512 → b.slot < 512 → s.MemOk → s.risesTo e.pi = false →
    a.interval = 0 → b.interval = 0 → a.left = some 1 → b.left = some 1 →
    s.withinGrace a.grace (e.pi - a.due) = true → s.withinGrace b.grace (e.pi - b.due) = true →
    let flags : Cue → CueFlags := fun c => { c.flags with late := c.flags.late || decide (c.due < e.pi) }
    ∃ d : Device, exec (.portReach p) s = .next { s with toDevice := d } ∧
      ((∃ x y, a.body = .portRun x ∧ b.body = .portRun y) ∨
        ((s.port p).settings.kind = .level ∧ ∃ n fade m first last n' fade' m' first' last', a.body = .scene n fade m first last ∧ b.body = .scene n' fade' m' first' last') →
        (d.port p).cues = [] ∧
        d.Shows a.slot stFired { reason := .none, flags := { flags a with superseded := true }, revision := a.revision, firePI := e.pi, fireTime := timeLow32 s.time,
                                 fired := satInc a.fired, aux := 0 } ∧
        d.Shows b.slot stFired { reason := .none, flags := flags b, revision := b.revision, firePI := e.pi, fireTime := timeLow32 s.time, fired := satInc b.fired, aux := 0 }) ∧
      (∀ x y, a.body = .portRun x → b.body = .portRun y → (d.port p).run = y) ∧
      (∀ n fade m first last n' fade' m' first' last', (s.port p).settings.kind = .level →
        a.body = .scene n fade m first last → b.body = .scene n' fade' m' first' last' →
        (d.port p).mixer =
          { fromL := ({ fromL := (s.port p).mixer.fade, toL := s.levelsAt (0x9000 + 192 * n), start := e.pi, len := fade, pos := 0, modulator := m, first := first,
                        last := last, reached := (s.port p).mixer.reached } : Mixer).fade
            toL := s.levelsAt (0x9000 + 192 * n'), start := e.pi, len := fade', pos := 0, modulator := m', first := first', last := last', reached := some e.pi })

/-! ## The follower -/

/-- R50, R51, R56, R57, R58: a rising edge is ignored while the follower is OFF, on the other input, or within the debounce time; else it is taken. While SEEKING or HOLDING a mark joins the set; the fourth locks the follower if the train passes, and else pushes the oldest out. -/
def Obligations.BeatMarkCollected : Prop :=
  ∀ (input : BeatInput) (s : State),
    let tm := s.time + BitVec.ofInt 48 s.follower.offset
    let marks := s.follower.marks ++ [tm]
    let taken : Prop := s.follower.source = input ∧ ∀ t, s.follower.prevTaken = some t → 100000 ≤ timeDiff s.time t
    (s.follower.state = .off ∨ ¬ taken → exec (.beatMark input) s = .next s) ∧
    (taken → s.follower.state = .seeking ∨ s.follower.state = .holding →
      (marks.length < 4 → exec (.beatMark input) s = .next { s with toDevice :=
        { s.toDevice with follower := { s.follower with prevTaken := some s.time, marks := marks } } }) ∧
      (4 ≤ marks.length → trainLength marks = none → exec (.beatMark input) s = .next { s with toDevice :=
        { s.toDevice with follower := { s.follower with prevTaken := some s.time, marks := marks.tail } } }) ∧
      (∀ len, 4 ≤ marks.length → trainLength marks = some len → ∃ d : Device, exec (.beatMark input) s = .next { s with toDevice := d } ∧
        d.follower = { s.follower with prevTaken := some s.time, marks := [], period := some (intervalPeriod len 3), lastMark := some tm, rejects := 0,
                                       wide := true, state := .locked } ∧
        d.attn.getLsbD 2 = true ∧ d.writer.isSome = true ∧ d.planner.horizon = s.planner.horizon ∧
        (s.planner.transport = .stopped → d.planner = s.planner) ∧
        (s.planner.transport ≠ .stopped → d.planner.pendPeriod = some (intervalPeriod len 3) ∧ d.planner.pendSpread = s.planner.pendSpread) ∧
        (∀ c, s.planner.horizon = some c → ∀ e ∈ s.planner.plan, e.pi ≤ c → e ∈ d.planner.plan)))

/-- R59 to R64, R66: a mark taken while LOCKED. It is judged against the nearest beat start of history and plan (the earlier on a tie, one projected beyond the tail where none lies after the mark), or, while STOPPED, against the nearest predicted mark; the reference period is the segment value of entry C, of the run's first entry, or the follower's period. Beyond the window it is rejected, and the fourth rejection in a row enters HOLDING with FOLLOW_LOST; within it the mark is accepted: the period follows by Gt, the phase correction by Gp goes to the plan, and no hard entry changes. -/
def Obligations.BeatMarkJudged : Prop :=
  ∀ (input : BeatInput) (s : State),
    let tm := s.time + BitVec.ofInt 48 s.follower.offset
    let target := timeInstant tm
    let tb := s.referenceBeat tm
    let err := s.markError tm
    let pB := s.referencePeriod
    let width : Nat := if s.follower.wide then 2 else 4
    let known := s.planner.history ++ (s.planner.plan.filter (·.beatStart)).map (·.instant)
    let nearest : List Instant → Prop := fun l => ∃ l1 l2, l = l1 ++ tb :: l2 ∧ (∀ i ∈ l1, (instDiff tb target).natAbs < (instDiff i target).natAbs) ∧
      ∀ i ∈ l2, (instDiff tb target).natAbs ≤ (instDiff i target).natAbs
    (err = timeDiff tm (instantTime tb) ∧
      (s.planner.transport ≠ .stopped → (∃ i ∈ known, 0 < instDiff i target) → nearest known) ∧
      (∀ e, s.planner.transport ≠ .stopped → (∀ i ∈ known, ¬ 0 < instDiff i target) → s.planner.plan.getLast? = some e →
        nearest (known ++ [e.instant + BitVec.ofNat 64 ((96 - e.pi % 96) * e.segValue)])) ∧
      (∀ m q, s.planner.transport = .stopped → s.follower.lastMark = some m → s.follower.period = some q → 0 < q → q ≤ 1024000000 →
        0 ≤ instDiff target (timeInstant m) → ∃ k : Nat, tb = timeInstant m + BitVec.ofNat 64 (k * (96 * q)) ∧
          ∀ j : Nat, ((k * (96 * q) : Nat) - instDiff target (timeInstant m)).natAbs ≤ ((j * (96 * q) : Nat) - instDiff target (timeInstant m)).natAbs ∧
            (((k * (96 * q) : Nat) - instDiff target (timeInstant m)).natAbs = ((j * (96 * q) : Nat) - instDiff target (timeInstant m)).natAbs → k ≤ j)) ∧
      (∀ c e, s.planner.transport ≠ .stopped → s.planner.horizon = some c → s.entryAt c = some e → pB = e.segValue) ∧
      (∀ e, s.planner.transport ≠ .stopped → s.planner.horizon = none → s.planner.plan.head? = some e → pB = e.segValue) ∧
      (∀ q, s.planner.transport = .stopped → s.follower.period = some q → pB = q)) ∧
    (s.follower.state = .locked → s.follower.source = input → (∀ t, s.follower.prevTaken = some t → 100000 ≤ timeDiff s.time t) →
      (96 * pB < err.natAbs * 65536 * width → s.follower.rejects + 1 < 4 → exec (.beatMark input) s = .next { s with toDevice :=
        { s.toDevice with follower := { s.follower with prevTaken := some s.time, rejects := s.follower.rejects + 1, lastE := err } } }) ∧
      (96 * pB < err.natAbs * 65536 * width → 4 ≤ s.follower.rejects + 1 → ∃ d : Device, exec (.beatMark input) s = .next { s with toDevice := d } ∧
        d.follower = { s.follower with prevTaken := some s.time, rejects := 0, lastE := err, marks := [tm], state := .holding } ∧
        d.planner = s.planner ∧ d.attn = s.attn ||| 20 ∧ d.writer.isSome = true ∧
        (s.capture = none → d.capture = some { kind := .followLost, port := none, slot := none, pi := s.currentPI, time := s.time, more := 0 })) ∧
      (∀ m q, err.natAbs * 65536 * width ≤ 96 * pB → s.follower.lastMark = some m → s.follower.period = some q →
        let i := (timeDiff tm m).toNat
        let n := (2 * (i * 65536) + 96 * pB) / (2 * (96 * pB))
        let newP := if 1 ≤ n ∧ n ≤ 4 then clampPeriod ((q : Int) + ((((intervalPeriod i n : Nat) : Int) - q) * s.follower.gt).tdiv 16) else q
        ∃ d : Device, exec (.beatMark input) s = .next { s with toDevice := d } ∧
          d.follower = { s.follower with prevTaken := some s.time, rejects := 0, lastE := err, period := some newP, lastMark := some tm,
                                         wide := s.follower.wide && !decide (err.natAbs * 65536 * 16 < 96 * pB) } ∧
          d.planner.horizon = s.planner.horizon ∧ (s.planner.transport = .stopped → d = { s.toDevice with follower := d.follower }) ∧
          (s.planner.transport ≠ .stopped → d.planner.pendPeriod = some newP ∧
            d.planner.pendSpread = some (Spread.begin (Min.min (6 * (newP : Int)) (Max.max (-(6 * (newP : Int))) (err * 4096 * s.follower.gp))))) ∧
          (∀ c, s.planner.horizon = some c → ∀ e ∈ s.planner.plan, e.pi ≤ c → e ∈ d.planner.plan)))

/-- R28, R57: an interval of D µs over b beats converts with halves rounded up and is clamped to the period range; a set of four marks passes exactly when each interval lies in range and within 2% of the mean. -/
def Obligations.IntervalConversion : Prop :=
  (∀ us b : Nat, 1 ≤ b → ∃ r : Nat, 2 * (b * 96) * r ≤ 2 * (us * 65536) + b * 96 ∧ 2 * (us * 65536) + b * 96 < 2 * (b * 96) * (r + 1) ∧
    intervalPeriod us b = if r < 136533333 then 136533333 else if 1024000000 < r then 1024000000 else r) ∧
  (∀ (f : Follower) (len : Nat) (t : Time), (f.locked len t).period = some (intervalPeriod len 3)) ∧
  (∀ p n i : Nat, 1 ≤ n → n ≤ 4 → updatedPeriod p 16 n i = intervalPeriod i n) ∧
  ∀ t1 t2 t3 t4 : Time,
    let d := timeDiff t4 t1
    let passes : Int → Prop := fun i => 200000 ≤ i ∧ i ≤ 1500000 ∧ 50 * (3 * i - d).natAbs ≤ d.natAbs
    (passes (timeDiff t2 t1) ∧ passes (timeDiff t3 t2) ∧ passes (timeDiff t4 t3) → trainLength [t1, t2, t3, t4] = some d.toNat) ∧
    (¬ (passes (timeDiff t2 t1) ∧ passes (timeDiff t3 t2) ∧ passes (timeDiff t4 t3)) → trainLength [t1, t2, t3, t4] = none)

/-! ## Resolution -/

/-- R94, R8: a due PI by fire mode: NOW the reference point, AT_PULSE the value, GRID the smallest grid point at or above the reference point, at most the last PI. -/
def Obligations.Resolution : Prop :=
  ∀ (d : Device) (value ref : Nat),
    d.resolve 0 value ref = ref ∧ d.resolve 1 value ref = value ∧
    (1 ≤ value → ∃ k : Nat, ref ≤ k ∧ (((k : Int) - d.originInForce) % ((value * 96 : Nat) : Int) = 0) ∧
      (∀ j : Nat, ref ≤ j → ((j : Int) - d.originInForce) % ((value * 96 : Nat) : Int) = 0 → k ≤ j) ∧ d.resolve 2 value ref = Nat.min 4294967295 k) ∧
    (d.planner.transport = .stopped → (∀ r, d.planner.stopped = some r → r.pi < 4294967295 → d.originInForce = d.planner.heldOrigin) ∧
      (∀ r, d.planner.stopped = some r → 4294967295 ≤ r.pi → d.originInForce = 0) ∧ (d.planner.stopped = none → d.originInForce = 0)) ∧
    (d.planner.transport ≠ .stopped → (∀ c e, d.planner.horizon = some c → d.entryAt c = some e → d.originInForce = e.snap.origin) ∧
      (∀ e, d.planner.horizon = none → d.planner.plan.head? = some e → d.originInForce = e.snap.origin))

/-! ## Presence -/

/-- R113 to R116, R118, R121: a raw change restarts the wait; after 20,000 µs the level is recognized; a gain sends a DETACHED port to its entry state, where in a run a CLOCK or STEP port takes as join pulse the lowest boundary of its join setting, and a LEVEL port the lowest pulse, whose due time is still to come; a loss of a port on the timeline is recorded and leaves it DETACHED, IDLE under its mask, or FAULTED at the third within 10 s; aged entries leave the history. None acts before its time. A LEVEL port that finds no pulse left takes the PI after the tail: below a latched stop that is R121's candidate, at the stop it is the model's choice (log 43). -/
def Obligations.Presence : Prop :=
  ∀ (s : State) (p : PortIx),
    (∀ level, (s.port p).raw = level → exec (.rawPresenceChange p level) s = .next s) ∧
    (∀ level, (s.port p).raw ≠ level → exec (.rawPresenceChange p level) s = .next { s with toDevice :=
      (s.setPort p { s.port p with raw := level, rawSince := s.time }) }) ∧
    (∀ t, (t ∈ s.heldFlaps p ↔ t ∈ (s.port p).flaps ∧ ¬ 0 ≤ timeDiff s.time (timePlus t 10000000))) ∧
    ((s.port p).state ≠ .faulted → exec (.flapEntryAged p) s = .next { s with toDevice := (s.setPort p { s.port p with flaps := s.heldFlaps p }) }) ∧
    ((s.port p).state = .faulted → exec (.flapEntryAged p) s = .next s) ∧
    let recognized : Prop := (s.port p).raw ≠ (s.port p).presence ∧ 0 ≤ timeDiff s.time (timePlus (s.port p).rawSince 20000)
    let g := (s.port p).settings
    (¬ recognized → exec (.presenceRecognized p) s = .next s) ∧
    (recognized → ∃ d : Device, exec (.presenceRecognized p) s = .next { s with toDevice := d } ∧
      (d.port p).presence = (s.port p).raw ∧ (∀ q, q ≠ p → (d.port q).state = (s.port q).state ∧ (d.port q).presence = (s.port q).presence) ∧
      d.time = s.time ∧ d.follower = s.follower ∧ d.mode = s.mode ∧ d.service = s.service ∧ d.house = s.house ∧
      ((s.port p).raw = true → (s.port p).state ≠ .detached → d = s.setPort p { s.port p with presence := true }) ∧
      ((s.port p).raw = true → (s.port p).state = .detached → s.mode ≠ .init → (d.port p).state = entryOf g true) ∧
      (∀ r, (s.port p).raw = true → (s.port p).state = .detached → s.mode ≠ .init → s.planner.transport ≠ .stopped → s.planner.cursor = some r → (s.port p).join = none →
        let floor := Nat.max (s.port p).cursor r
        (entryOf g true = .acquiring →
          (∀ e, FirstOf (g.Candidate s.time floor) d.planner.plan e → (d.port p).join = some e.pi ∧ (d.port p).cursor = e.pi) ∧
          (∀ t, (∀ e ∈ d.planner.plan, ¬ g.Candidate s.time floor e) → d.planner.plan.getLast? = some t → 0 < t.snap.meter →
            ∃ j, t.pi < j ∧ floor ≤ j ∧ onJoinBoundary g.join j t.snap.meter t.snap.origin ∧
              (∀ k, t.pi < k → floor ≤ k → onJoinBoundary g.join k t.snap.meter t.snap.origin → j ≤ k) ∧
              (j ≤ 4294967295 → (∀ z, d.planner.latched = some z → j ≤ z) → (d.port p).join = some j ∧ (d.port p).cursor = j) ∧
              (4294967295 < j ∨ (∃ z, d.planner.latched = some z ∧ z < j) → (d.port p).join = none ∧ (d.port p).cursor = (s.port p).cursor))) ∧
        (entryOf g true = .locked →
          let ahead : PlanEntry → Prop := fun e => floor ≤ e.pi ∧ e.StillAhead g.latency s.time
          (∀ e, FirstOf ahead d.planner.plan e → (d.port p).join = some e.pi ∧ (d.port p).cursor = e.pi) ∧
          (∀ t, (∀ e ∈ d.planner.plan, ¬ ahead e) → d.planner.plan.getLast? = some t →
            (d.port p).join = some (Nat.max floor (t.pi + 1)) ∧ (d.port p).cursor = Nat.max floor (t.pi + 1)))) ∧
      ((s.port p).raw = false → (s.port p).state.counts = false → d = s.setPort p { s.port p with presence := false }) ∧
      ((s.port p).raw = false → (s.port p).state.counts = true → (d.port p).flaps = s.heldFlaps p ++ [s.time] ∧ (d.port p).join = none ∧
        (2 ≤ (s.heldFlaps p).length → (d.port p).state = .faulted ∧ (d.port p).settings.mask = true ∧ d.attn.getLsbD 1 = true ∧ d.attn.getLsbD 4 = true) ∧
        ((s.heldFlaps p).length < 2 → (s.port p).settings.rejoinHost = true → (d.port p).state = .idle ∧ (d.port p).settings.mask = true) ∧
        ((s.heldFlaps p).length < 2 → (s.port p).settings.rejoinHost = false → (d.port p).state = .detached ∧ d.attn.getLsbD 1 = true ∧
          (d.port p).settings = (s.port p).settings)))

/-! ## Supervision -/

/-- R171, R172: a period that expires is a TIMEOUT failure and begins the next; the closed half ends at half the period; neither acts before its time. -/
def Obligations.ServicePeriods : Prop :=
  ∀ s : State,
    (s.service.phase = .stopped ∨ ¬ 0 ≤ timeDiff s.time (timePlus s.service.start s.service.length) → exec .serviceTimeout s = .next s) ∧
    (s.service.phase ≠ .stopped → 0 ≤ timeDiff s.time (timePlus s.service.start s.service.length) →
      ∃ d : Device, exec .serviceTimeout s = .next { s with toDevice := d } ∧
        d.service = { s.service with
          recent := .timeout, phase := if s.service.window then .closed else .openPhase, start := s.time, length := s.service.period,
          carry := if s.mode = .attended then some (timePlus s.time (s.service.carryLimit * 1000000)) else s.service.carry } ∧
        (d.mode = if s.mode = .attended then .carry else s.mode) ∧ d.attn.getLsbD 4 = true ∧ (s.mode = .attended → d.attn.getLsbD 3 = true) ∧
        (s.capture = none → d.capture = some { kind := .serviceLost, port := none, slot := none, pi := s.currentPI, time := s.time, more := 0 }) ∧
        d.time = s.time ∧ d.mem = s.mem ∧ d.planner = s.planner ∧ d.globals = s.globals ∧ d.ports = s.ports ∧ d.follower = s.follower ∧ d.house = s.house) ∧
    (s.service.phase = .closed → 0 ≤ timeDiff s.time (timePlus s.service.start (s.service.length / 2)) →
      exec .closedPhaseEnd s = .next { s with toDevice := { s.toDevice with service := { s.service with phase := .openPhase } } }) ∧
    (¬ (s.service.phase = .closed ∧ 0 ≤ timeDiff s.time (timePlus s.service.start (s.service.length / 2))) → exec .closedPhaseEnd s = .next s)

/-- R172, R169, R153, R102: the carry timer expires in CARRY, and never otherwise: HOUSE; every HELD cue ends CANCELLED with reason HOUSE and leaves its list; every LEVEL mixer takes the house scene; transport, follower and port states stay. -/
def Obligations.HouseEntry : Prop :=
  ∀ s : State,
    (¬ (s.mode = .carry ∧ ∃ t, s.service.carry = some t ∧ 0 ≤ timeDiff s.time t) → exec .carryTimerExpiry s = .next s) ∧
    (∀ t, s.mode = .carry → s.service.carry = some t → 0 ≤ timeDiff s.time t → s.MemOk → s.Quiet → s.heldSlots.Nodup → (∀ n ∈ s.heldSlots, n < 512) →
      ∃ d : Device, exec .carryTimerExpiry s = .next { s with toDevice := d } ∧
        d.mode = .house ∧ d.service = { s.service with carry := none } ∧ d.attn.getLsbD 3 = true ∧ d.writer.isSome = true ∧
        d.globals = [] ∧ (∀ p, (d.port p).cues = [] ∧ (d.port p).step.queue = [] ∧ (d.port p).state = (s.port p).state ∧ (d.port p).settings = (s.port p).settings) ∧
        (∀ n ∈ s.heldSlots, d.slotState n = stCancelled ∧ d.field n 48 1 = 0x14 ∧ n ∉ d.prot) ∧
        (∀ p, (s.port p).settings.kind = .level → (d.port p).mixer = { (s.port p).mixer with
          fromL := s.house, toL := s.house, start := 0, len := 0, pos := 0, modulator := .none }) ∧
        (∀ p, (s.port p).settings.kind ≠ .level → (d.port p).mixer = (s.port p).mixer) ∧
        d.house = s.house ∧ d.follower = s.follower ∧ d.planner.horizon = s.planner.horizon ∧ d.planner.cursor = s.planner.cursor ∧
        (s.planner.transport = .stopped → d.planner = s.planner) ∧ (s.planner.transport ≠ .stopped → d.planner.transport ≠ .stopped))

/-! ## Links -/

/-- R149, Table 9-3, R146: the output level of a channel: 0 in the modulated range while the gate is closed at the last reached pulse, else the fade level. -/
def Obligations.OutputLevels : Prop :=
  ∀ (m : Mixer) (c : Nat) (h : c < 192),
    let width : Nat := match m.modulator with | .none => 96 | .blink => 48 | .pulse4 => 24 | .pulse8 => 12 | .pulse16 => 6
    let closed : Prop := ∃ k, m.reached = some k ∧ width ≤ k % 96
    (m.modulator ≠ .none ∧ m.first ≤ c ∧ c ≤ m.last ∧ closed → m.output[c] = 0) ∧
    (¬ (m.modulator ≠ .none ∧ m.first ≤ c ∧ c ≤ m.last ∧ closed) → m.output[c] = m.fade[c]) ∧
    (m.len = 0 → m.fade[c] = m.toL[c]) ∧
    (m.len ≠ 0 → m.pos ≤ m.len →
      ((m.fade[c].toNat : Nat) : Int) = (m.fromL[c].toNat : Int) + ((((m.toL[c].toNat : Int) - m.fromL[c].toNat) * m.pos).tdiv m.len))

/-- R142 to R144, Table 9-1: a LOCKED LEVEL port begins a frame one interval after the one before, never sooner, with the type of the device mode and the output levels as they stand. On the line a frame is 32 µs of space and 8 µs of mark, then the type character and the 192 level characters, each of a start bit at space, 8 data bits with the least significant first and a stop bit at mark, 2 µs a bit; before and after it, and past its cut, the line is at mark. The two wires are a complementary pair; that wire A is the one high at mark is the model's choice (log 37). -/
def Obligations.LevelFrame : Prop :=
  (∀ (s : State) (p : PortIx),
    let due : Prop := (s.port p).settings.kind = .level ∧ (s.port p).state = .locked ∧ (s.port p).frames.waiting = false ∧
      ∃ f, (s.port p).frames.last = some f ∧ 0 ≤ timeDiff s.time (timePlus f.begin ((s.port p).settings.frame * 1000))
    (¬ due → exec (.levelFrameBegin p) s = .next s) ∧
    (due → exec (.levelFrameBegin p) s = .next { s with toDevice := (s.setPort p { s.port p with frames :=
      { last := some { begin := s.time, house := s.mode == .house, levels := (s.port p).mixer.output, cut := none }, waiting := false } }) })) ∧
  (∀ (f : Frame) (now : Time),
    let e := (now - f.begin).toNat
    let i := (e - 40) / 20
    let bit := (e - 40) % 20 / 2
    (3900 ≤ e → f.level now = true) ∧ (∀ t, f.cut = some t → 0 ≤ timeDiff now t → f.level now = true) ∧
    ((∀ t, f.cut = some t → ¬ 0 ≤ timeDiff now t) → (e < 32 → f.level now = false) ∧ (32 ≤ e → e < 40 → f.level now = true) ∧
      (40 ≤ e → e < 3900 → (bit = 0 → f.level now = false) ∧ (bit = 9 → f.level now = true) ∧
        (1 ≤ bit → bit ≤ 8 → (i = 0 → f.level now = ((if f.house then 0x48 else 0x00 : Byte).getLsbD (bit - 1))) ∧
          ∀ c (h : c < 192), i = c + 1 → f.level now = f.levels[c].getLsbD (bit - 1))))) ∧
  ∀ (x : Port) (now : Time), x.settings.kind = .level → x.step.line = none →
    x.wires now = (x.signal now, !x.signal now) ∧ (∀ f, x.frames.last = some f → x.signal now = f.level now) ∧ (x.frames.last = none → x.signal now = true)

/-- R131, R132, R135, R137 to R139, R143, R100: the character on the line ends at its time, never sooner; the transmitter goes on with the oldest timing character, else an owed one, else the head SEND's next message character, else idles. A character or a first frame that has waited for the last character of a cut Level Link frame is begun once that has ended, and not before; that CHARACTER_END is the command for this too is the model's choice (log 49). A SEND whose last character has ended leaves the queue and the next one goes on; without repeats it ends FIRED, and a repeating one is re-armed in its port's list. A message is divided into frames of MESSAGE, a count and data bytes, and a later frame of a paced message needs a release. A character is a start bit at space, 9 data bits with the least significant first and a stop bit at mark, 10 µs a bit; the wires are a complementary pair, of which the model has wire A high at mark (log 37). -/
def Obligations.CharacterEnd : Prop :=
  (∀ (s : State) (p : PortIx),
    (∀ l, (s.port p).step.line = some l → ¬ 0 ≤ timeDiff s.time l.ends → exec (.characterEnd p) s = .next s) ∧
    ((s.port p).step.line = none → (s.port p).step.timing = [] → (s.port p).step.owed = [] → (∀ f, (s.port p).step.queue.head? = some f → f.ready = false) →
      (s.port p).frames.waiting = false → exec (.characterEnd p) s = .next s) ∧
    (∀ f t, (s.port p).step.line = none → (s.port p).frames.last = some f → f.cut = some t →
      ((s.time - f.begin).toNat < 3900 → ¬ 0 ≤ timeDiff s.time t → exec (.characterEnd p) s = .next s) ∧
      (∀ c rest, 0 ≤ timeDiff s.time t → (s.port p).step.timing = c :: rest →
        ∃ d : Device, exec (.characterEnd p) s = .next { s with toDevice := d } ∧ (∀ q, q ≠ p → d.port q = s.port q) ∧ d.mem = s.mem ∧
          (d.port p).step.line = some { code := c.code, ends := timePlus s.time 110 } ∧ (d.port p).step.timing = rest ∧ (d.port p).step.queue = (s.port p).step.queue) ∧
      (0 ≤ timeDiff s.time t → (s.port p).step.timing = [] → (s.port p).step.owed = [] → (s.port p).step.queue = [] → (s.port p).frames.waiting = true →
        exec (.characterEnd p) s = .next { s with toDevice := (s.setPort p { s.port p with frames :=
          { last := some { begin := s.time, house := s.mode == .house, levels := (s.port p).mixer.output, cut := none }, waiting := false } }) })) ∧
    (∀ l, (s.port p).step.line = some l → 0 ≤ timeDiff s.time l.ends → (s.port p).frames.waiting = false → s.Quiet →
      ∃ d : Device, exec (.characterEnd p) s = .next { s with toDevice := d } ∧ (∀ q, q ≠ p → d.port q = s.port q) ∧
        (∀ c rest, (∀ f, (s.port p).step.queue.head? = some f → f.complete = false) → (s.port p).step.timing = c :: rest →
          (d.port p).step.line = some { code := c.code, ends := timePlus s.time 110 } ∧ (d.port p).step.timing = rest ∧
          (d.port p).step.queue = (s.port p).step.queue ∧ d.mem = s.mem) ∧
        (∀ c rest, (∀ f, (s.port p).step.queue.head? = some f → f.complete = false) → (s.port p).step.timing = [] → (s.port p).step.owed = c :: rest →
          (d.port p).step.line = some { code := c, ends := timePlus s.time 110 } ∧ (d.port p).step.owed = rest ∧ d.mem = s.mem) ∧
        (∀ f rest, (s.port p).step.timing = [] → (s.port p).step.owed = [] → (s.port p).step.queue = f :: rest → f.ready = true →
          (d.port p).step.line = some { code := f.nextCode s.mem, ends := timePlus s.time 110 } ∧ (d.port p).step.queue = f.started :: rest ∧ d.mem = s.mem) ∧
        ((s.port p).step.timing = [] → (s.port p).step.owed = [] → (s.port p).step.queue = [] → (d.port p).step.line = none ∧ d.mem = s.mem) ∧
        (∀ f, (s.port p).step.timing = [] → (s.port p).step.owed = [] → (s.port p).step.queue = [f] → f.complete = false → f.ready = false →
          (d.port p).step.line = none) ∧
        (∀ f, (s.port p).step.timing = [] → (s.port p).step.owed = [] → (s.port p).step.queue = [f] → f.complete = true → f.cue.interval = 0 →
          f.cue.left = some 1 → f.cue.slot < 512 → s.MemOk → (∃ b o len pacing chunk, f.cue.body = .send b o len pacing chunk) →
          (d.port p).step.line = none ∧ (d.port p).step.queue = [] ∧
          d.Shows f.cue.slot stFired { reason := .none, flags := f.cue.flags, revision := f.cue.revision, firePI := f.pi, fireTime := timeLow32 f.time,
                                       fired := satInc f.cue.fired, aux := f.cue.body.sendLength }) ∧
        (∀ f g rest, (s.port p).step.timing = [] → (s.port p).step.owed = [] → (s.port p).step.queue = f :: g :: rest → f.complete = true → f.cue.interval = 0 →
          f.cue.left = some 1 → s.MemOk →
          d.slotState f.cue.slot = stFired ∧
          (g.ready = true → (d.port p).step.line = some { code := g.nextCode d.mem, ends := timePlus s.time 110 } ∧ (d.port p).step.queue = g.started :: rest) ∧
          (g.ready = false → (d.port p).step.line = none ∧ (d.port p).step.queue = g :: rest)) ∧
        (∀ f rest, (s.port p).step.queue = f :: rest → f.complete = true → f.cue.interval ≠ 0 → f.cue.left ≠ some 0 → f.cue.left ≠ some 1 → s.MemOk →
          let next := f.cue.due + f.cue.interval * 96
          next ≤ 4294967295 → s.planner.transport = .stopped ∨ s.refPoint p ≤ next →
          (d.port p).cues = insertCue { f.cue with
            bytes := f.cue.body.sendLength, due := next, mark := if (s.port p).state.joined then (s.port p).join else none,
            revision := if 65535 ≤ f.cue.revision then 1 else f.cue.revision + 1, fired := satInc f.cue.fired, left := f.cue.left.map (· - 1),
            lastFired := some (f.pi, f.time) } (s.port p).cues ∧
          d.slotState f.cue.slot = s.slotState f.cue.slot ∧ d.field f.cue.slot 52 4 = next % 4294967296))) ∧
  (∀ (f : Flight) (m : List Host.Cell) (bulk : Bool) (offset len : Nat) (pacing : Pacing) (chunk : Nat), f.cue.body = .send bulk offset len pacing chunk →
    let size := if bulk = false then len else if pacing = .whole then 255 else chunk
    let i := f.sent / (size + 2)
    let k := f.sent % (size + 2)
    let waits := k = 0 ∧ i ≠ 0 ∧ pacing ≠ .whole
    (k = 0 → f.nextCode m = 0x130) ∧ (k = 1 → f.nextCode m = BitVec.ofNat 9 (Nat.min size (len - i * size))) ∧
    (2 ≤ k → f.nextCode m = (Memory.read m ((if bulk = true then 0xC000 + offset else slotBase f.cue.slot + 17) + (i * size + (k - 2)))).setWidth 9) ∧
    (f.complete = true ↔ 2 * ((len + (size - 1)) / size) + len ≤ f.sent) ∧ (f.ready = true ↔ f.complete = false ∧ (waits → 0 < f.releases)) ∧
    f.started = { f with sent := f.sent + 1, releases := if waits then f.releases - 1 else f.releases } ∧
    f.framesLeft = (len + (size - 1)) / size - (if k = 0 then i else i + 1)) ∧
  (∀ (c : LineChar) (now : Time),
    let e := (now - timeMinus c.ends 110).toNat
    (e < 10 → c.level now = false) ∧ (10 ≤ e → e < 100 → c.level now = c.code.getLsbD (e / 10 - 1)) ∧ (100 ≤ e → c.level now = true)) ∧
  ∀ (x : Port) (now : Time), x.settings.kind = .step →
    x.wires now = (x.signal now, !x.signal now) ∧ (∀ c, x.step.line = some c → x.signal now = c.level now) ∧
    (x.step.line = none → x.frames.last = none → x.signal now = true)

/-- R126 to R128: a CLOCK port's lines: an active phase ends in 1,000 µs of inactive level, and the gap in the next waiting edge; the RESET pulse begins 2,000 µs before the due time of j and lasts 1,000 µs; one begun with its lead-in time already past is followed by a low gap of 1,000 µs, after which RUN rises if the reach of j has come. None acts before its time. That a pulse begun late for any other cause, or one that the reach of j overtakes, is followed by the same gap is the model's inference (log 14), and so is that a fall of RUN still owed to the stop before lapses as the pulse begins (log 48). -/
def Obligations.ClockLines : Prop :=
  ∀ (s : State) (p : PortIx),
    let x := s.port p
    (∀ t, x.clock.phase = .active t → 0 ≤ timeDiff s.time t → exec (.clockPhaseEnd p) s = .next { s with toDevice := (s.setPort p { x with clock := { x.clock with
      phase := .gap (timePlus s.time 1000), negative := x.settings.negative
      wireB := if x.clock.fallOwed = true ∧ x.clock.waiting = [] then false else x.clock.wireB
      fallOwed := if x.clock.fallOwed = true ∧ x.clock.waiting = [] then false else x.clock.fallOwed } }) }) ∧
    (∀ t, x.clock.phase = .gap t → 0 ≤ timeDiff s.time t → x.clock.waiting = [] →
      exec (.clockPhaseEnd p) s = .next { s with toDevice := (s.setPort p { x with clock := { x.clock with phase := .rest } }) }) ∧
    (∀ t g rest, x.clock.phase = .gap t → 0 ≤ timeDiff s.time t → x.clock.waiting = g :: rest → x.clock.form = .none →
      exec (.clockPhaseEnd p) s = .next { s with toDevice := (s.setPort p { x with clock := { x.clock with phase := .active (timePlus s.time g.width), waiting := rest } }) }) ∧
    (∀ t, x.clock.phase = .active t ∨ x.clock.phase = .gap t → ¬ 0 ≤ timeDiff s.time t → exec (.clockPhaseEnd p) s = .next s) ∧
    (∀ j e, x.settings.kind = .clock → x.run = .run → x.clock.form = .pending j → s.planEntry j = some e →
      let lead := timeMinus (timeMinus (instantTime e.instant) x.settings.latency) 2000
      (¬ 0 ≤ timeDiff s.time lead → exec (.clockLeadIn p) s = .next s) ∧
      (0 ≤ timeDiff s.time lead → exec (.clockLeadIn p) s = .next { s with toDevice := (s.setPort p { x with clock := { x.clock with
        wireB := true, fallOwed := false, form := .pulse j (timePlus s.time 1000) (s.time != lead) false } }) })) ∧
    (∀ j t late reached, x.clock.form = .pulse j t late reached →
      (¬ 0 ≤ timeDiff s.time t → exec (.resetPulseEnd p) s = .next s) ∧
      (0 ≤ timeDiff s.time t → exec (.resetPulseEnd p) s = .next { s with toDevice := (s.setPort p { x with clock := { x.clock with
        wireB := false, form := if late || reached then .gap j (timePlus s.time 1000) reached else .ready j } }) })) ∧
    (∀ j t reached, x.clock.form = .gap j t reached →
      (¬ 0 ≤ timeDiff s.time t → exec (.lowGapEnd p) s = .next s) ∧
      (0 ≤ timeDiff s.time t → reached = false → exec (.lowGapEnd p) s = .next { s with toDevice := (s.setPort p { x with clock := { x.clock with form := .ready j } }) }) ∧
      (0 ≤ timeDiff s.time t → reached = true → x.clock.waiting = [] →
        exec (.lowGapEnd p) s = .next { s with toDevice := (s.setPort p { x with clock := { x.clock with wireB := true, form := .none } }) }) ∧
      (∀ g rest, 0 ≤ timeDiff s.time t → reached = true → x.clock.waiting = g :: rest → x.clock.phase = .rest →
        exec (.lowGapEnd p) s = .next { s with toDevice := (s.setPort p { x with clock := { x.clock with
          wireB := true, form := .none, phase := .active (timePlus s.time g.width), waiting := rest } }) }))

/-- R134, R130, Table 8-2: 1,000 µs before the due time of j a STEP port queues its join form POSITION(j) and START, or RESUME at the first PI of a CONTINUE; 1,000 µs before that of b its resume form POSITION(b) and RESUME. Neither acts before its time. The first character goes on the line at once, or waits there for the last character of a frame that a change of kind has cut (R143). -/
def Obligations.StepForms : Prop :=
  ∀ (s : State) (p : PortIx) (k : Nat) (e : PlanEntry), s.planEntry k = some e → (s.port p).settings.kind = .step → (s.port p).step.line = none →
    (s.port p).step.timing = [] → (s.port p).step.owed = [] → (s.port p).step.queue = [] →
    let lead := timeMinus (timeMinus (instantTime e.instant) (s.port p).settings.latency) 1000
    let form : BitVec 9 → List (BitVec 9) := fun last =>
      [0x120, BitVec.ofNat 9 (k % 256), BitVec.ofNat 9 (k / 256 % 256), BitVec.ofNat 9 (k / 65536 % 256), BitVec.ofNat 9 (k / 16777216 % 256), last]
    let busy : Prop := ∃ f, (s.port p).frames.last = some f ∧ (s.time - f.begin).toNat < 3900 ∧ ∀ t, f.cut = some t → ¬ 0 ≤ timeDiff s.time t
    let sends : Device → List (BitVec 9) → Prop := fun d l =>
      (∀ q, q ≠ p → d.port q = s.port q) ∧ d.mem = s.mem ∧
        (¬ busy → (d.port p).step.line = some { code := 0x120, ends := timePlus s.time 110 } ∧ 0x120 :: (d.port p).step.timing.map (·.code) = l) ∧
        (busy → (d.port p).step.line = none ∧ (d.port p).step.timing.map (·.code) = l)
    ((s.port p).step.form = .pending k → (s.port p).run = .run →
      (¬ 0 ≤ timeDiff s.time lead → exec (.stepLeadIn p) s = .next s) ∧
      (0 ≤ timeDiff s.time lead → ∃ d : Device, exec (.stepLeadIn p) s = .next { s with toDevice := d } ∧
        sends d (form (match s.planner.opening with | some o => if o.resumed = true ∧ o.first = k then 0x112 else 0x110 | none => 0x110)) ∧ (d.port p).step.form = .queued k false)) ∧
    ((s.port p).resume = some k → (s.port p).step.resumeQueued = false →
      (¬ 0 ≤ timeDiff s.time lead → exec (.stepResumeForm p) s = .next s) ∧
      (0 ≤ timeDiff s.time lead → ∃ d : Device, exec (.stepResumeForm p) s = .next { s with toDevice := d } ∧ sends d (form 0x112) ∧ (d.port p).resume = some k))

/-! ## The status page -/

/-- R163, R162, Table 10-2: a status write raises the epoch to odd, writes every item of the table with the value the part then holds, raises the epoch again, writes 0 to the bytes of the page the table does not name, and writes nothing outside the page; a request marked meanwhile starts another. That the command STATUS_WRITE carries a number of accesses, and that the items are written by rising offset, is the model's choice (log 8). -/
def Obligations.StatusWrite : Prop :=
  ∀ (s : State), s.MemOk → s.Quiet →
    (∀ n, s.writer = none → exec (.statusWrite n) s = .next s) ∧
    (∀ w, s.writer = some w → w.made = 0 →
      exec (.statusWrite 1) s = .next { s with toDevice := { s.toDevice with mem := Memory.writeLE s.mem 0 4 ((s.peek 0 4 + 1) % 4294967296), writer := some { w with made := 1 } } } ∧
      ∃ d : Device, exec (.statusWrite statusAccesses) s = .next { s with toDevice := d } ∧
        d.peek 0 4 = (s.peek 0 4 + 2) % 4294967296 ∧ (∀ it ∈ statusItems, d.peek it.offset it.size = it.value s.toDevice % 256 ^ it.size) ∧
        d.peek 0x04 1 = (match s.planner.transport with | .stopped => 0 | .running => 1 | .stopping => 2) ∧
        d.peek 0x05 1 = (match s.mode with | .init => 0 | .attended => 1 | .carry => 2 | .house => 3) ∧
        d.peek 0x06 1 = (match s.follower.state with | .off => 0 | .seeking => 1 | .locked => 2 | .holding => 3) ∧
        d.peek 0x08 4 = s.currentPI % 4294967296 ∧ d.peek 0x11 1 = (if s.overflow then 1 else 0) ∧
        d.peek 0x1C 4 = (match s.planner.horizon with | some c => c % 4294967296 | none => 0) ∧ d.peek 0x20 1 = (if s.planner.horizon.isSome then 1 else 0) ∧
        d.peek 0x24 4 = s.lmax % 4294967296 ∧ d.peek 0x30 2 = s.heldSlots.length % 65536 ∧ d.peek 0x34 4 = timeLow32 w.since ∧
        (s.capture = none → ∀ a, 0x40 ≤ a → a < 0x4D → Memory.read d.mem a = 0) ∧
        (∀ r, s.capture = some r → d.peek 0x40 1 = (match r.kind with
            | .ownedWrite => 1 | .statusProtect => 2 | .noticeOverflow => 3 | .serviceLost => 4 | .portFlap => 5 | .followLost => 6 | .linkOverrun => 7) ∧
          d.peek 0x41 1 = (match r.port with | some p => p % 256 | none => 0xFF) ∧ d.peek 0x42 2 = (match r.slot with | some n => n % 65536 | none => 0xFFFF) ∧
          d.peek 0x44 4 = r.pi % 4294967296 ∧ d.peek 0x48 4 = timeLow32 r.time ∧ d.peek 0x4C 1 = r.more % 256) ∧
        (∀ p : PortIx, let base := 0x80 + 16 * p.val
          d.peek base 1 = (match (s.port p).state with | .idle => 0 | .detached => 1 | .acquiring => 2 | .settling => 3 | .locked => 4 | .faulted => 5) ∧
          d.peek (base + 1) 1 = (match (s.port p).settings.kind with | .none => 0 | .clock => 1 | .step => 2 | .level => 3) ∧
          d.peek (base + 2) 1 = (if (s.port p).presence then 1 else 0) ∧ d.peek (base + 4) 4 = (s.port p).settings.latency % 4294967296 ∧
          d.peek (base + 8) 4 = (s.port p).cursor % 4294967296 ∧ d.peek (base + 13) 1 = (s.port p).flaps.length % 256 ∧ d.peek (base + 14) 2 = 0) ∧
        (∀ a, (0x21 ≤ a ∧ a < 0x24) ∨ (0x32 ≤ a ∧ a < 0x34) ∨ (0x38 ≤ a ∧ a < 0x40) ∨ (0x4D ≤ a ∧ a < 0x80) ∨ (0x200 ≤ a ∧ a < 0x400) → Memory.read d.mem a = 0) ∧
        (∀ a, 1024 ≤ a → Memory.read d.mem a = Memory.read s.mem a) ∧
        d = { s.toDevice with mem := d.mem, writer := if s.writerAgain then some { made := 0, since := s.time } else none, writerAgain := false })

/-! ## Invariants -/

/-- Every step keeps the canonical form of the memory: two memories with the same bytes are the same data. -/
def Obligations.StepKeepsMemory : Prop :=
  ∀ s t : State, s.MemOk → step s = .next t → t.MemOk

/-- R159, R18, R24, R49, Table 4-1, R54 to R61, Table 7-1, R127, R135, R136: every step keeps the bounds the spec gives the part's lists and numbers: the notice list, the plan (without a gap, each instant the one before it plus a legal period), the nudge balances, the follower, the port settings, the link queues. The capacity of 256 plan entries (R31) is left out: it follows from the passing of time, not from one step. And no host access is left waiting at the arbiter (log 38). -/
def Obligations.StepKeepsRecords : Prop :=
  ∀ s t : State, step s = .next t →
    (s.NoticesOk → t.NoticesOk) ∧ (s.PlanOk → t.PlanOk) ∧ (s.BalanceOk → t.BalanceOk) ∧ (s.follower.Ok → t.follower.Ok) ∧ (s.SettingsOk → t.SettingsOk) ∧
      (s.LinksOk → t.LinksOk) ∧ (s.arbiter = [] → t.arbiter = [])
end

