-- ==== Sys2Proof/Laws/Memory.lean ====
section
/-! SUPPORT. The memory operations: what a read gives after a write, and the canonical form kept by every write. -/
namespace Sys2Proof.Machine
set_option Elab.async false

/-! ## Canonical form -/

theorem Memory.wfAbove_none_of_some {b : Nat} : ∀ {m : List Host.Cell}, Memory.wfAbove (some b) m = true → Memory.wfAbove none m = true
  | [], _ => rfl
  | (c, w) :: m, h => by
    simp only [Memory.wfAbove, Bool.and_eq_true, decide_eq_true_eq] at h ⊢
    exact ⟨⟨trivial, h.1.2⟩, h.2⟩

theorem Memory.wfAbove_mono {b c : Nat} (hbc : b ≤ c) : ∀ {m : List Host.Cell}, Memory.wfAbove (some c) m = true → Memory.wfAbove (some b) m = true
  | [], _ => rfl
  | (x, w) :: m, h => by
    simp only [Memory.wfAbove, Bool.and_eq_true, decide_eq_true_eq] at h ⊢
    exact ⟨⟨Nat.lt_of_le_of_lt hbc h.1.1, h.1.2⟩, h.2⟩

/-- A write above a bound keeps every listed address above that bound. -/
theorem Memory.wfAbove_write {lo : Nat} (v : Byte) {a : Nat} (ha : lo < a) :
    ∀ {m : List Host.Cell}, Memory.wfAbove (some lo) m = true → Memory.wfAbove (some lo) (Memory.write m a v) = true := by
  intro m
  induction m generalizing lo with
  | nil =>
    intro _
    by_cases hv : v = Memory.unlisted <;> simp [Memory.write, Memory.wfAbove, hv, ha]
  | cons c m ih =>
    obtain ⟨b, w⟩ := c
    intro h
    simp only [Memory.wfAbove, Bool.and_eq_true, decide_eq_true_eq] at h
    obtain ⟨⟨hb, hw⟩, hm⟩ := h
    unfold Memory.write
    split
    · rename_i hab
      split
      · simp [Memory.wfAbove, hb, hw, hm]
      · rename_i hv
        simp [Memory.wfAbove, ha, hv, hab, hw, hm]
    · rename_i hab
      split
      · rename_i heq
        split
        · exact Memory.wfAbove_mono (Nat.le_of_lt hb) hm
        · rename_i hv
          subst heq
          simp [Memory.wfAbove, ha, hv, hm]
      · rename_i hne
        have hba : b < a := by omega
        simp [Memory.wfAbove, hb, hw, ih hba hm]

/-- A write keeps the canonical form. -/
theorem Memory.wf_write {m : List Host.Cell} (a : Nat) (v : Byte) (h : Memory.wf m = true) : Memory.wf (Memory.write m a v) = true := by
  unfold Memory.wf at h ⊢
  cases m with
  | nil => by_cases hv : v = Memory.unlisted <;> simp [Memory.write, Memory.wfAbove, hv]
  | cons c m =>
    obtain ⟨b, w⟩ := c
    simp only [Memory.wfAbove, Bool.and_eq_true, decide_eq_true_eq] at h
    obtain ⟨⟨_, hw⟩, hm⟩ := h
    unfold Memory.write
    split
    · rename_i hab
      split
      · simp [Memory.wfAbove, hw, hm]
      · rename_i hv
        simp [Memory.wfAbove, hv, hab, hw, hm]
    · rename_i hab
      split
      · split
        · exact Memory.wfAbove_none_of_some hm
        · rename_i heq hv
          subst heq
          simp [Memory.wfAbove, hv, hm]
      · have hba : b < a := by omega
        simp [Memory.wfAbove, hw, Memory.wfAbove_write v hba hm]

theorem Memory.wf_writeLE : ∀ (n : Nat) {m : List Host.Cell} (a v : Nat), Memory.wf m = true → Memory.wf (Memory.writeLE m a n v) = true
  | 0, _, _, _, h => h
  | n + 1, _, a, v, h => Memory.wf_writeLE n (a + 1) (v / 256) (Memory.wf_write a _ h)

theorem Memory.wf_writeBytes : ∀ (l : List Byte) {m : List Host.Cell} (a : Nat), Memory.wf m = true → Memory.wf (Memory.writeBytes m a l) = true
  | [], _, _, h => h
  | v :: l, _, a, h => Memory.wf_writeBytes l (a + 1) (Memory.wf_write a v h)

/-! ## Reads after writes -/

/-- Below every listed address a read gives the unlisted byte. -/
theorem Memory.read_below {lo a : Nat} (h : a ≤ lo) : ∀ {m : List Host.Cell}, Memory.wfAbove (some lo) m = true → Memory.read m a = Memory.unlisted
  | [], _ => rfl
  | (b, w) :: m, hm => by
    simp only [Memory.wfAbove, Bool.and_eq_true, decide_eq_true_eq] at hm
    have hne : a ≠ b := by omega
    simp [Memory.read, hne, Memory.read_below (Nat.le_trans h (Nat.le_of_lt hm.1.1)) hm.2]

/-- Another address reads as before. -/
theorem Memory.read_write_ne {a b : Nat} (v : Byte) (h : a ≠ b) : ∀ (m : List Host.Cell), Memory.read (Memory.write m b v) a = Memory.read m a
  | [] => by by_cases hv : v = Memory.unlisted <;> simp [Memory.write, Memory.read, hv, h]
  | (c, w) :: m => by
    unfold Memory.write
    split
    · split
      · rfl
      · simp [Memory.read, h]
    · split
      · rename_i heq
        subst heq
        split <;> simp [Memory.read, h]
      · by_cases hc : a = c
        · simp [Memory.read, hc]
        · simp [Memory.read, hc, Memory.read_write_ne v h m]

theorem Memory.read_write_same_above {lo : Nat} {a : Nat} (v : Byte) (ha : lo < a) :
    ∀ {m : List Host.Cell}, Memory.wfAbove (some lo) m = true → Memory.read (Memory.write m a v) a = v := by
  intro m
  induction m generalizing lo with
  | nil => intro _; by_cases hv : v = Memory.unlisted <;> simp [Memory.write, Memory.read, hv]
  | cons c m ih =>
    obtain ⟨b, w⟩ := c
    intro h
    simp only [Memory.wfAbove, Bool.and_eq_true, decide_eq_true_eq] at h
    obtain ⟨⟨hb, hw⟩, hm⟩ := h
    unfold Memory.write
    split
    · rename_i hab
      split
      · rename_i hv
        have hne : a ≠ b := by omega
        simp [Memory.read, hne, Memory.read_below (Nat.le_of_lt hab) hm, hv]
      · simp [Memory.read]
    · split
      · rename_i heq
        subst heq
        split
        · rename_i hv
          rw [Memory.read_below (Nat.le_refl a) hm, hv]
        · simp [Memory.read]
      · have hba : b < a := by omega
        have hne : a ≠ b := by omega
        simp [Memory.read, hne, ih hba hm]

/-- The written address reads the written byte. -/
theorem Memory.read_write_same {m : List Host.Cell} (a : Nat) (v : Byte) (h : Memory.wf m = true) : Memory.read (Memory.write m a v) a = v := by
  unfold Memory.wf at h
  cases m with
  | nil => by_cases hv : v = Memory.unlisted <;> simp [Memory.write, Memory.read, hv]
  | cons c m =>
    obtain ⟨b, w⟩ := c
    simp only [Memory.wfAbove, Bool.and_eq_true, decide_eq_true_eq] at h
    obtain ⟨⟨_, hw⟩, hm⟩ := h
    unfold Memory.write
    split
    · rename_i hab
      split
      · rename_i hv
        have hne : a ≠ b := by omega
        simp [Memory.read, hne, Memory.read_below (Nat.le_of_lt hab) hm, hv]
      · simp [Memory.read]
    · split
      · rename_i heq
        subst heq
        split
        · rename_i hv
          rw [Memory.read_below (Nat.le_refl a) hm, hv]
        · simp [Memory.read]
      · have hba : b < a := by omega
        have hne : a ≠ b := by omega
        simp [Memory.read, hne, Memory.read_write_same_above v hba hm]

/-- An address outside the written bytes reads as before. -/
theorem Memory.read_writeLE_outside : ∀ (n : Nat) (m : List Host.Cell) {a b : Nat} (v : Nat), a < b ∨ b + n ≤ a →
    Memory.read (Memory.writeLE m b n v) a = Memory.read m a
  | 0, _, _, _, _, _ => rfl
  | n + 1, m, a, b, v, h => by
    unfold Memory.writeLE
    rw [Memory.read_writeLE_outside n _ _ (by omega), Memory.read_write_ne _ (by omega)]

/-- A read of n bytes away from the n written ones gives what it gave. -/
theorem Memory.readLE_writeLE_outside (k n : Nat) (m : List Host.Cell) {a b : Nat} (v : Nat) (h : a + k ≤ b ∨ b + n ≤ a) :
    Memory.readLE (Memory.writeLE m b n v) a k = Memory.readLE m a k := by
  induction k generalizing a with
  | zero => rfl
  | succ k ih =>
    unfold Memory.readLE
    rw [Memory.read_writeLE_outside n m v (by omega), ih (by omega)]

/-- The n bytes read back as the value's n low bytes. -/
theorem Memory.readLE_writeLE_same : ∀ (n : Nat) {m : List Host.Cell} (a v : Nat), Memory.wf m = true →
    Memory.readLE (Memory.writeLE m a n v) a n = v % 256 ^ n
  | 0, _, _, v, _ => by simp [Memory.readLE, Nat.mod_one]
  | n + 1, m, a, v, h => by
    unfold Memory.readLE Memory.writeLE
    rw [Memory.read_writeLE_outside n _ _ (by omega), Memory.read_write_same a _ h,
      Memory.readLE_writeLE_same n (a + 1) (v / 256) (Memory.wf_write a _ h)]
    simp only [BitVec.toNat_ofNat]
    rw [show (2 : Nat) ^ 8 = 256 from rfl, Nat.pow_succ, Nat.mul_comm (256 ^ n) 256, Nat.mod_mul]

/-- An address outside the written bytes reads as before. -/
theorem Memory.read_writeBytes_outside : ∀ (l : List Byte) (m : List Host.Cell) {a b : Nat}, a < b ∨ b + l.length ≤ a →
    Memory.read (Memory.writeBytes m b l) a = Memory.read m a
  | [], _, _, _, _ => rfl
  | v :: l, m, a, b, h => by
    simp only [List.length_cons] at h
    unfold Memory.writeBytes
    rw [Memory.read_writeBytes_outside l _ (by omega), Memory.read_write_ne _ (by omega)]

/-- Byte i of the written bytes reads back. -/
theorem Memory.read_writeBytes_inside : ∀ (l : List Byte) {m : List Host.Cell} (b : Nat) {i : Nat} (hi : i < l.length), Memory.wf m = true →
    Memory.read (Memory.writeBytes m b l) (b + i) = l[i]
  | [], _, _, _, hi, _ => absurd hi (by simp)
  | v :: l, m, b, 0, _, h => by
    unfold Memory.writeBytes
    rw [Memory.read_writeBytes_outside l _ (by omega)]
    simpa using Memory.read_write_same b v h
  | v :: l, m, b, i + 1, hi, h => by
    unfold Memory.writeBytes
    have := Memory.read_writeBytes_inside l (b + 1) (i := i) (by simpa using hi) (Memory.wf_write b v h)
    rw [show b + (i + 1) = b + 1 + i by omega, this]
    simp

end Sys2Proof.Machine
end

