-- ==== Sys2Proof/Laws/State.lean ====
section
/-! SUPPORT. One lemma per field for each named update of the device, so that no proof unfolds a record update. -/
namespace Sys2Proof.Machine
set_option Elab.async false

/-! ## Ports -/

@[simp] theorem Device.port_setPort_same (d : Device) (p : PortIx) (x : Port) : (d.setPort p x).port p = x := by
  show (d.ports.set p.val x p.isLt)[p.val] = x
  exact Vector.getElem_set_self p.isLt

theorem Device.port_setPort_ne (d : Device) {p q : PortIx} (x : Port) (h : q ≠ p) : (d.setPort p x).port q = d.port q := by
  have h' : p.val ≠ q.val := fun e => h (Fin.ext e.symm)
  show (d.ports.set p.val x p.isLt)[q.val] = d.ports[q.val]
  exact Vector.getElem_set_ne p.isLt q.isLt h'

@[simp] theorem Device.port_modPort_same (d : Device) (p : PortIx) (f : Port → Port) : (d.modPort p f).port p = f (d.port p) := by
  simp [Device.modPort]

theorem Device.port_modPort_ne (d : Device) {p q : PortIx} (f : Port → Port) (h : q ≠ p) : (d.modPort p f).port q = d.port q :=
  d.port_setPort_ne _ h

theorem Device.mem_allPorts (p : PortIx) : p ∈ allPorts := by revert p; decide

/-! ## latch -/

@[simp] theorem Device.latch_arbiter (d : Device) (c : Cause) : (d.latch c).arbiter = d.arbiter := rfl
@[simp] theorem Device.latch_ahead (d : Device) (c : Cause) : (d.latch c).ahead = d.ahead := rfl
@[simp] theorem Device.latch_turns (d : Device) (c : Cause) : (d.latch c).turns = d.turns := rfl
@[simp] theorem Device.latch_time (d : Device) (c : Cause) : (d.latch c).time = d.time := rfl
@[simp] theorem Device.latch_mem (d : Device) (c : Cause) : (d.latch c).mem = d.mem := rfl
@[simp] theorem Device.latch_prot (d : Device) (c : Cause) : (d.latch c).prot = d.prot := rfl
@[simp] theorem Device.latch_writer (d : Device) (c : Cause) : (d.latch c).writer = d.writer := rfl
@[simp] theorem Device.latch_writerAgain (d : Device) (c : Cause) : (d.latch c).writerAgain = d.writerAgain := rfl
@[simp] theorem Device.latch_notices (d : Device) (c : Cause) : (d.latch c).notices = d.notices := rfl
@[simp] theorem Device.latch_overflow (d : Device) (c : Cause) : (d.latch c).overflow = d.overflow := rfl
@[simp] theorem Device.latch_seq (d : Device) (c : Cause) : (d.latch c).seq = d.seq := rfl
@[simp] theorem Device.latch_sweep (d : Device) (c : Cause) : (d.latch c).sweep = d.sweep := rfl
@[simp] theorem Device.latch_planner (d : Device) (c : Cause) : (d.latch c).planner = d.planner := rfl
@[simp] theorem Device.latch_globals (d : Device) (c : Cause) : (d.latch c).globals = d.globals := rfl
@[simp] theorem Device.latch_follower (d : Device) (c : Cause) : (d.latch c).follower = d.follower := rfl
@[simp] theorem Device.latch_ports (d : Device) (c : Cause) : (d.latch c).ports = d.ports := rfl
@[simp] theorem Device.latch_house (d : Device) (c : Cause) : (d.latch c).house = d.house := rfl
@[simp] theorem Device.latch_mode (d : Device) (c : Cause) : (d.latch c).mode = d.mode := rfl
@[simp] theorem Device.latch_service (d : Device) (c : Cause) : (d.latch c).service = d.service := rfl
@[simp] theorem Device.latch_keep (d : Device) (c : Cause) : (d.latch c).keep = d.keep := rfl
@[simp] theorem Device.latch_keepPending (d : Device) (c : Cause) : (d.latch c).keepPending = d.keepPending := rfl
@[simp] theorem Device.latch_capture (d : Device) (c : Cause) : (d.latch c).capture = d.capture := rfl
@[simp] theorem Device.latch_runEnable (d : Device) (c : Cause) : (d.latch c).runEnable = d.runEnable := rfl
@[simp] theorem Device.latch_attnEnable (d : Device) (c : Cause) : (d.latch c).attnEnable = d.attnEnable := rfl
@[simp] theorem Device.latch_readData (d : Device) (c : Cause) : (d.latch c).readData = d.readData := rfl
@[simp] theorem Device.latch_port (d : Device) (c : Cause) (q : PortIx) : (d.latch c).port q = d.port q := rfl

/-! ## setPort -/

@[simp] theorem Device.setPort_arbiter (d : Device) (p : PortIx) (x : Port) : (d.setPort p x).arbiter = d.arbiter := rfl
@[simp] theorem Device.setPort_ahead (d : Device) (p : PortIx) (x : Port) : (d.setPort p x).ahead = d.ahead := rfl
@[simp] theorem Device.setPort_turns (d : Device) (p : PortIx) (x : Port) : (d.setPort p x).turns = d.turns := rfl
@[simp] theorem Device.setPort_time (d : Device) (p : PortIx) (x : Port) : (d.setPort p x).time = d.time := rfl
@[simp] theorem Device.setPort_mem (d : Device) (p : PortIx) (x : Port) : (d.setPort p x).mem = d.mem := rfl
@[simp] theorem Device.setPort_prot (d : Device) (p : PortIx) (x : Port) : (d.setPort p x).prot = d.prot := rfl
@[simp] theorem Device.setPort_writer (d : Device) (p : PortIx) (x : Port) : (d.setPort p x).writer = d.writer := rfl
@[simp] theorem Device.setPort_writerAgain (d : Device) (p : PortIx) (x : Port) : (d.setPort p x).writerAgain = d.writerAgain := rfl
@[simp] theorem Device.setPort_notices (d : Device) (p : PortIx) (x : Port) : (d.setPort p x).notices = d.notices := rfl
@[simp] theorem Device.setPort_overflow (d : Device) (p : PortIx) (x : Port) : (d.setPort p x).overflow = d.overflow := rfl
@[simp] theorem Device.setPort_seq (d : Device) (p : PortIx) (x : Port) : (d.setPort p x).seq = d.seq := rfl
@[simp] theorem Device.setPort_sweep (d : Device) (p : PortIx) (x : Port) : (d.setPort p x).sweep = d.sweep := rfl
@[simp] theorem Device.setPort_planner (d : Device) (p : PortIx) (x : Port) : (d.setPort p x).planner = d.planner := rfl
@[simp] theorem Device.setPort_globals (d : Device) (p : PortIx) (x : Port) : (d.setPort p x).globals = d.globals := rfl
@[simp] theorem Device.setPort_follower (d : Device) (p : PortIx) (x : Port) : (d.setPort p x).follower = d.follower := rfl
@[simp] theorem Device.setPort_house (d : Device) (p : PortIx) (x : Port) : (d.setPort p x).house = d.house := rfl
@[simp] theorem Device.setPort_mode (d : Device) (p : PortIx) (x : Port) : (d.setPort p x).mode = d.mode := rfl
@[simp] theorem Device.setPort_service (d : Device) (p : PortIx) (x : Port) : (d.setPort p x).service = d.service := rfl
@[simp] theorem Device.setPort_keep (d : Device) (p : PortIx) (x : Port) : (d.setPort p x).keep = d.keep := rfl
@[simp] theorem Device.setPort_keepPending (d : Device) (p : PortIx) (x : Port) : (d.setPort p x).keepPending = d.keepPending := rfl
@[simp] theorem Device.setPort_capture (d : Device) (p : PortIx) (x : Port) : (d.setPort p x).capture = d.capture := rfl
@[simp] theorem Device.setPort_runEnable (d : Device) (p : PortIx) (x : Port) : (d.setPort p x).runEnable = d.runEnable := rfl
@[simp] theorem Device.setPort_attnEnable (d : Device) (p : PortIx) (x : Port) : (d.setPort p x).attnEnable = d.attnEnable := rfl
@[simp] theorem Device.setPort_attn (d : Device) (p : PortIx) (x : Port) : (d.setPort p x).attn = d.attn := rfl
@[simp] theorem Device.setPort_readData (d : Device) (p : PortIx) (x : Port) : (d.setPort p x).readData = d.readData := rfl

/-! ## modPort -/

@[simp] theorem Device.modPort_arbiter (d : Device) (p : PortIx) (f : Port → Port) : (d.modPort p f).arbiter = d.arbiter := rfl
@[simp] theorem Device.modPort_ahead (d : Device) (p : PortIx) (f : Port → Port) : (d.modPort p f).ahead = d.ahead := rfl
@[simp] theorem Device.modPort_turns (d : Device) (p : PortIx) (f : Port → Port) : (d.modPort p f).turns = d.turns := rfl
@[simp] theorem Device.modPort_time (d : Device) (p : PortIx) (f : Port → Port) : (d.modPort p f).time = d.time := rfl
@[simp] theorem Device.modPort_mem (d : Device) (p : PortIx) (f : Port → Port) : (d.modPort p f).mem = d.mem := rfl
@[simp] theorem Device.modPort_prot (d : Device) (p : PortIx) (f : Port → Port) : (d.modPort p f).prot = d.prot := rfl
@[simp] theorem Device.modPort_writer (d : Device) (p : PortIx) (f : Port → Port) : (d.modPort p f).writer = d.writer := rfl
@[simp] theorem Device.modPort_writerAgain (d : Device) (p : PortIx) (f : Port → Port) : (d.modPort p f).writerAgain = d.writerAgain := rfl
@[simp] theorem Device.modPort_notices (d : Device) (p : PortIx) (f : Port → Port) : (d.modPort p f).notices = d.notices := rfl
@[simp] theorem Device.modPort_overflow (d : Device) (p : PortIx) (f : Port → Port) : (d.modPort p f).overflow = d.overflow := rfl
@[simp] theorem Device.modPort_seq (d : Device) (p : PortIx) (f : Port → Port) : (d.modPort p f).seq = d.seq := rfl
@[simp] theorem Device.modPort_sweep (d : Device) (p : PortIx) (f : Port → Port) : (d.modPort p f).sweep = d.sweep := rfl
@[simp] theorem Device.modPort_planner (d : Device) (p : PortIx) (f : Port → Port) : (d.modPort p f).planner = d.planner := rfl
@[simp] theorem Device.modPort_globals (d : Device) (p : PortIx) (f : Port → Port) : (d.modPort p f).globals = d.globals := rfl
@[simp] theorem Device.modPort_follower (d : Device) (p : PortIx) (f : Port → Port) : (d.modPort p f).follower = d.follower := rfl
@[simp] theorem Device.modPort_house (d : Device) (p : PortIx) (f : Port → Port) : (d.modPort p f).house = d.house := rfl
@[simp] theorem Device.modPort_mode (d : Device) (p : PortIx) (f : Port → Port) : (d.modPort p f).mode = d.mode := rfl
@[simp] theorem Device.modPort_service (d : Device) (p : PortIx) (f : Port → Port) : (d.modPort p f).service = d.service := rfl
@[simp] theorem Device.modPort_keep (d : Device) (p : PortIx) (f : Port → Port) : (d.modPort p f).keep = d.keep := rfl
@[simp] theorem Device.modPort_keepPending (d : Device) (p : PortIx) (f : Port → Port) : (d.modPort p f).keepPending = d.keepPending := rfl
@[simp] theorem Device.modPort_capture (d : Device) (p : PortIx) (f : Port → Port) : (d.modPort p f).capture = d.capture := rfl
@[simp] theorem Device.modPort_runEnable (d : Device) (p : PortIx) (f : Port → Port) : (d.modPort p f).runEnable = d.runEnable := rfl
@[simp] theorem Device.modPort_attnEnable (d : Device) (p : PortIx) (f : Port → Port) : (d.modPort p f).attnEnable = d.attnEnable := rfl
@[simp] theorem Device.modPort_attn (d : Device) (p : PortIx) (f : Port → Port) : (d.modPort p f).attn = d.attn := rfl
@[simp] theorem Device.modPort_readData (d : Device) (p : PortIx) (f : Port → Port) : (d.modPort p f).readData = d.readData := rfl

/-! ## protect -/

@[simp] theorem Device.protect_arbiter (d : Device) (n : Nat) : (d.protect n).arbiter = d.arbiter := rfl
@[simp] theorem Device.protect_ahead (d : Device) (n : Nat) : (d.protect n).ahead = d.ahead := rfl
@[simp] theorem Device.protect_turns (d : Device) (n : Nat) : (d.protect n).turns = d.turns := rfl
@[simp] theorem Device.protect_time (d : Device) (n : Nat) : (d.protect n).time = d.time := rfl
@[simp] theorem Device.protect_mem (d : Device) (n : Nat) : (d.protect n).mem = d.mem := rfl
@[simp] theorem Device.protect_writer (d : Device) (n : Nat) : (d.protect n).writer = d.writer := rfl
@[simp] theorem Device.protect_writerAgain (d : Device) (n : Nat) : (d.protect n).writerAgain = d.writerAgain := rfl
@[simp] theorem Device.protect_notices (d : Device) (n : Nat) : (d.protect n).notices = d.notices := rfl
@[simp] theorem Device.protect_overflow (d : Device) (n : Nat) : (d.protect n).overflow = d.overflow := rfl
@[simp] theorem Device.protect_seq (d : Device) (n : Nat) : (d.protect n).seq = d.seq := rfl
@[simp] theorem Device.protect_sweep (d : Device) (n : Nat) : (d.protect n).sweep = d.sweep := rfl
@[simp] theorem Device.protect_planner (d : Device) (n : Nat) : (d.protect n).planner = d.planner := rfl
@[simp] theorem Device.protect_globals (d : Device) (n : Nat) : (d.protect n).globals = d.globals := rfl
@[simp] theorem Device.protect_follower (d : Device) (n : Nat) : (d.protect n).follower = d.follower := rfl
@[simp] theorem Device.protect_ports (d : Device) (n : Nat) : (d.protect n).ports = d.ports := rfl
@[simp] theorem Device.protect_house (d : Device) (n : Nat) : (d.protect n).house = d.house := rfl
@[simp] theorem Device.protect_mode (d : Device) (n : Nat) : (d.protect n).mode = d.mode := rfl
@[simp] theorem Device.protect_service (d : Device) (n : Nat) : (d.protect n).service = d.service := rfl
@[simp] theorem Device.protect_keep (d : Device) (n : Nat) : (d.protect n).keep = d.keep := rfl
@[simp] theorem Device.protect_keepPending (d : Device) (n : Nat) : (d.protect n).keepPending = d.keepPending := rfl
@[simp] theorem Device.protect_capture (d : Device) (n : Nat) : (d.protect n).capture = d.capture := rfl
@[simp] theorem Device.protect_runEnable (d : Device) (n : Nat) : (d.protect n).runEnable = d.runEnable := rfl
@[simp] theorem Device.protect_attnEnable (d : Device) (n : Nat) : (d.protect n).attnEnable = d.attnEnable := rfl
@[simp] theorem Device.protect_attn (d : Device) (n : Nat) : (d.protect n).attn = d.attn := rfl
@[simp] theorem Device.protect_readData (d : Device) (n : Nat) : (d.protect n).readData = d.readData := rfl
@[simp] theorem Device.protect_port (d : Device) (n : Nat) (q : PortIx) : (d.protect n).port q = d.port q := rfl

/-! ## unprotect -/

@[simp] theorem Device.unprotect_arbiter (d : Device) (n : Nat) : (d.unprotect n).arbiter = d.arbiter := rfl
@[simp] theorem Device.unprotect_ahead (d : Device) (n : Nat) : (d.unprotect n).ahead = d.ahead := rfl
@[simp] theorem Device.unprotect_turns (d : Device) (n : Nat) : (d.unprotect n).turns = d.turns := rfl
@[simp] theorem Device.unprotect_time (d : Device) (n : Nat) : (d.unprotect n).time = d.time := rfl
@[simp] theorem Device.unprotect_mem (d : Device) (n : Nat) : (d.unprotect n).mem = d.mem := rfl
@[simp] theorem Device.unprotect_writer (d : Device) (n : Nat) : (d.unprotect n).writer = d.writer := rfl
@[simp] theorem Device.unprotect_writerAgain (d : Device) (n : Nat) : (d.unprotect n).writerAgain = d.writerAgain := rfl
@[simp] theorem Device.unprotect_notices (d : Device) (n : Nat) : (d.unprotect n).notices = d.notices := rfl
@[simp] theorem Device.unprotect_overflow (d : Device) (n : Nat) : (d.unprotect n).overflow = d.overflow := rfl
@[simp] theorem Device.unprotect_seq (d : Device) (n : Nat) : (d.unprotect n).seq = d.seq := rfl
@[simp] theorem Device.unprotect_sweep (d : Device) (n : Nat) : (d.unprotect n).sweep = d.sweep := rfl
@[simp] theorem Device.unprotect_planner (d : Device) (n : Nat) : (d.unprotect n).planner = d.planner := rfl
@[simp] theorem Device.unprotect_globals (d : Device) (n : Nat) : (d.unprotect n).globals = d.globals := rfl
@[simp] theorem Device.unprotect_follower (d : Device) (n : Nat) : (d.unprotect n).follower = d.follower := rfl
@[simp] theorem Device.unprotect_ports (d : Device) (n : Nat) : (d.unprotect n).ports = d.ports := rfl
@[simp] theorem Device.unprotect_house (d : Device) (n : Nat) : (d.unprotect n).house = d.house := rfl
@[simp] theorem Device.unprotect_mode (d : Device) (n : Nat) : (d.unprotect n).mode = d.mode := rfl
@[simp] theorem Device.unprotect_service (d : Device) (n : Nat) : (d.unprotect n).service = d.service := rfl
@[simp] theorem Device.unprotect_keep (d : Device) (n : Nat) : (d.unprotect n).keep = d.keep := rfl
@[simp] theorem Device.unprotect_keepPending (d : Device) (n : Nat) : (d.unprotect n).keepPending = d.keepPending := rfl
@[simp] theorem Device.unprotect_capture (d : Device) (n : Nat) : (d.unprotect n).capture = d.capture := rfl
@[simp] theorem Device.unprotect_runEnable (d : Device) (n : Nat) : (d.unprotect n).runEnable = d.runEnable := rfl
@[simp] theorem Device.unprotect_attnEnable (d : Device) (n : Nat) : (d.unprotect n).attnEnable = d.attnEnable := rfl
@[simp] theorem Device.unprotect_attn (d : Device) (n : Nat) : (d.unprotect n).attn = d.attn := rfl
@[simp] theorem Device.unprotect_readData (d : Device) (n : Nat) : (d.unprotect n).readData = d.readData := rfl
@[simp] theorem Device.unprotect_port (d : Device) (n : Nat) (q : PortIx) : (d.unprotect n).port q = d.port q := rfl

@[simp] theorem Device.protect_prot (d : Device) (n : Nat) : (d.protect n).prot = insertNat n d.prot := rfl
@[simp] theorem Device.unprotect_prot (d : Device) (n : Nat) : (d.unprotect n).prot = d.prot.filter (· != n) := rfl
@[simp] theorem Device.latch_attn (d : Device) (c : Cause) : (d.latch c).attn = d.attn ||| c.bit := rfl

/-! ## requestStatus -/

@[simp] theorem Device.requestStatus_arbiter (d : Device) : d.requestStatus.arbiter = d.arbiter := by unfold Device.requestStatus; split <;> rfl
@[simp] theorem Device.requestStatus_time (d : Device) : d.requestStatus.time = d.time := by unfold Device.requestStatus; split <;> rfl
@[simp] theorem Device.requestStatus_mem (d : Device) : d.requestStatus.mem = d.mem := by unfold Device.requestStatus; split <;> rfl
@[simp] theorem Device.requestStatus_prot (d : Device) : d.requestStatus.prot = d.prot := by unfold Device.requestStatus; split <;> rfl
@[simp] theorem Device.requestStatus_notices (d : Device) : d.requestStatus.notices = d.notices := by unfold Device.requestStatus; split <;> rfl
@[simp] theorem Device.requestStatus_overflow (d : Device) : d.requestStatus.overflow = d.overflow := by unfold Device.requestStatus; split <;> rfl
@[simp] theorem Device.requestStatus_seq (d : Device) : d.requestStatus.seq = d.seq := by unfold Device.requestStatus; split <;> rfl
@[simp] theorem Device.requestStatus_sweep (d : Device) : d.requestStatus.sweep = d.sweep := by unfold Device.requestStatus; split <;> rfl
@[simp] theorem Device.requestStatus_planner (d : Device) : d.requestStatus.planner = d.planner := by unfold Device.requestStatus; split <;> rfl
@[simp] theorem Device.requestStatus_globals (d : Device) : d.requestStatus.globals = d.globals := by unfold Device.requestStatus; split <;> rfl
@[simp] theorem Device.requestStatus_follower (d : Device) : d.requestStatus.follower = d.follower := by unfold Device.requestStatus; split <;> rfl
@[simp] theorem Device.requestStatus_ports (d : Device) : d.requestStatus.ports = d.ports := by unfold Device.requestStatus; split <;> rfl
@[simp] theorem Device.requestStatus_house (d : Device) : d.requestStatus.house = d.house := by unfold Device.requestStatus; split <;> rfl
@[simp] theorem Device.requestStatus_mode (d : Device) : d.requestStatus.mode = d.mode := by unfold Device.requestStatus; split <;> rfl
@[simp] theorem Device.requestStatus_service (d : Device) : d.requestStatus.service = d.service := by unfold Device.requestStatus; split <;> rfl
@[simp] theorem Device.requestStatus_keep (d : Device) : d.requestStatus.keep = d.keep := by unfold Device.requestStatus; split <;> rfl
@[simp] theorem Device.requestStatus_keepPending (d : Device) : d.requestStatus.keepPending = d.keepPending := by unfold Device.requestStatus; split <;> rfl
@[simp] theorem Device.requestStatus_capture (d : Device) : d.requestStatus.capture = d.capture := by unfold Device.requestStatus; split <;> rfl
@[simp] theorem Device.requestStatus_runEnable (d : Device) : d.requestStatus.runEnable = d.runEnable := by unfold Device.requestStatus; split <;> rfl
@[simp] theorem Device.requestStatus_attnEnable (d : Device) : d.requestStatus.attnEnable = d.attnEnable := by unfold Device.requestStatus; split <;> rfl
@[simp] theorem Device.requestStatus_attn (d : Device) : d.requestStatus.attn = d.attn := by unfold Device.requestStatus; split <;> rfl
@[simp] theorem Device.requestStatus_readData (d : Device) : d.requestStatus.readData = d.readData := by unfold Device.requestStatus; split <;> rfl
@[simp] theorem Device.requestStatus_port (d : Device) (q : PortIx) : d.requestStatus.port q = d.port q := by
  unfold Device.requestStatus; split <;> rfl

/-- After a request a status write is under way. -/
theorem Device.requestStatus_writer (d : Device) : d.requestStatus.writer.isSome = true := by
  unfold Device.requestStatus
  split
  · rfl
  · rename_i h; simp [h]

/-! ## captureFault -/

@[simp] theorem Device.captureFault_arbiter (d : Device) (k : FaultKind) (p n : Option Nat) : (d.captureFault k p n).arbiter = d.arbiter := by
  unfold Device.captureFault; split
  · simp
  · split <;> simp
@[simp] theorem Device.captureFault_time (d : Device) (k : FaultKind) (p n : Option Nat) : (d.captureFault k p n).time = d.time := by
  unfold Device.captureFault; split
  · simp
  · split <;> simp
@[simp] theorem Device.captureFault_mem (d : Device) (k : FaultKind) (p n : Option Nat) : (d.captureFault k p n).mem = d.mem := by
  unfold Device.captureFault; split
  · simp
  · split <;> simp
@[simp] theorem Device.captureFault_prot (d : Device) (k : FaultKind) (p n : Option Nat) : (d.captureFault k p n).prot = d.prot := by
  unfold Device.captureFault; split
  · simp
  · split <;> simp
@[simp] theorem Device.captureFault_notices (d : Device) (k : FaultKind) (p n : Option Nat) : (d.captureFault k p n).notices = d.notices := by
  unfold Device.captureFault; split
  · simp
  · split <;> simp
@[simp] theorem Device.captureFault_overflow (d : Device) (k : FaultKind) (p n : Option Nat) : (d.captureFault k p n).overflow = d.overflow := by
  unfold Device.captureFault; split
  · simp
  · split <;> simp
@[simp] theorem Device.captureFault_seq (d : Device) (k : FaultKind) (p n : Option Nat) : (d.captureFault k p n).seq = d.seq := by
  unfold Device.captureFault; split
  · simp
  · split <;> simp
@[simp] theorem Device.captureFault_sweep (d : Device) (k : FaultKind) (p n : Option Nat) : (d.captureFault k p n).sweep = d.sweep := by
  unfold Device.captureFault; split
  · simp
  · split <;> simp
@[simp] theorem Device.captureFault_planner (d : Device) (k : FaultKind) (p n : Option Nat) : (d.captureFault k p n).planner = d.planner := by
  unfold Device.captureFault; split
  · simp
  · split <;> simp
@[simp] theorem Device.captureFault_globals (d : Device) (k : FaultKind) (p n : Option Nat) : (d.captureFault k p n).globals = d.globals := by
  unfold Device.captureFault; split
  · simp
  · split <;> simp
@[simp] theorem Device.captureFault_follower (d : Device) (k : FaultKind) (p n : Option Nat) : (d.captureFault k p n).follower = d.follower := by
  unfold Device.captureFault; split
  · simp
  · split <;> simp
@[simp] theorem Device.captureFault_ports (d : Device) (k : FaultKind) (p n : Option Nat) : (d.captureFault k p n).ports = d.ports := by
  unfold Device.captureFault; split
  · simp
  · split <;> simp
@[simp] theorem Device.captureFault_house (d : Device) (k : FaultKind) (p n : Option Nat) : (d.captureFault k p n).house = d.house := by
  unfold Device.captureFault; split
  · simp
  · split <;> simp
@[simp] theorem Device.captureFault_mode (d : Device) (k : FaultKind) (p n : Option Nat) : (d.captureFault k p n).mode = d.mode := by
  unfold Device.captureFault; split
  · simp
  · split <;> simp
@[simp] theorem Device.captureFault_service (d : Device) (k : FaultKind) (p n : Option Nat) : (d.captureFault k p n).service = d.service := by
  unfold Device.captureFault; split
  · simp
  · split <;> simp
@[simp] theorem Device.captureFault_keep (d : Device) (k : FaultKind) (p n : Option Nat) : (d.captureFault k p n).keep = d.keep := by
  unfold Device.captureFault; split
  · simp
  · split <;> simp
@[simp] theorem Device.captureFault_keepPending (d : Device) (k : FaultKind) (p n : Option Nat) : (d.captureFault k p n).keepPending = d.keepPending := by
  unfold Device.captureFault; split
  · simp
  · split <;> simp
@[simp] theorem Device.captureFault_runEnable (d : Device) (k : FaultKind) (p n : Option Nat) : (d.captureFault k p n).runEnable = d.runEnable := by
  unfold Device.captureFault; split
  · simp
  · split <;> simp
@[simp] theorem Device.captureFault_attnEnable (d : Device) (k : FaultKind) (p n : Option Nat) : (d.captureFault k p n).attnEnable = d.attnEnable := by
  unfold Device.captureFault; split
  · simp
  · split <;> simp
@[simp] theorem Device.captureFault_readData (d : Device) (k : FaultKind) (p n : Option Nat) : (d.captureFault k p n).readData = d.readData := by
  unfold Device.captureFault; split
  · simp
  · split <;> simp
@[simp] theorem Device.captureFault_port (d : Device) (k : FaultKind) (p n : Option Nat) (q : PortIx) : (d.captureFault k p n).port q = d.port q := by
  unfold Device.captureFault; split
  · simp [Device.port]
  · split <;> simp [Device.port]
@[simp] theorem Device.captureFault_attn (d : Device) (k : FaultKind) (p n : Option Nat) : (d.captureFault k p n).attn = d.attn ||| Cause.bit .fault := by
  unfold Device.captureFault; split
  · simp
  · split <;> simp

/-! ## write -/

@[simp] theorem Device.write_time (d : Device) (a n v : Nat) : (d.write a n v).time = d.time := rfl
@[simp] theorem Device.write_arbiter (d : Device) (a n v : Nat) : (d.write a n v).arbiter = d.arbiter := rfl
@[simp] theorem Device.write_ahead (d : Device) (a n v : Nat) : (d.write a n v).ahead = d.ahead := rfl
@[simp] theorem Device.write_turns (d : Device) (a n v : Nat) : (d.write a n v).turns = d.turns := rfl
@[simp] theorem Device.write_prot (d : Device) (a n v : Nat) : (d.write a n v).prot = d.prot := rfl
@[simp] theorem Device.write_writer (d : Device) (a n v : Nat) : (d.write a n v).writer = d.writer := rfl
@[simp] theorem Device.write_writerAgain (d : Device) (a n v : Nat) : (d.write a n v).writerAgain = d.writerAgain := rfl
@[simp] theorem Device.write_notices (d : Device) (a n v : Nat) : (d.write a n v).notices = d.notices := rfl
@[simp] theorem Device.write_overflow (d : Device) (a n v : Nat) : (d.write a n v).overflow = d.overflow := rfl
@[simp] theorem Device.write_seq (d : Device) (a n v : Nat) : (d.write a n v).seq = d.seq := rfl
@[simp] theorem Device.write_sweep (d : Device) (a n v : Nat) : (d.write a n v).sweep = d.sweep := rfl
@[simp] theorem Device.write_planner (d : Device) (a n v : Nat) : (d.write a n v).planner = d.planner := rfl
@[simp] theorem Device.write_globals (d : Device) (a n v : Nat) : (d.write a n v).globals = d.globals := rfl
@[simp] theorem Device.write_follower (d : Device) (a n v : Nat) : (d.write a n v).follower = d.follower := rfl
@[simp] theorem Device.write_ports (d : Device) (a n v : Nat) : (d.write a n v).ports = d.ports := rfl
@[simp] theorem Device.write_house (d : Device) (a n v : Nat) : (d.write a n v).house = d.house := rfl
@[simp] theorem Device.write_mode (d : Device) (a n v : Nat) : (d.write a n v).mode = d.mode := rfl
@[simp] theorem Device.write_service (d : Device) (a n v : Nat) : (d.write a n v).service = d.service := rfl
@[simp] theorem Device.write_keep (d : Device) (a n v : Nat) : (d.write a n v).keep = d.keep := rfl
@[simp] theorem Device.write_keepPending (d : Device) (a n v : Nat) : (d.write a n v).keepPending = d.keepPending := rfl
@[simp] theorem Device.write_capture (d : Device) (a n v : Nat) : (d.write a n v).capture = d.capture := rfl
@[simp] theorem Device.write_runEnable (d : Device) (a n v : Nat) : (d.write a n v).runEnable = d.runEnable := rfl
@[simp] theorem Device.write_attnEnable (d : Device) (a n v : Nat) : (d.write a n v).attnEnable = d.attnEnable := rfl
@[simp] theorem Device.write_attn (d : Device) (a n v : Nat) : (d.write a n v).attn = d.attn := rfl
@[simp] theorem Device.write_readData (d : Device) (a n v : Nat) : (d.write a n v).readData = d.readData := rfl
@[simp] theorem Device.write_mem (d : Device) (a n v : Nat) : (d.write a n v).mem = Memory.writeLE d.mem a n v := rfl
@[simp] theorem Device.write_port (d : Device) (a n v : Nat) (q : PortIx) : (d.write a n v).port q = d.port q := rfl

/-! ## What a host access may change -/

/-- d with what a host write access may change taken from e. -/
def Device.hostPart (d e : Device) : Device :=
  { d with mem := e.mem, arbiter := e.arbiter, writer := e.writer, writerAgain := e.writerAgain, notices := e.notices, overflow := e.overflow, keep := e.keep,
           keepPending := e.keepPending, capture := e.capture, attn := e.attn }

/-- e is d after host accesses: it differs from d at most in memory, arbiter, status writer, notice list, KEEP, capture record and causes. -/
def HostOnly (d e : Device) : Prop := e = d.hostPart e

theorem HostOnly.refl (d : Device) : HostOnly d d := rfl

theorem HostOnly.trans {d e f : Device} (a : HostOnly d e) (b : HostOnly e f) : HostOnly d f := by
  unfold HostOnly at *
  rw [b, a]
  rfl

theorem HostOnly.ofArbiter (d : Device) (l : List WaitingAccess) : HostOnly d { d with arbiter := l } := rfl

theorem HostOnly.requestStatus (d : Device) : HostOnly d d.requestStatus := by
  unfold Device.requestStatus
  split <;> rfl

theorem HostOnly.captureFault (d : Device) (k : FaultKind) (p n : Option Nat) : HostOnly d (d.captureFault k p n) := by
  unfold Device.captureFault
  split
  · refine HostOnly.trans ?_ (HostOnly.requestStatus _)
    rfl
  · split
    · refine HostOnly.trans ?_ (HostOnly.requestStatus _)
      rfl
    · rfl

theorem HostOnly.landBytes (d : Device) (a : Nat) (l : List Byte) : HostOnly d (d.landBytes a l) := rfl

theorem HostOnly.landSlot (d : Device) (a : Nat) (l : List Byte) : HostOnly d (d.landSlot a l) := by
  unfold Device.landSlot
  split
  · split <;> rfl
  · rfl

theorem HostOnly.giveBack (d : Device) (n : Nat) : HostOnly d (d.giveBack n) := by
  unfold Device.giveBack
  split
  · rfl
  · split
    · split
      · rfl
      · split <;> rfl
    · rfl

theorem HostOnly.offer (d : Device) (n : Nat) : HostOnly d (d.offer n) := by
  unfold Device.offer
  split
  · rfl
  · split
    · rfl
    · unfold Device.overflowNotice
      refine HostOnly.trans ?_ (HostOnly.captureFault _ _ _ _)
      split
      · rfl
      · exact HostOnly.trans (e := { d with overflow := true }) rfl (HostOnly.requestStatus _)

theorem HostOnly.slotWrite (d : Device) (a : Nat) (l : List Byte) : HostOnly d (d.slotWrite a l) := by
  unfold Device.slotWrite
  split
  · exact HostOnly.captureFault _ _ _ _
  · have h := (HostOnly.landSlot d a l).trans (HostOnly.giveBack _ (slotOf a))
    simp only
    split
    · exact h.trans (HostOnly.offer _ _)
    · exact h

/-- A host write access changes nothing of the timeline, the ports, the follower, the supervision or the protection flags. -/
theorem HostOnly.serve (d : Device) (w : WaitingAccess) : HostOnly d (d.serve w) := by
  unfold Device.serve Device.hostWrite
  split
  · exact HostOnly.captureFault _ _ _ _
  · exact HostOnly.landBytes _ _ _
  · exact HostOnly.slotWrite _ _ _
  · exact HostOnly.landBytes _ _ _

theorem HostOnly.letIn : ∀ (n : Nat) (d : Device), HostOnly d (Device.letIn n d)
  | 0, d => HostOnly.refl d
  | n + 1, d => by
    unfold Device.letIn
    split
    · exact HostOnly.refl d
    · split
      · exact ((HostOnly.ofArbiter d _).trans (HostOnly.serve _ _)).trans (HostOnly.letIn n _)
      · exact HostOnly.refl d

theorem HostOnly.pass (d : Device) : HostOnly d d.pass := (HostOnly.ofArbiter d _).trans (HostOnly.letIn _ _)

theorem HostOnly.poke (d : Device) (a n v : Nat) : HostOnly d (d.poke a n v) := HostOnly.trans (e := d.write a n v) rfl (HostOnly.pass _)

theorem HostOnly.setFinished (d : Device) (n : Nat) : HostOnly d (d.setFinished n) := by
  unfold Device.setFinished
  refine HostOnly.trans ?_ (HostOnly.pass _)
  rfl

theorem HostOnly.copyBytes : ∀ (n a : Nat) (d : Device), HostOnly d (Device.copyBytes n a d).2
  | 0, _, d => HostOnly.refl d
  | n + 1, a, d => (HostOnly.pass d).trans (HostOnly.copyBytes n (a + 1) d.pass)

theorem HostOnly.copyLevels (d : Device) (a : Nat) : HostOnly d (d.copyLevels a).2 := by
  simp only [Device.copyLevels]
  exact HostOnly.copyBytes 192 a d

/-! ## While no host access waits -/

theorem Device.pass_quiet {d : Device} (h : d.arbiter = []) : d.pass = d := by
  cases d; cases h; rfl

theorem Device.poke_quiet {d : Device} (h : d.arbiter = []) (a n v : Nat) : d.poke a n v = d.write a n v :=
  Device.pass_quiet (d := d.write a n v) h

/-- What setting a finished-map bit is while no host access waits. -/
theorem Device.setFinished_quiet {d : Device} (h : d.arbiter = []) (n : Nat) : d.setFinished n =
    ({ d with mem := Memory.write d.mem (mapBase + n / 8) (Memory.read d.mem (mapBase + n / 8) ||| (1 <<< (n % 8))) }).latch .finished :=
  Device.pass_quiet (d := ({ d with mem := _ } : Device).latch .finished) h

theorem Device.writeFinal_quiet {d : Device} (h : d.arbiter = []) (n st : Nat) : d.writeFinal n st = (d.write (slotBase n) 1 st).unprotect n :=
  Device.pass_quiet (d := (d.write (slotBase n) 1 st).unprotect n) h

theorem Device.copyBytes_quiet : ∀ (n a : Nat) {d : Device}, d.arbiter = [] →
    Device.copyBytes n a d = ((List.range n).map (fun c => Memory.read d.mem (a + c)), d)
  | 0, _, _, _ => rfl
  | n + 1, a, d, h => by
    unfold Device.copyBytes
    rw [Device.pass_quiet h, Device.copyBytes_quiet n (a + 1) h, List.range_succ_eq_map]
    simp [Function.comp_def, Nat.add_assoc, Nat.add_comm 1]

/-- A copy takes the levels as they stand while no host access waits. -/
theorem Device.copyLevels_quiet {d : Device} (h : d.arbiter = []) (a : Nat) : d.copyLevels a = (d.levelsAt a, d) := by
  unfold Device.copyLevels Device.levelsAt
  simp only [Device.copyBytes_quiet 192 a h]

/-! ## pass, poke, setFinished, finishSlot: the fields that no host access changes -/

@[simp] theorem Device.pass_time (d : Device) : (d.pass).time = d.time := (congrArg Device.time (HostOnly.pass d) :)
@[simp] theorem Device.pass_ahead (d : Device) : (d.pass).ahead = d.ahead := (congrArg Device.ahead (HostOnly.pass d) :)
@[simp] theorem Device.pass_turns (d : Device) : (d.pass).turns = d.turns := (congrArg Device.turns (HostOnly.pass d) :)
@[simp] theorem Device.pass_prot (d : Device) : (d.pass).prot = d.prot := (congrArg Device.prot (HostOnly.pass d) :)
@[simp] theorem Device.pass_seq (d : Device) : (d.pass).seq = d.seq := (congrArg Device.seq (HostOnly.pass d) :)
@[simp] theorem Device.pass_sweep (d : Device) : (d.pass).sweep = d.sweep := (congrArg Device.sweep (HostOnly.pass d) :)
@[simp] theorem Device.pass_planner (d : Device) : (d.pass).planner = d.planner := (congrArg Device.planner (HostOnly.pass d) :)
@[simp] theorem Device.pass_globals (d : Device) : (d.pass).globals = d.globals := (congrArg Device.globals (HostOnly.pass d) :)
@[simp] theorem Device.pass_follower (d : Device) : (d.pass).follower = d.follower := (congrArg Device.follower (HostOnly.pass d) :)
@[simp] theorem Device.pass_ports (d : Device) : (d.pass).ports = d.ports := (congrArg Device.ports (HostOnly.pass d) :)
@[simp] theorem Device.pass_house (d : Device) : (d.pass).house = d.house := (congrArg Device.house (HostOnly.pass d) :)
@[simp] theorem Device.pass_mode (d : Device) : (d.pass).mode = d.mode := (congrArg Device.mode (HostOnly.pass d) :)
@[simp] theorem Device.pass_service (d : Device) : (d.pass).service = d.service := (congrArg Device.service (HostOnly.pass d) :)
@[simp] theorem Device.pass_runEnable (d : Device) : (d.pass).runEnable = d.runEnable := (congrArg Device.runEnable (HostOnly.pass d) :)
@[simp] theorem Device.pass_attnEnable (d : Device) : (d.pass).attnEnable = d.attnEnable := (congrArg Device.attnEnable (HostOnly.pass d) :)
@[simp] theorem Device.pass_readData (d : Device) : (d.pass).readData = d.readData := (congrArg Device.readData (HostOnly.pass d) :)
@[simp] theorem Device.pass_port (d : Device) (q : PortIx) : (d.pass).port q = d.port q := congrArg (fun v : Vector Port 24 => v.get q) (d.pass_ports )

@[simp] theorem Device.poke_time (d : Device) (a n v : Nat): (d.poke a n v).time = d.time := (congrArg Device.time (HostOnly.poke d a n v) :)
@[simp] theorem Device.poke_ahead (d : Device) (a n v : Nat): (d.poke a n v).ahead = d.ahead := (congrArg Device.ahead (HostOnly.poke d a n v) :)
@[simp] theorem Device.poke_turns (d : Device) (a n v : Nat): (d.poke a n v).turns = d.turns := (congrArg Device.turns (HostOnly.poke d a n v) :)
@[simp] theorem Device.poke_prot (d : Device) (a n v : Nat): (d.poke a n v).prot = d.prot := (congrArg Device.prot (HostOnly.poke d a n v) :)
@[simp] theorem Device.poke_seq (d : Device) (a n v : Nat): (d.poke a n v).seq = d.seq := (congrArg Device.seq (HostOnly.poke d a n v) :)
@[simp] theorem Device.poke_sweep (d : Device) (a n v : Nat): (d.poke a n v).sweep = d.sweep := (congrArg Device.sweep (HostOnly.poke d a n v) :)
@[simp] theorem Device.poke_planner (d : Device) (a n v : Nat): (d.poke a n v).planner = d.planner := (congrArg Device.planner (HostOnly.poke d a n v) :)
@[simp] theorem Device.poke_globals (d : Device) (a n v : Nat): (d.poke a n v).globals = d.globals := (congrArg Device.globals (HostOnly.poke d a n v) :)
@[simp] theorem Device.poke_follower (d : Device) (a n v : Nat): (d.poke a n v).follower = d.follower := (congrArg Device.follower (HostOnly.poke d a n v) :)
@[simp] theorem Device.poke_ports (d : Device) (a n v : Nat): (d.poke a n v).ports = d.ports := (congrArg Device.ports (HostOnly.poke d a n v) :)
@[simp] theorem Device.poke_house (d : Device) (a n v : Nat): (d.poke a n v).house = d.house := (congrArg Device.house (HostOnly.poke d a n v) :)
@[simp] theorem Device.poke_mode (d : Device) (a n v : Nat): (d.poke a n v).mode = d.mode := (congrArg Device.mode (HostOnly.poke d a n v) :)
@[simp] theorem Device.poke_service (d : Device) (a n v : Nat): (d.poke a n v).service = d.service := (congrArg Device.service (HostOnly.poke d a n v) :)
@[simp] theorem Device.poke_runEnable (d : Device) (a n v : Nat): (d.poke a n v).runEnable = d.runEnable := (congrArg Device.runEnable (HostOnly.poke d a n v) :)
@[simp] theorem Device.poke_attnEnable (d : Device) (a n v : Nat): (d.poke a n v).attnEnable = d.attnEnable := (congrArg Device.attnEnable (HostOnly.poke d a n v) :)
@[simp] theorem Device.poke_readData (d : Device) (a n v : Nat): (d.poke a n v).readData = d.readData := (congrArg Device.readData (HostOnly.poke d a n v) :)
@[simp] theorem Device.poke_port (d : Device) (a n v : Nat)(q : PortIx) : (d.poke a n v).port q = d.port q := congrArg (fun v : Vector Port 24 => v.get q) (d.poke_ports a n v)

@[simp] theorem Device.setFinished_time (d : Device) (n : Nat): (d.setFinished n).time = d.time := (congrArg Device.time (HostOnly.setFinished d n) :)
@[simp] theorem Device.setFinished_ahead (d : Device) (n : Nat): (d.setFinished n).ahead = d.ahead := (congrArg Device.ahead (HostOnly.setFinished d n) :)
@[simp] theorem Device.setFinished_turns (d : Device) (n : Nat): (d.setFinished n).turns = d.turns := (congrArg Device.turns (HostOnly.setFinished d n) :)
@[simp] theorem Device.setFinished_prot (d : Device) (n : Nat): (d.setFinished n).prot = d.prot := (congrArg Device.prot (HostOnly.setFinished d n) :)
@[simp] theorem Device.setFinished_seq (d : Device) (n : Nat): (d.setFinished n).seq = d.seq := (congrArg Device.seq (HostOnly.setFinished d n) :)
@[simp] theorem Device.setFinished_sweep (d : Device) (n : Nat): (d.setFinished n).sweep = d.sweep := (congrArg Device.sweep (HostOnly.setFinished d n) :)
@[simp] theorem Device.setFinished_planner (d : Device) (n : Nat): (d.setFinished n).planner = d.planner := (congrArg Device.planner (HostOnly.setFinished d n) :)
@[simp] theorem Device.setFinished_globals (d : Device) (n : Nat): (d.setFinished n).globals = d.globals := (congrArg Device.globals (HostOnly.setFinished d n) :)
@[simp] theorem Device.setFinished_follower (d : Device) (n : Nat): (d.setFinished n).follower = d.follower := (congrArg Device.follower (HostOnly.setFinished d n) :)
@[simp] theorem Device.setFinished_ports (d : Device) (n : Nat): (d.setFinished n).ports = d.ports := (congrArg Device.ports (HostOnly.setFinished d n) :)
@[simp] theorem Device.setFinished_house (d : Device) (n : Nat): (d.setFinished n).house = d.house := (congrArg Device.house (HostOnly.setFinished d n) :)
@[simp] theorem Device.setFinished_mode (d : Device) (n : Nat): (d.setFinished n).mode = d.mode := (congrArg Device.mode (HostOnly.setFinished d n) :)
@[simp] theorem Device.setFinished_service (d : Device) (n : Nat): (d.setFinished n).service = d.service := (congrArg Device.service (HostOnly.setFinished d n) :)
@[simp] theorem Device.setFinished_runEnable (d : Device) (n : Nat): (d.setFinished n).runEnable = d.runEnable := (congrArg Device.runEnable (HostOnly.setFinished d n) :)
@[simp] theorem Device.setFinished_attnEnable (d : Device) (n : Nat): (d.setFinished n).attnEnable = d.attnEnable := (congrArg Device.attnEnable (HostOnly.setFinished d n) :)
@[simp] theorem Device.setFinished_readData (d : Device) (n : Nat): (d.setFinished n).readData = d.readData := (congrArg Device.readData (HostOnly.setFinished d n) :)
@[simp] theorem Device.setFinished_port (d : Device) (n : Nat)(q : PortIx) : (d.setFinished n).port q = d.port q := congrArg (fun v : Vector Port 24 => v.get q) (d.setFinished_ports n)

@[simp] theorem Device.serve_time (d : Device) (w : WaitingAccess): (d.serve w).time = d.time := (congrArg Device.time (HostOnly.serve d w) :)
@[simp] theorem Device.serve_ahead (d : Device) (w : WaitingAccess): (d.serve w).ahead = d.ahead := (congrArg Device.ahead (HostOnly.serve d w) :)
@[simp] theorem Device.serve_turns (d : Device) (w : WaitingAccess): (d.serve w).turns = d.turns := (congrArg Device.turns (HostOnly.serve d w) :)
@[simp] theorem Device.serve_prot (d : Device) (w : WaitingAccess): (d.serve w).prot = d.prot := (congrArg Device.prot (HostOnly.serve d w) :)
@[simp] theorem Device.serve_seq (d : Device) (w : WaitingAccess): (d.serve w).seq = d.seq := (congrArg Device.seq (HostOnly.serve d w) :)
@[simp] theorem Device.serve_sweep (d : Device) (w : WaitingAccess): (d.serve w).sweep = d.sweep := (congrArg Device.sweep (HostOnly.serve d w) :)
@[simp] theorem Device.serve_planner (d : Device) (w : WaitingAccess): (d.serve w).planner = d.planner := (congrArg Device.planner (HostOnly.serve d w) :)
@[simp] theorem Device.serve_globals (d : Device) (w : WaitingAccess): (d.serve w).globals = d.globals := (congrArg Device.globals (HostOnly.serve d w) :)
@[simp] theorem Device.serve_follower (d : Device) (w : WaitingAccess): (d.serve w).follower = d.follower := (congrArg Device.follower (HostOnly.serve d w) :)
@[simp] theorem Device.serve_ports (d : Device) (w : WaitingAccess): (d.serve w).ports = d.ports := (congrArg Device.ports (HostOnly.serve d w) :)
@[simp] theorem Device.serve_house (d : Device) (w : WaitingAccess): (d.serve w).house = d.house := (congrArg Device.house (HostOnly.serve d w) :)
@[simp] theorem Device.serve_mode (d : Device) (w : WaitingAccess): (d.serve w).mode = d.mode := (congrArg Device.mode (HostOnly.serve d w) :)
@[simp] theorem Device.serve_service (d : Device) (w : WaitingAccess): (d.serve w).service = d.service := (congrArg Device.service (HostOnly.serve d w) :)
@[simp] theorem Device.serve_runEnable (d : Device) (w : WaitingAccess): (d.serve w).runEnable = d.runEnable := (congrArg Device.runEnable (HostOnly.serve d w) :)
@[simp] theorem Device.serve_attnEnable (d : Device) (w : WaitingAccess): (d.serve w).attnEnable = d.attnEnable := (congrArg Device.attnEnable (HostOnly.serve d w) :)
@[simp] theorem Device.serve_readData (d : Device) (w : WaitingAccess): (d.serve w).readData = d.readData := (congrArg Device.readData (HostOnly.serve d w) :)
@[simp] theorem Device.serve_port (d : Device) (w : WaitingAccess)(q : PortIx) : (d.serve w).port q = d.port q := congrArg (fun v : Vector Port 24 => v.get q) (d.serve_ports w)


@[simp] theorem Device.pass_arbiter {d : Device} (h : d.arbiter = []) : d.pass.arbiter = [] := by rw [Device.pass_quiet h, h]
@[simp] theorem Device.poke_arbiter {d : Device} (h : d.arbiter = []) (a n v : Nat) : (d.poke a n v).arbiter = [] := by rw [Device.poke_quiet h]; exact h
@[simp] theorem Device.setFinished_arbiter {d : Device} (h : d.arbiter = []) (n : Nat) : (d.setFinished n).arbiter = [] := by
  rw [Device.setFinished_quiet h]; exact h

@[simp] theorem Device.finishSlot_time (d : Device) (n st : Nat) (r : Result) : (d.finishSlot n st r).time = d.time := by simp [Device.finishSlot, Device.writeFinal, Device.writeResult]
@[simp] theorem Device.finishSlot_ahead (d : Device) (n st : Nat) (r : Result) : (d.finishSlot n st r).ahead = d.ahead := by simp [Device.finishSlot, Device.writeFinal, Device.writeResult]
@[simp] theorem Device.finishSlot_turns (d : Device) (n st : Nat) (r : Result) : (d.finishSlot n st r).turns = d.turns := by simp [Device.finishSlot, Device.writeFinal, Device.writeResult]
@[simp] theorem Device.finishSlot_seq (d : Device) (n st : Nat) (r : Result) : (d.finishSlot n st r).seq = d.seq := by simp [Device.finishSlot, Device.writeFinal, Device.writeResult]
@[simp] theorem Device.finishSlot_sweep (d : Device) (n st : Nat) (r : Result) : (d.finishSlot n st r).sweep = d.sweep := by simp [Device.finishSlot, Device.writeFinal, Device.writeResult]
@[simp] theorem Device.finishSlot_planner (d : Device) (n st : Nat) (r : Result) : (d.finishSlot n st r).planner = d.planner := by simp [Device.finishSlot, Device.writeFinal, Device.writeResult]
@[simp] theorem Device.finishSlot_globals (d : Device) (n st : Nat) (r : Result) : (d.finishSlot n st r).globals = d.globals := by simp [Device.finishSlot, Device.writeFinal, Device.writeResult]
@[simp] theorem Device.finishSlot_follower (d : Device) (n st : Nat) (r : Result) : (d.finishSlot n st r).follower = d.follower := by simp [Device.finishSlot, Device.writeFinal, Device.writeResult]
@[simp] theorem Device.finishSlot_ports (d : Device) (n st : Nat) (r : Result) : (d.finishSlot n st r).ports = d.ports := by simp [Device.finishSlot, Device.writeFinal, Device.writeResult]
@[simp] theorem Device.finishSlot_house (d : Device) (n st : Nat) (r : Result) : (d.finishSlot n st r).house = d.house := by simp [Device.finishSlot, Device.writeFinal, Device.writeResult]
@[simp] theorem Device.finishSlot_mode (d : Device) (n st : Nat) (r : Result) : (d.finishSlot n st r).mode = d.mode := by simp [Device.finishSlot, Device.writeFinal, Device.writeResult]
@[simp] theorem Device.finishSlot_service (d : Device) (n st : Nat) (r : Result) : (d.finishSlot n st r).service = d.service := by simp [Device.finishSlot, Device.writeFinal, Device.writeResult]
@[simp] theorem Device.finishSlot_runEnable (d : Device) (n st : Nat) (r : Result) : (d.finishSlot n st r).runEnable = d.runEnable := by simp [Device.finishSlot, Device.writeFinal, Device.writeResult]
@[simp] theorem Device.finishSlot_attnEnable (d : Device) (n st : Nat) (r : Result) : (d.finishSlot n st r).attnEnable = d.attnEnable := by simp [Device.finishSlot, Device.writeFinal, Device.writeResult]
@[simp] theorem Device.finishSlot_readData (d : Device) (n st : Nat) (r : Result) : (d.finishSlot n st r).readData = d.readData := by simp [Device.finishSlot, Device.writeFinal, Device.writeResult]
@[simp] theorem Device.finishSlot_port (d : Device) (n st : Nat) (r : Result) (q : PortIx) : (d.finishSlot n st r).port q = d.port q := by simp [Device.finishSlot, Device.writeFinal, Device.writeResult]
@[simp] theorem Device.finishSlot_prot (d : Device) (n st : Nat) (r : Result) : (d.finishSlot n st r).prot = d.prot.filter (· != n) := by simp [Device.finishSlot, Device.writeFinal, Device.writeResult]

/-! ## finishSlot while no host access waits -/

/-- The result region, the state byte with the protection, the finished-map bit, one after another with nothing between. -/
theorem Device.writeResult_quiet {d : Device} (h : d.arbiter = []) (n : Nat) (r : Result) : d.writeResult n r =
    ((((((d.write (slotBase n + 48) 1 r.reason.code).write (slotBase n + 49) 1 r.flags.toByte).write (slotBase n + 50) 2 r.revision).write
      (slotBase n + 52) 4 r.firePI).write (slotBase n + 56) 4 r.fireTime).write (slotBase n + 60) 2 r.fired).write (slotBase n + 62) 2 r.aux := by
  simp only [Device.writeResult, Device.poke_quiet, Device.write_arbiter, h]

theorem Device.finishSlot_quiet {d : Device} (h : d.arbiter = []) (n st : Nat) (r : Result) : d.finishSlot n st r =
    ({ ((d.writeResult n r).write (slotBase n) 1 st).unprotect n with
      mem := Memory.write ((d.writeResult n r).write (slotBase n) 1 st).mem (mapBase + n / 8)
        (Memory.read ((d.writeResult n r).write (slotBase n) 1 st).mem (mapBase + n / 8) ||| (1 <<< (n % 8))) }).latch .finished := by
  have hr : (d.writeResult n r).arbiter = [] := by simp only [Device.writeResult_quiet h, Device.write_arbiter, h]
  unfold Device.finishSlot
  generalize d.writeResult n r = e at hr
  rw [Device.writeFinal_quiet hr, Device.setFinished_quiet (d := (e.write (slotBase n) 1 st).unprotect n) hr]
  rfl

@[simp] theorem Device.finishSlot_arbiter {d : Device} (h : d.arbiter = []) (n st : Nat) (r : Result) : (d.finishSlot n st r).arbiter = [] := by simp [Device.finishSlot_quiet h, Device.writeResult_quiet h, h]
@[simp] theorem Device.finishSlot_writer {d : Device} (h : d.arbiter = []) (n st : Nat) (r : Result) : (d.finishSlot n st r).writer = d.writer := by simp [Device.finishSlot_quiet h, Device.writeResult_quiet h, h]
@[simp] theorem Device.poke_writer {d : Device} (h : d.arbiter = []) (a n v : Nat) : (d.poke a n v).writer = d.writer := by rw [Device.poke_quiet h]; rfl
@[simp] theorem Device.finishSlot_writerAgain {d : Device} (h : d.arbiter = []) (n st : Nat) (r : Result) : (d.finishSlot n st r).writerAgain = d.writerAgain := by simp [Device.finishSlot_quiet h, Device.writeResult_quiet h, h]
@[simp] theorem Device.poke_writerAgain {d : Device} (h : d.arbiter = []) (a n v : Nat) : (d.poke a n v).writerAgain = d.writerAgain := by rw [Device.poke_quiet h]; rfl
@[simp] theorem Device.finishSlot_notices {d : Device} (h : d.arbiter = []) (n st : Nat) (r : Result) : (d.finishSlot n st r).notices = d.notices := by simp [Device.finishSlot_quiet h, Device.writeResult_quiet h, h]
@[simp] theorem Device.poke_notices {d : Device} (h : d.arbiter = []) (a n v : Nat) : (d.poke a n v).notices = d.notices := by rw [Device.poke_quiet h]; rfl
@[simp] theorem Device.finishSlot_overflow {d : Device} (h : d.arbiter = []) (n st : Nat) (r : Result) : (d.finishSlot n st r).overflow = d.overflow := by simp [Device.finishSlot_quiet h, Device.writeResult_quiet h, h]
@[simp] theorem Device.poke_overflow {d : Device} (h : d.arbiter = []) (a n v : Nat) : (d.poke a n v).overflow = d.overflow := by rw [Device.poke_quiet h]; rfl
@[simp] theorem Device.finishSlot_keep {d : Device} (h : d.arbiter = []) (n st : Nat) (r : Result) : (d.finishSlot n st r).keep = d.keep := by simp [Device.finishSlot_quiet h, Device.writeResult_quiet h, h]
@[simp] theorem Device.poke_keep {d : Device} (h : d.arbiter = []) (a n v : Nat) : (d.poke a n v).keep = d.keep := by rw [Device.poke_quiet h]; rfl
@[simp] theorem Device.finishSlot_keepPending {d : Device} (h : d.arbiter = []) (n st : Nat) (r : Result) : (d.finishSlot n st r).keepPending = d.keepPending := by simp [Device.finishSlot_quiet h, Device.writeResult_quiet h, h]
@[simp] theorem Device.poke_keepPending {d : Device} (h : d.arbiter = []) (a n v : Nat) : (d.poke a n v).keepPending = d.keepPending := by rw [Device.poke_quiet h]; rfl
@[simp] theorem Device.finishSlot_capture {d : Device} (h : d.arbiter = []) (n st : Nat) (r : Result) : (d.finishSlot n st r).capture = d.capture := by simp [Device.finishSlot_quiet h, Device.writeResult_quiet h, h]
@[simp] theorem Device.poke_capture {d : Device} (h : d.arbiter = []) (a n v : Nat) : (d.poke a n v).capture = d.capture := by rw [Device.poke_quiet h]; rfl
@[simp] theorem Device.finishSlot_attn {d : Device} (h : d.arbiter = []) (n st : Nat) (r : Result) : (d.finishSlot n st r).attn = d.attn ||| Cause.bit .finished := by simp [Device.finishSlot_quiet h, Device.writeResult_quiet h, h]
@[simp] theorem Device.poke_attn {d : Device} (h : d.arbiter = []) (a n v : Nat) : (d.poke a n v).attn = d.attn := by rw [Device.poke_quiet h]; rfl

end Sys2Proof.Machine
end

