-- ==== Sys2Proof/Laws/Keeps.lean ====
section
/-! SUPPORT. Two relations between the device before and after an operation: `Safe`, which carries every invariant of Safety.lean over, and `Keeps n`, which also says what stays as it was (the more, the higher n). Each shared operation has one lemma in them. -/
namespace Sys2Proof.Machine
set_option Elab.async false

/-- Every invariant of Safety.lean goes over from d to e, each by itself. -/
structure Safe (d e : Device) : Prop where
  mem : d.MemOk → e.MemOk
  noticesOk : d.NoticesOk → e.NoticesOk
  plan : d.PlanOk → e.PlanOk
  balance : d.BalanceOk → e.BalanceOk
  follow : d.follower.Ok → e.follower.Ok
  settings : d.SettingsOk → e.SettingsOk
  links : d.LinksOk → e.LinksOk

/-- Every invariant goes over, and causes are only added. -/
structure Adds (d e : Device) : Prop extends Safe d e where
  attn : ∃ x, e.attn = d.attn ||| x

/-- What an operation of the part's own leaves as it was. Level 0: time, enables, read data, the counter and the sweep, and, while no host access waits at the arbiter, the other intake registers and KEEP; causes are only added. Level 1: also the follower, the mode, the supervision, the house scene and the port settings. Level 2: also the planner but for the commit horizon and the pending inputs that its rise drops. Level 3: also those. -/
structure Keeps (n : Nat) (d e : Device) : Prop extends Adds d e where
  time : e.time = d.time
  arbiter : d.arbiter = [] → e.arbiter = []
  notices : d.arbiter = [] → e.notices = d.notices
  overflow : d.arbiter = [] → e.overflow = d.overflow
  seq : e.seq = d.seq
  sweep : e.sweep = d.sweep
  keep : d.arbiter = [] → e.keep = d.keep
  keepPending : d.arbiter = [] → e.keepPending = d.keepPending
  runEnable : e.runEnable = d.runEnable
  attnEnable : e.attnEnable = d.attnEnable
  readData : e.readData = d.readData
  follower : 1 ≤ n → e.follower = d.follower
  mode : 1 ≤ n → e.mode = d.mode
  service : 1 ≤ n → e.service = d.service
  house : 1 ≤ n → e.house = d.house
  cfg : 1 ≤ n → ∀ p, (e.port p).settings = (d.port p).settings
  timeline : 2 ≤ n → e.planner = { d.planner with
    horizon := e.planner.horizon, pendPeriod := e.planner.pendPeriod, pendSpread := e.planner.pendSpread, pendBalance := e.planner.pendBalance }
  planner : 3 ≤ n → e.planner = d.planner

theorem Safe.refl (d : Device) : Safe d d := ⟨id, id, id, id, id, id, id⟩

theorem Safe.trans {d e f : Device} (a : Safe d e) (b : Safe e f) : Safe d f :=
  ⟨b.mem ∘ a.mem, b.noticesOk ∘ a.noticesOk, b.plan ∘ a.plan, b.balance ∘ a.balance, b.follow ∘ a.follow, b.settings ∘ a.settings, b.links ∘ a.links⟩

theorem Adds.refl (d : Device) : Adds d d := { Safe.refl d with attn := ⟨0, by simp⟩ }

theorem Adds.trans {d e f : Device} (a : Adds d e) (b : Adds e f) : Adds d f :=
  { a.toSafe.trans b.toSafe with
    attn := by
      obtain ⟨x, hx⟩ := a.attn
      obtain ⟨y, hy⟩ := b.attn
      exact ⟨x ||| y, by rw [hy, hx, BitVec.or_assoc]⟩ }

theorem Adds.ite {d a b : Device} {c : Prop} [Decidable c] (ha : Adds d a) (hb : Adds d b) : Adds d (if c then a else b) := by
  split <;> assumption

theorem Keeps.safe {n : Nat} {d e : Device} (h : Keeps n d e) : Safe d e := h.toSafe

theorem Keeps.refl {n : Nat} (d : Device) : Keeps n d d :=
  { Adds.refl d with
    time := rfl, arbiter := id, notices := fun _ => rfl, overflow := fun _ => rfl, seq := rfl, sweep := rfl, keep := fun _ => rfl,
    keepPending := fun _ => rfl, runEnable := rfl,
    attnEnable := rfl, readData := rfl, follower := fun _ => rfl, mode := fun _ => rfl, service := fun _ => rfl, house := fun _ => rfl,
    cfg := fun _ _ => rfl, timeline := fun _ => rfl, planner := fun _ => rfl }

theorem Keeps.trans {n : Nat} {d e f : Device} (a : Keeps n d e) (b : Keeps n e f) : Keeps n d f :=
  { a.toAdds.trans b.toAdds with
    time := b.time.trans a.time
    arbiter := fun h => b.arbiter (a.arbiter h)
    notices := fun h => (b.notices (a.arbiter h)).trans (a.notices h), overflow := fun h => (b.overflow (a.arbiter h)).trans (a.overflow h)
    seq := b.seq.trans a.seq, sweep := b.sweep.trans a.sweep
    keep := fun h => (b.keep (a.arbiter h)).trans (a.keep h), keepPending := fun h => (b.keepPending (a.arbiter h)).trans (a.keepPending h)
    runEnable := b.runEnable.trans a.runEnable
    attnEnable := b.attnEnable.trans a.attnEnable, readData := b.readData.trans a.readData
    follower := fun h => (b.follower h).trans (a.follower h), mode := fun h => (b.mode h).trans (a.mode h)
    service := fun h => (b.service h).trans (a.service h), house := fun h => (b.house h).trans (a.house h)
    cfg := fun h p => (b.cfg h p).trans (a.cfg h p)
    timeline := fun h => by
      rw [b.timeline h, a.timeline h]
    planner := fun h => (b.planner h).trans (a.planner h) }

/-- A lower level says less. -/
theorem Keeps.mono {m n : Nat} {d e : Device} (hmn : m ≤ n) (h : Keeps n d e) : Keeps m d e :=
  { h with
    follower := fun hm => h.follower (Nat.le_trans hm hmn), mode := fun hm => h.mode (Nat.le_trans hm hmn)
    service := fun hm => h.service (Nat.le_trans hm hmn), house := fun hm => h.house (Nat.le_trans hm hmn)
    cfg := fun hm => h.cfg (Nat.le_trans hm hmn)
    timeline := fun hm => h.timeline (Nat.le_trans hm hmn), planner := fun hm => h.planner (Nat.le_trans hm hmn) }

theorem Safe.ite {d a b : Device} {c : Prop} [Decidable c] (ha : Safe d a) (hb : Safe d b) : Safe d (if c then a else b) := by
  split <;> assumption

theorem Keeps.ite {n : Nat} {d a b : Device} {c : Prop} [Decidable c] (ha : Keeps n d a) (hb : Keeps n d b) : Keeps n d (if c then a else b) := by
  split <;> assumption

theorem Keeps.foldl {α : Type} {n : Nat} {f : Device → α → Device} (h : ∀ d a, Keeps n d (f d a)) : ∀ (l : List α) (d : Device), Keeps n d (l.foldl f d)
  | [], d => Keeps.refl d
  | a :: l, d => (h d a).trans (Keeps.foldl h l (f d a))

theorem Safe.foldl {α : Type} {f : Device → α → Device} (h : ∀ d a, Safe d (f d a)) : ∀ (l : List α) (d : Device), Safe d (l.foldl f d)
  | [], d => Safe.refl d
  | a :: l, d => (h d a).trans (Safe.foldl h l (f d a))

theorem Keeps.eachPort {n : Nat} {f : Device → PortIx → Device} (h : ∀ d p, Keeps n d (f d p)) (d : Device) : Keeps n d (d.eachPort f) :=
  Keeps.foldl h allPorts d

/-! ## What level 2 keeps of the planner -/

theorem Keeps.transport_eq {n : Nat} {d e : Device} (h : Keeps n d e) (hn : 2 ≤ n) : e.planner.transport = d.planner.transport :=
  (congrArg Planner.transport (h.timeline hn) :)
theorem Keeps.stopped_eq {n : Nat} {d e : Device} (h : Keeps n d e) (hn : 2 ≤ n) : e.planner.stopped = d.planner.stopped :=
  (congrArg Planner.stopped (h.timeline hn) :)
theorem Keeps.heldPeriod_eq {n : Nat} {d e : Device} (h : Keeps n d e) (hn : 2 ≤ n) : e.planner.heldPeriod = d.planner.heldPeriod :=
  (congrArg Planner.heldPeriod (h.timeline hn) :)
theorem Keeps.heldMeter_eq {n : Nat} {d e : Device} (h : Keeps n d e) (hn : 2 ≤ n) : e.planner.heldMeter = d.planner.heldMeter :=
  (congrArg Planner.heldMeter (h.timeline hn) :)
theorem Keeps.heldOrigin_eq {n : Nat} {d e : Device} (h : Keeps n d e) (hn : 2 ≤ n) : e.planner.heldOrigin = d.planner.heldOrigin :=
  (congrArg Planner.heldOrigin (h.timeline hn) :)
theorem Keeps.latched_eq {n : Nat} {d e : Device} (h : Keeps n d e) (hn : 2 ≤ n) : e.planner.latched = d.planner.latched :=
  (congrArg Planner.latched (h.timeline hn) :)
theorem Keeps.plan_eq {n : Nat} {d e : Device} (h : Keeps n d e) (hn : 2 ≤ n) : e.planner.plan = d.planner.plan :=
  (congrArg Planner.plan (h.timeline hn) :)
theorem Keeps.anchor_eq {n : Nat} {d e : Device} (h : Keeps n d e) (hn : 2 ≤ n) : e.planner.anchor = d.planner.anchor :=
  (congrArg Planner.anchor (h.timeline hn) :)
theorem Keeps.opening_eq {n : Nat} {d e : Device} (h : Keeps n d e) (hn : 2 ≤ n) : e.planner.opening = d.planner.opening :=
  (congrArg Planner.opening (h.timeline hn) :)
theorem Keeps.cursor_eq {n : Nat} {d e : Device} (h : Keeps n d e) (hn : 2 ≤ n) : e.planner.cursor = d.planner.cursor :=
  (congrArg Planner.cursor (h.timeline hn) :)
theorem Keeps.history_eq {n : Nat} {d e : Device} (h : Keeps n d e) (hn : 2 ≤ n) : e.planner.history = d.planner.history :=
  (congrArg Planner.history (h.timeline hn) :)

/-! ## Updates of one field -/

/-- An update of the memory alone. -/
theorem Keeps.ofMem {n : Nat} {d : Device} {m : List Host.Cell} (h : Memory.wf d.mem = true → Memory.wf m = true) : Keeps n d { d with mem := m } :=
  { Keeps.refl d with mem := h }

/-- An update of the global list alone. -/
theorem Keeps.ofGlobals {n : Nat} {d : Device} {g : List Cue} : Keeps n d { d with globals := g } := { Keeps.refl d with }

/-- An update of the protection flags alone. -/
theorem Keeps.ofProt {n : Nat} {d : Device} {g : List Nat} : Keeps n d { d with prot := g } := { Keeps.refl d with }

/-- An update of the fault capture alone. -/
theorem Keeps.ofCapture {n : Nat} {d : Device} {g : Option FaultRecord} : Keeps n d { d with capture := g } := { Keeps.refl d with }

/-- An update of the status write under way alone. -/
theorem Keeps.ofWriter {n : Nat} {d : Device} {w : Option Writer} {b : Bool} : Keeps n d { d with writer := w, writerAgain := b } := { Keeps.refl d with }

/-- An update of the planner: its plan and its balances stay legal. -/
theorem Keeps.ofPlanner {d : Device} {pl : Planner} (hp : d.PlanOk → planChain pl.plan)
    (hb : d.BalanceOk → ({ d with planner := pl } : Device).BalanceOk) : Keeps 1 d { d with planner := pl } :=
  { Keeps.refl (n := 1) d with plan := hp, balance := hb, timeline := fun h => absurd h (by omega), planner := fun h => absurd h (by omega) }

/-- An update of the follower: its numbers stay legal. -/
theorem Keeps.ofFollower {d : Device} {f : Follower} (h : d.follower.Ok → f.Ok) : Keeps 0 d { d with follower := f } :=
  { Keeps.refl (n := 0) d with
    follow := h, follower := fun h => absurd h (by omega), timeline := fun h => absurd h (by omega), planner := fun h => absurd h (by omega) }

/-- An update of the service monitor. -/
theorem Keeps.ofService {d : Device} {f : Service} : Keeps 0 d { d with service := f } :=
  { Keeps.refl (n := 0) d with service := fun h => absurd h (by omega) }

/-- An update of the device mode. -/
theorem Keeps.ofMode {d : Device} {f : DeviceMode} : Keeps 0 d { d with mode := f } :=
  { Keeps.refl (n := 0) d with mode := fun h => absurd h (by omega) }

/-- An update of the house scene. -/
theorem Keeps.ofHouse {d : Device} {f : Levels} : Keeps 0 d { d with house := f } :=
  { Keeps.refl (n := 0) d with house := fun h => absurd h (by omega) }

/-- A change of one port that keeps its settings legal and its queues within their capacities. -/
theorem Keeps.modSettings (d : Device) (p : PortIx) (f : Port → Port) (hs : (d.port p).settings.Ok → (f (d.port p)).settings.Ok)
    (hl : (d.port p).LinksOk → (f (d.port p)).LinksOk) : Keeps 0 d (d.modPort p f) :=
  { Keeps.refl (n := 0) d with
    cfg := fun h => absurd h (by omega)
    timeline := fun h => absurd h (by omega)
    planner := fun h => absurd h (by omega)
    settings := fun h q => by
      by_cases hq : q = p
      · subst hq; rw [Device.port_modPort_same]; exact hs (h q)
      · rw [Device.port_modPort_ne d f hq]; exact h q
    links := fun h q => by
      by_cases hq : q = p
      · subst hq; rw [Device.port_modPort_same]; exact hl (h q)
      · rw [Device.port_modPort_ne d f hq]; exact h q }

theorem Device.settings_modPort (d : Device) (p : PortIx) (f : Port → Port) (hs : (f (d.port p)).settings = (d.port p).settings) (q : PortIx) :
    ((d.modPort p f).port q).settings = (d.port q).settings := by
  by_cases hq : q = p
  · subst hq; rw [Device.port_modPort_same]; exact hs
  · rw [Device.port_modPort_ne d f hq]

/-- A change of one port that leaves its settings and keeps its queues within their capacities. -/
theorem Keeps.modPort {n : Nat} (d : Device) (p : PortIx) (f : Port → Port)
    (hs : (f (d.port p)).settings = (d.port p).settings := by rfl)
    (hl : (d.port p).LinksOk → (f (d.port p)).LinksOk := by exact id) : Keeps n d (d.modPort p f) :=
  { Keeps.refl d with
    cfg := fun _ => d.settings_modPort p f hs
    settings := fun h q => by rw [d.settings_modPort p f hs]; exact h q
    links := fun h q => by
      by_cases hq : q = p
      · subst hq; rw [Device.port_modPort_same]; exact hl (h q)
      · rw [Device.port_modPort_ne d f hq]; exact h q }

/-! ## Ops -/

theorem Keeps.write {n : Nat} (d : Device) (a k v : Nat) : Keeps n d (d.write a k v) := Keeps.ofMem (Memory.wf_writeLE k a v)

theorem Keeps.latch {n : Nat} (d : Device) (c : Cause) : Keeps n d (d.latch c) := { Keeps.refl d with attn := ⟨c.bit, rfl⟩ }

theorem Keeps.requestStatus {n : Nat} (d : Device) : Keeps n d d.requestStatus := by
  unfold Device.requestStatus
  split
  · exact { Keeps.refl d with }
  · exact { Keeps.refl d with }

theorem Keeps.captureFault {n : Nat} (d : Device) (k : FaultKind) (p m : Option Nat) : Keeps n d (d.captureFault k p m) := by
  unfold Device.captureFault
  split
  · exact (Keeps.ofCapture.trans (Keeps.latch _ _)).trans (Keeps.requestStatus _)
  · exact Keeps.ite ((Keeps.ofCapture.trans (Keeps.latch _ _)).trans (Keeps.requestStatus _)) (Keeps.latch _ _)

theorem Keeps.setTransport (d : Device) (t : Transport) : Keeps 1 d (d.setTransport t) := by
  unfold Device.setTransport
  have h : Keeps 1 d { d with planner := { d.planner with transport := t } } := Keeps.ofPlanner id id
  exact Keeps.ite (Keeps.refl d) ((h.trans (Keeps.latch _ _)).trans (Keeps.requestStatus _))

theorem Keeps.unprotect {n : Nat} (d : Device) (k : Nat) : Keeps n d (d.unprotect k) := Keeps.ofProt

theorem Keeps.protect {n : Nat} (d : Device) (k : Nat) : Keeps n d (d.protect k) := Keeps.ofProt

/-! ## Host accesses -/

theorem Keeps.landBytes {n : Nat} (d : Device) (a : Nat) (l : List Byte) : Keeps n d (d.landBytes a l) := Keeps.ofMem (Memory.wf_writeBytes l a)

theorem Keeps.landSlot {n : Nat} (d : Device) (a : Nat) (l : List Byte) : Keeps n d (d.landSlot a l) := by
  unfold Device.landSlot
  split
  · exact Keeps.ite (Keeps.landBytes _ _ _) (Keeps.landBytes _ _ _)
  · exact Keeps.refl d

theorem Adds.overflowNotice (d : Device) (n : Nat) : Adds d (d.overflowNotice n) := by
  unfold Device.overflowNotice
  refine Adds.trans ?_ (Keeps.captureFault (n := 0) _ _ _ _).toAdds
  have h : Adds d { d with overflow := true } := { Adds.refl d with }
  exact Adds.ite (Adds.refl d) (h.trans (Keeps.requestStatus (n := 0) _).toAdds)

/-- R159: an offer keeps the notice list within 32 and without repeats. -/
theorem Adds.offer (d : Device) (n : Nat) (hlt : n < 512) : Adds d (d.offer n) := by
  unfold Device.offer
  split
  · exact Adds.refl d
  · rename_i hc
    split
    · rename_i hl
      refine { Adds.refl d with noticesOk := ?_ }
      rintro ⟨_, hd, hs, hv⟩
      have hm : n ∉ d.notices := by simpa using hc
      refine ⟨?_, ?_, ?_, hv⟩
      · show (d.notices ++ [n]).length ≤ 32
        simp only [List.length_append, List.length_cons, List.length_nil]; omega
      · show (d.notices ++ [n]).Nodup
        rw [List.nodup_append]
        refine ⟨hd, by simp, ?_⟩
        intro a ha b hb
        rw [List.mem_singleton] at hb
        rintro rfl
        exact hm (hb ▸ ha)
      · intro m hmem
        rcases List.mem_append.mp hmem with h | h
        · exact hs m h
        · rw [List.mem_singleton] at h; exact h ▸ hlt
    · exact Adds.overflowNotice _ _

theorem Adds.giveBack (d : Device) (n : Nat) : Adds d (d.giveBack n) := by
  unfold Device.giveBack
  split
  · exact Adds.refl d
  · have h1 : ∀ v : Bool, Adds d { d with keep := v, keepPending := none } := fun _ => { Adds.refl d with }
    have h2 : Adds d { d with keepPending := none } := { Adds.refl d with }
    exact Adds.ite (Adds.ite (h1 _) (Adds.ite h2 (Adds.refl d))) (Adds.refl d)

theorem Adds.slotWrite (d : Device) (a : Nat) (l : List Byte) (ha : a < 0x9000) : Adds d (d.slotWrite a l) := by
  unfold Device.slotWrite
  have h : Adds d ((d.landSlot a l).giveBack (slotOf a)) := (Keeps.landSlot (n := 0) d a l).toAdds.trans (Adds.giveBack _ _)
  exact Adds.ite (Keeps.captureFault (n := 0) _ _ _ _).toAdds (Adds.ite (h.trans (Adds.offer _ _ (by unfold slotOf; omega))) h)

theorem regionOf_cueSlots {a : Nat} (h : regionOf a = .cueSlots) : 0x1000 ≤ a ∧ a < 0x9000 := by
  unfold regionOf at h
  split at h
  · cases h
  · split at h
    · cases h
    · split at h
      · assumption
      · cases h

/-- A host write keeps every invariant and adds causes at most. -/
theorem Adds.hostWrite (d : Device) (size : AccessSize) (a data : Word) : Adds d (d.hostWrite size a data) := by
  unfold Device.hostWrite
  split
  · exact (Keeps.captureFault (n := 0) _ _ _ _).toAdds
  · exact (Keeps.landBytes (n := 0) _ _ _).toAdds
  · rename_i hr
    exact Adds.slotWrite _ _ _ (regionOf_cueSlots hr).2
  · exact (Keeps.landBytes (n := 0) _ _ _).toAdds

theorem Safe.hostWrite (d : Device) (size : AccessSize) (a data : Word) : Safe d (d.hostWrite size a data) := (Adds.hostWrite d size a data).toSafe

theorem Adds.letIn : ∀ (n : Nat) (d : Device), Adds d (Device.letIn n d)
  | 0, d => Adds.refl d
  | n + 1, d => by
    unfold Device.letIn
    split
    · exact Adds.refl d
    · have h : ∀ l, Adds d { d with arbiter := l } := fun _ => { Adds.refl d with }
      exact Adds.ite (((h _).trans (Adds.hostWrite _ _ _ _)).trans (Adds.letIn n _)) (Adds.refl d)

theorem Adds.pass (d : Device) : Adds d d.pass := by
  have h : Adds d { d with arbiter := countedDown d.arbiter } := { Adds.refl d with }
  exact h.trans (Adds.letIn _ _)

/-! ## Engine accesses -/

/-- The host accesses let in after an engine access. -/
theorem Keeps.pass {n : Nat} (d : Device) : Keeps n d d.pass :=
  { Adds.pass d with
    time := by simp, arbiter := fun h => by simp [h], notices := fun h => by rw [Device.pass_quiet h], overflow := fun h => by rw [Device.pass_quiet h]
    seq := by simp, sweep := by simp, keep := fun h => by rw [Device.pass_quiet h], keepPending := fun h => by rw [Device.pass_quiet h]
    runEnable := by simp, attnEnable := by simp, readData := by simp, follower := by simp, mode := by simp, service := by simp, house := by simp
    cfg := by simp, timeline := by simp, planner := by simp }

theorem Keeps.poke {n : Nat} (d : Device) (a k v : Nat) : Keeps n d (d.poke a k v) := (Keeps.write d a k v).trans (Keeps.pass _)

theorem Keeps.copyBytes {m : Nat} : ∀ (n a : Nat) (d : Device), Keeps m d (Device.copyBytes n a d).2
  | 0, _, d => Keeps.refl d
  | n + 1, a, d => (Keeps.pass d).trans (Keeps.copyBytes n (a + 1) d.pass)

theorem Keeps.copyLevels {n : Nat} (d : Device) (a : Nat) : Keeps n d (d.copyLevels a).2 := by
  simp only [Device.copyLevels]
  exact Keeps.copyBytes 192 a d

theorem Keeps.setFinished {n : Nat} (d : Device) (k : Nat) : Keeps n d (d.setFinished k) :=
  ((Keeps.ofMem (Memory.wf_write _ _)).trans (Keeps.latch _ _)).trans (Keeps.pass _)

theorem Keeps.writeResult {n : Nat} (d : Device) (k : Nat) (r : Result) : Keeps n d (d.writeResult k r) :=
  ((((((Keeps.poke _ _ _ _).trans (Keeps.poke _ _ _ _)).trans (Keeps.poke _ _ _ _)).trans (Keeps.poke _ _ _ _)).trans (Keeps.poke _ _ _ _)).trans
    (Keeps.poke _ _ _ _)).trans (Keeps.poke _ _ _ _)

theorem Keeps.writeFinal {n : Nat} (d : Device) (k st : Nat) : Keeps n d (d.writeFinal k st) :=
  ((Keeps.write _ _ _ _).trans (Keeps.unprotect _ _)).trans (Keeps.pass _)

theorem Keeps.finishSlot {n : Nat} (d : Device) (k st : Nat) (r : Result) : Keeps n d (d.finishSlot k st r) :=
  ((Keeps.writeResult d k r).trans (Keeps.writeFinal _ _ _)).trans (Keeps.setFinished _ _)

/-! ## The cue schedule -/

theorem Keeps.writeProgress {n : Nat} (d : Device) (c : Cue) (k : Nat) : Keeps n d (d.writeProgress c k) :=
  (((Keeps.poke _ _ _ _).trans (Keeps.poke _ _ _ _)).trans (Keeps.poke _ _ _ _)).trans (Keeps.poke _ _ _ _)

theorem Keeps.endCue {n : Nat} (d : Device) (c : Cue) (st : Nat) (r : Reason) (k : Nat) (t : Time) : Keeps n d (d.endCue c st r k t) := Keeps.finishSlot _ _ _ _

theorem Keeps.endAttempts {n : Nat} (d : Device) (c : Cue) : Keeps n d (d.endAttempts c) := by
  unfold Device.endAttempts
  split <;> exact Keeps.endCue _ _ _ _ _ _

theorem Keeps.enterList {n : Nat} (d : Device) (p : PortIx) (c : Cue) : Keeps n d (d.enterList p c) :=
  (Keeps.modPort d p _).trans (Keeps.writeProgress _ _ _)

theorem Keeps.settle {n : Nat} (d : Device) (p : PortIx) (x : Settled) : Keeps n d (d.settle p x) := Keeps.ite (Keeps.endAttempts _ _) (Keeps.enterList _ _ _)

theorem Keeps.settleAttempt {n : Nat} (d : Device) (p : PortIx) (c : Cue) : Keeps n d (d.settleAttempt p c) := Keeps.settle d p _

theorem Keeps.judge {n : Nat} (d : Device) (p : PortIx) (c : Cue) : Keeps n d (d.judge p c) := by
  unfold Device.judge
  refine Keeps.ite (Keeps.enterList _ _ _) ?_
  split
  · exact Keeps.enterList _ _ _
  · exact Keeps.settleAttempt _ _ _

theorem Keeps.judgeAtStart {n : Nat} (d : Device) (first : Nat) (p : PortIx) (k : Nat) : Keeps n d (d.judgeAtStart first p k) := by
  unfold Device.judgeAtStart
  split
  · exact Keeps.refl d
  · exact Keeps.ite (Keeps.refl d) ((Keeps.modPort d p _).trans (Keeps.settleAttempt _ _ _))

theorem Keeps.markAll {n : Nat} (d : Device) (p : PortIx) (m : Option Nat) : Keeps n d (d.markAll p m) := Keeps.modPort d p _

theorem StepLine.cancel_queue_le (s : StepLine) (n : Nat) : (s.cancel n).queue.length ≤ s.queue.length := by
  unfold StepLine.cancel
  split
  · exact Nat.le_refl _
  · exact List.length_filter_le _ _

theorem StepLine.cancel_timing (s : StepLine) (n : Nat) : (s.cancel n).timing = s.timing := by
  unfold StepLine.cancel
  split <;> rfl

theorem Keeps.cancelSlot {n : Nat} (d : Device) (r : Reason) (k : Nat) : Keeps n d (d.cancelSlot r k) := by
  unfold Device.cancelSlot
  split
  · exact Keeps.refl d
  · exact Keeps.ofGlobals.trans (Keeps.endCue _ _ _ _ _ _)
  · exact (Keeps.modPort d _ _).trans (Keeps.endCue _ _ _ _ _ _)
  · split
    · exact Keeps.refl d
    · refine (Keeps.modPort d _ _ rfl ?_).trans (Keeps.endCue _ _ _ _ _ _)
      rintro ⟨h1, h2, h3⟩
      exact ⟨Nat.le_trans (StepLine.cancel_queue_le _ _) h1, by rw [StepLine.cancel_timing]; exact h2, h3⟩

theorem Keeps.cancelSlots {n : Nat} (d : Device) (r : Reason) (l : List Nat) : Keeps n d (d.cancelSlots r l) :=
  Keeps.foldl (fun d k => Keeps.cancelSlot d r k) _ d

/-! ## The Step Link -/

theorem Keeps.queueChar {n : Nat} (d : Device) (p : PortIx) (c : TimingChar) : Keeps n d (d.queueChar p c) := by
  unfold Device.queueChar
  split
  · rename_i h
    refine Keeps.modPort d p _ rfl ?_
    rintro ⟨h1, _, h3⟩
    refine ⟨h1, ?_, h3⟩
    simp only [List.length_append, List.length_cons, List.length_nil]
    omega
  · exact Keeps.captureFault _ _ _ _

theorem Keeps.queueChars {n : Nat} (d : Device) (p : PortIx) (l : List TimingChar) : Keeps n d (d.queueChars p l) :=
  Keeps.foldl (fun d c => Keeps.queueChar d p c) l d

theorem withdrawChars_le (src : CharSource) (l : List TimingChar) : (withdrawChars src l).length ≤ l.length := by
  unfold withdrawChars
  have h1 := List.length_filter_le (fun c : TimingChar => c.source != src) (l.dropWhile (·.posData))
  have h2 := congrArg List.length (List.takeWhile_append_dropWhile (p := fun c : TimingChar => c.posData) (l := l))
  simp only [List.length_append] at h2 ⊢
  omega

/-- The transmitter's choice lengthens no queue. -/
theorem StepLine.startNext_le (s : StepLine) (m : List Host.Cell) (t : Time) :
    (s.startNext m t).queue.length ≤ s.queue.length ∧ (s.startNext m t).timing.length ≤ s.timing.length := by
  unfold StepLine.startNext
  split
  · exact ⟨Nat.le_refl _, Nat.le_refl _⟩
  · split
    · rename_i h
      simp [h]
    · split
      · exact ⟨Nat.le_refl _, Nat.le_refl _⟩
      · split
        · rename_i h
          split
          · simp [h]
          · exact ⟨Nat.le_refl _, Nat.le_refl _⟩
        · exact ⟨Nat.le_refl _, Nat.le_refl _⟩

theorem Keeps.choose {n : Nat} (d : Device) (p : PortIx) : Keeps n d (d.choose p) := by
  refine Keeps.modPort d p _ rfl ?_
  rintro ⟨h1, h2, h3⟩
  have h := StepLine.startNext_le (d.port p).step d.mem d.time
  exact ⟨Nat.le_trans h.1 h1, Nat.le_trans h.2 h2, h3⟩

theorem Keeps.pump {n : Nat} (d : Device) (p : PortIx) : Keeps n d (d.pump p) := Keeps.ite (Keeps.refl d) (Keeps.choose d p)

theorem Keeps.pumpAll {n : Nat} (d : Device) : Keeps n d d.pumpAll := Keeps.eachPort (fun d p => Keeps.pump d p) d

theorem Keeps.messageEnd {n : Nat} (d : Device) (p : PortIx) : Keeps n d (d.messageEnd p) := by
  unfold Device.messageEnd
  split
  · exact Keeps.refl d
  · rename_i f rest hq
    refine Keeps.ite ((Keeps.modPort d p _ rfl ?_).trans (Keeps.settleAttempt _ _ _)) (Keeps.refl d)
    rintro ⟨h1, h2, h3⟩
    refine ⟨?_, h2, h3⟩
    rw [hq] at h1
    exact Nat.le_of_succ_le h1

theorem Keeps.skipFlights {n : Nat} (d : Device) (p : PortIx) (l : List Flight) : Keeps n d (d.skipFlights p l) := by
  unfold Device.skipFlights
  split
  · exact Keeps.refl d
  · exact (Keeps.settleAttempt _ _ _).trans (Keeps.foldl (fun d g => Keeps.settleAttempt d p _) _ _)

theorem Keeps.queueJoinForm {n : Nat} (d : Device) (p : PortIx) (j : Nat) : Keeps n d (d.queueJoinForm p j) :=
  (Keeps.modPort d p _).trans (Keeps.queueChars _ _ _)

theorem Keeps.tryStepLeadIn {n : Nat} (d : Device) (p : PortIx) : Keeps n d (d.tryStepLeadIn p) := by
  unfold Device.tryStepLeadIn
  split
  · exact Keeps.queueJoinForm _ _ _
  · exact Keeps.refl d

theorem Keeps.abandonStepForm {n : Nat} (d : Device) (p : PortIx) : Keeps n d (d.abandonStepForm p) := by
  unfold Device.abandonStepForm
  have h : Keeps n d (d.modPort p fun x => { x with step := { x.step with form := .none, timing := withdrawChars .joinForm x.step.timing } }) := by
    refine Keeps.modPort d p _ rfl ?_
    rintro ⟨h1, h2, h3⟩
    exact ⟨h1, Nat.le_trans (withdrawChars_le _ _) h2, h3⟩
  dsimp only
  split
  · exact h.trans (Keeps.queueChar _ _ _)
  · exact h

theorem Keeps.queueResumeForm {n : Nat} (d : Device) (p : PortIx) (j : Nat) : Keeps n d (d.queueResumeForm p j) :=
  (Keeps.modPort d p _).trans (Keeps.queueChars _ _ _)

theorem Keeps.tryResumeForm {n : Nat} (d : Device) (p : PortIx) : Keeps n d (d.tryResumeForm p) := by
  unfold Device.tryResumeForm
  split
  · exact Keeps.queueResumeForm _ _ _
  · exact Keeps.refl d

/-! ## The lines of a CLOCK port -/

theorem ClockLine.startEdge_le (c : ClockLine) (t : Time) : (c.startEdge t).waiting.length ≤ c.waiting.length := by
  unfold ClockLine.startEdge
  split
  · split
    · rename_i h
      simp [h]
    · exact Nat.le_refl _
  · exact Nat.le_refl _

theorem ClockLine.emit_le (c : ClockLine) (t : Time) (e : Edge) (h : c.waiting.length ≤ 16) : (c.emit t e).waiting.length ≤ 16 := by
  unfold ClockLine.emit
  split
  · refine Nat.le_trans (ClockLine.startEdge_le _ _) ?_
    simp only [List.length_append, List.length_cons, List.length_nil]
    omega
  · exact h

theorem ClockLine.phaseEnd_le (c : ClockLine) (t : Time) (b : Bool) : (c.phaseEnd t b).waiting.length ≤ c.waiting.length := by
  unfold ClockLine.phaseEnd
  split
  · exact Nat.le_refl _
  · split <;> exact Nat.le_refl _
  · exact ClockLine.startEdge_le _ _

theorem ClockLine.gapEnd_le (c : ClockLine) (t : Time) : (c.gapEnd t).waiting.length ≤ c.waiting.length := by
  unfold ClockLine.gapEnd
  split
  · split
    · exact ClockLine.startEdge_le _ _
    · exact Nat.le_refl _
  · exact Nat.le_refl _

theorem ClockLine.joinReached_waiting (c : ClockLine) (t : Time) (k : Nat) : (c.joinReached t k).waiting = c.waiting := by
  unfold ClockLine.joinReached ClockLine.beginPulse
  split <;> first | rfl | (split <;> rfl)

theorem ClockLine.polarity_waiting (c : ClockLine) (b : Bool) : (c.polarity b).waiting = c.waiting := by
  unfold ClockLine.polarity
  split <;> rfl

theorem ClockLine.abandon_waiting (c : ClockLine) : c.abandon.waiting = c.waiting := by
  unfold ClockLine.abandon
  split <;> rfl

theorem ClockLine.pulseEnd_waiting (c : ClockLine) (t : Time) : (c.pulseEnd t).waiting = c.waiting := by
  unfold ClockLine.pulseEnd
  split <;> rfl

theorem Keeps.tryClockLeadIn {n : Nat} (d : Device) (p : PortIx) : Keeps n d (d.tryClockLeadIn p) := by
  unfold Device.tryClockLeadIn
  split
  · exact Keeps.modPort d p _
  · exact Keeps.refl d

theorem Keeps.abandonForm {n : Nat} (d : Device) (p : PortIx) : Keeps n d (d.abandonForm p) := by
  unfold Device.abandonForm
  split
  · refine Keeps.modPort d p _ rfl ?_
    rintro ⟨h1, h2, h3⟩
    exact ⟨h1, h2, by rw [ClockLine.abandon_waiting]; exact h3⟩
  · exact (Keeps.abandonStepForm _ _).trans (Keeps.pump _ _)
  · exact Keeps.refl d

theorem Keeps.takeForm {n : Nat} (d : Device) (p : PortIx) (j : Nat) : Keeps n d (d.takeForm p j) := by
  unfold Device.takeForm
  refine Keeps.ite (Keeps.refl d) ?_
  split
  · exact (Keeps.modPort d p _).trans (Keeps.tryClockLeadIn _ _)
  · exact ((Keeps.modPort d p _).trans (Keeps.tryStepLeadIn _ _)).trans (Keeps.pump _ _)
  · exact Keeps.refl d

/-! ## Frames and joins -/

theorem Keeps.beginFrame {n : Nat} (d : Device) (p : PortIx) : Keeps n d (d.beginFrame p) := Keeps.modPort d p _

theorem Keeps.firstFrame {n : Nat} (d : Device) (p : PortIx) : Keeps n d (d.firstFrame p) := by
  unfold Device.firstFrame
  exact Keeps.ite (Keeps.modPort d p _) (Keeps.beginFrame _ _)

theorem Keeps.waitingFrame {n : Nat} (d : Device) (p : PortIx) : Keeps n d (d.waitingFrame p) := by
  unfold Device.waitingFrame
  exact Keeps.ite (Keeps.beginFrame _ _) (Keeps.refl d)

theorem Keeps.dropJoin {n : Nat} (d : Device) (p : PortIx) : Keeps n d (d.dropJoin p) := by
  unfold Device.dropJoin
  exact Keeps.ite (Keeps.refl d) ((Keeps.modPort d p _).trans (Keeps.abandonForm _ _))

theorem Keeps.takeJoin {n : Nat} (d : Device) (p : PortIx) (c : JoinChoice) : Keeps n d (d.takeJoin p c) := by
  unfold Device.takeJoin
  exact Keeps.ite (Keeps.modPort d p _) (((Keeps.dropJoin d p).trans (Keeps.modPort _ p _)).trans (Keeps.takeForm _ _ _))

theorem Keeps.chooseFirst {n : Nat} (d : Device) (p : PortIx) : Keeps n d (d.chooseFirst p) := by
  unfold Device.chooseFirst
  refine Keeps.ite (Keeps.refl d) ?_
  split
  · exact Keeps.takeJoin _ _ _
  · exact Keeps.refl d

theorem Keeps.chooseAgain {n : Nat} (d : Device) (p : PortIx) : Keeps n d (d.chooseAgain p) := by
  unfold Device.chooseAgain
  split
  · split
    · exact Keeps.takeJoin _ _ _
    · exact Keeps.dropJoin _ _
  · exact Keeps.refl d

theorem Keeps.afterPlanPort {n : Nat} (lo : Nat) (d : Device) (p : PortIx) : Keeps n d (Device.afterPlanPort lo d p) := by
  unfold Device.afterPlanPort
  split
  · exact Keeps.ite (Keeps.dropJoin _ _) (Keeps.ite (Keeps.chooseAgain _ _) (Keeps.refl d))
  · exact Keeps.refl d

theorem Keeps.afterPlan {n : Nat} (d : Device) (lo : Nat) : Keeps n d (d.afterPlan lo) := Keeps.eachPort (Keeps.afterPlanPort lo) d

theorem Keeps.levelJoin {n : Nat} (d : Device) (p : PortIx) : Keeps n d (d.levelJoin p) := by
  unfold Device.levelJoin
  exact Keeps.ite ((Keeps.modPort d p _).trans (Keeps.markAll _ _ _)) ((Keeps.modPort d p _).trans (Keeps.markAll _ _ _))

end Sys2Proof.Machine
end

