-- ==== Sys2Proof/Laws/Timeline.lean ====
section
/-! SUPPORT. The planner, the port states, the runs, the reaches and the follower in the relations of Keeps.lean. -/
namespace Sys2Proof.Machine
set_option Elab.async false

/-! ## Plans -/

theorem planChain_tail : ∀ {l : List PlanEntry}, planChain l → planChain l.tail
  | [], h => h
  | [_], _ => trivial
  | _ :: _ :: _, h => h.2

theorem planChain_append {e : PlanEntry} : ∀ {l : List PlanEntry}, planChain l → (∀ a, l.getLast? = some a → a.Follows e) → planChain (l ++ [e])
  | [], _, _ => trivial
  | [a], _, h => ⟨h a rfl, trivial⟩
  | _ :: b :: l, hc, h => ⟨hc.1, planChain_append (l := b :: l) hc.2 (fun x hx => h x (by simpa [List.getLast?_cons_cons] using hx))⟩

/-- In a plan without gaps every entry lies above the head. -/
theorem planChain_above : ∀ {l : List PlanEntry} {a : PlanEntry}, planChain (a :: l) → ∀ e ∈ l, a.pi < e.pi
  | [], _, _, _, he => absurd he (by simp)
  | b :: l, a, h, e, he => by
    have hab : b.pi = a.pi + 1 := h.1.1
    rcases List.mem_cons.mp he with rfl | he'
    · omega
    · have := planChain_above (l := l) h.2 e he'
      omega

/-- The entries below a pulse are a beginning of the plan. -/
theorem planChain_filter (k : Nat) : ∀ {l : List PlanEntry}, planChain l → planChain (l.filter fun e => decide (e.pi < k))
  | [], _ => trivial
  | [a], _ => by by_cases h : a.pi < k <;> simp [h, planChain]
  | a :: b :: l, h => by
    have ih := planChain_filter k (l := b :: l) h.2
    by_cases ha : a.pi < k
    · by_cases hb : b.pi < k
      · simp only [List.filter_cons, ha, hb, decide_true, if_true] at ih ⊢
        exact ⟨h.1, ih⟩
      · have hl : ∀ e ∈ l, ¬ e.pi < k := fun e he => by have := planChain_above h.2 e he; omega
        have : (l.filter fun e => decide (e.pi < k)) = [] := by
          simp only [List.filter_eq_nil_iff, decide_eq_true_eq]; exact hl
        simp [ha, hb, this, planChain]
    · have hall : ∀ e ∈ b :: l, ¬ e.pi < k := fun e he => by have := planChain_above h e he; omega
      have : ((a :: b :: l).filter fun e => decide (e.pi < k)) = [] := by
        simp only [List.filter_eq_nil_iff, decide_eq_true_eq]
        intro e he
        rcases List.mem_cons.mp he with rfl | he'
        · exact ha
        · exact hall e he'
      rw [this]; trivial

theorem clampPeriod_range (x : Int) : periodMin ≤ clampPeriod x ∧ clampPeriod x ≤ periodMax := by
  unfold clampPeriod periodMin periodMax
  split
  · omega
  · split <;> omega

theorem periodUsed_range (r : Nat) (s : Option Spread) (b : Int) : periodMin ≤ periodUsed r s b ∧ periodUsed r s b ≤ periodMax := clampPeriod_range _

@[simp] theorem PlanBase.withPending_pi (b : PlanBase) (pl : Planner) (k : Nat) : (b.withPending pl k).pi = b.pi := by
  unfold PlanBase.withPending; split <;> rfl

@[simp] theorem PlanBase.withPending_prev (b : PlanBase) (pl : Planner) (k : Nat) : (b.withPending pl k).prev = b.prev := by
  unfold PlanBase.withPending; split <;> rfl

/-- R18, R24: the entry built after an entry follows it. -/
theorem Device.buildEntry_follows (d : Device) (a : PlanEntry) : a.Follows (d.buildEntry (PlanBase.after a)) := by
  refine ⟨?_, ?_, ?_, ?_⟩ <;>
    simp only [Device.buildEntry, PlanBase.withPending_pi, PlanBase.withPending_prev, PlanBase.after]
  · exact (periodUsed_range _ _ _).1
  · exact (periodUsed_range _ _ _).2

theorem nudgeSpent_ok {b : Int} (h : balanceOk b) : balanceOk (nudgeSpent b) := by
  unfold balanceOk nudgeSpent at *
  split
  · omega
  · split <;> omega

theorem saturate64_ok (b : Int) : balanceOk (saturate64 b) := by
  unfold balanceOk saturate64
  split
  · omega
  · split <;> omega

/-- The balance a pulse is planned from is in its range. -/
theorem Device.planBase_balance {d : Device} (h : d.BalanceOk) {b : PlanBase} (hb : d.planBase = some b) : balanceOk b.snap.balance := by
  unfold Device.planBase at hb
  split at hb
  · rename_i e he
    cases hb
    exact h.1 e (List.mem_of_getLast? he)
  · split at hb
    · rename_i e he
      cases hb
      exact h.2.1 e he
    · cases ho : d.planner.opening with
      | none => rw [ho] at hb; simp at hb
      | some o =>
        rw [ho] at hb
        simp only [Option.map_some, Option.some.injEq] at hb
        subst hb
        exact ⟨show (-64 : Int) ≤ 0 by decide, show (0 : Int) ≤ 64 by decide⟩

theorem PlanBase.withPending_balance {b : PlanBase} {pl : Planner} {k : Nat} (h : balanceOk b.snap.balance)
    (hp : ∀ x, pl.pendBalance = some x → balanceOk x) : balanceOk (b.withPending pl k).snap.balance := by
  unfold PlanBase.withPending
  split
  · dsimp only
    split
    · rename_i x hx; exact hp x hx
    · exact h
  · exact h

theorem Device.buildEntry_balance {d : Device} (h : d.BalanceOk) {b : PlanBase} (hb : balanceOk b.snap.balance) :
    balanceOk (d.buildEntry b).snap.balance := nudgeSpent_ok (PlanBase.withPending_balance hb h.2.2)

/-! ## Planner operations -/

theorem Keeps.latchStop (d : Device) (k : Nat) : Keeps 1 d (d.latchStop k) := by
  have h : Keeps 1 d { d with planner := { d.planner with latched := some k } } := Keeps.ofPlanner id id
  exact h.trans (Keeps.setTransport _ _)

theorem Keeps.appendEntry (d : Device) (e : PlanEntry) (hf : ∀ a, d.planner.plan.getLast? = some a → a.Follows e)
    (hb : d.BalanceOk → balanceOk e.snap.balance) : Keeps 1 d (d.appendEntry e) := by
  have h : Keeps 1 d { d with planner := { d.planner with plan := d.planner.plan ++ [e] }, globals := d.globals.map (·.meterMoved e) } := by
    have h1 : Keeps 1 d { d with planner := { d.planner with plan := d.planner.plan ++ [e] } } :=
      Keeps.ofPlanner (fun hp => planChain_append hp hf) (fun hbal => ⟨by
        intro x hx
        rcases List.mem_append.mp hx with hx | hx
        · exact hbal.1 x hx
        · rw [List.mem_singleton] at hx; subst hx; exact hb hbal, hbal.2⟩)
    exact h1.trans Keeps.ofGlobals
  unfold Device.appendEntry
  exact Keeps.ite (h.trans (Keeps.latchStop _ _)) h

theorem Device.planBase_last {d : Device} {a : PlanEntry} (h : d.planner.plan.getLast? = some a) : d.planBase = some (PlanBase.after a) := by
  simp [Device.planBase, h]

theorem Keeps.planPulse (d : Device) : Keeps 1 d d.planPulse := by
  unfold Device.planPulse
  split
  · rename_i b hb
    refine Keeps.appendEntry d _ ?_ ?_
    · intro a ha
      rw [Device.planBase_last ha] at hb
      cases hb
      exact d.buildEntry_follows a
    · intro h
      exact Device.buildEntry_balance h (Device.planBase_balance h hb)
  · exact Keeps.refl d

theorem Keeps.extendLoop : ∀ (n : Nat) (d : Device), Keeps 1 d (Device.extendLoop n d)
  | 0, d => Keeps.refl d
  | n + 1, d => by
    unfold Device.extendLoop
    exact Keeps.ite ((Keeps.planPulse d).trans (Keeps.extendLoop n _)) (Keeps.refl d)

theorem Keeps.moveGlobals {n : Nat} (d : Device) : Keeps n d d.moveGlobals := by
  unfold Device.moveGlobals
  exact Keeps.ite (Keeps.refl d) (Keeps.ofGlobals.trans (Keeps.foldl (fun d c => Keeps.writeProgress d c _) _ _))

theorem Keeps.moveWaiting {n : Nat} (d : Device) : Keeps n d d.moveWaiting := by
  unfold Device.moveWaiting
  exact Keeps.ite (Keeps.moveGlobals d) (Keeps.refl d)

theorem Keeps.extend (d : Device) : Keeps 1 d d.extend := by
  unfold Device.extend
  exact Keeps.ite (((Keeps.moveGlobals d).trans (Keeps.extendLoop _ _)).trans (Keeps.afterPlan _ _)) (Keeps.refl d)

theorem Keeps.discardSoft (d : Device) : Keeps 1 d d.discardSoft := by
  unfold Device.discardSoft
  exact Keeps.ofPlanner (planChain_filter _) (fun h => ⟨fun e he => h.1 e (List.mem_filter.mp he).1, h.2⟩)

theorem Keeps.replan (d : Device) : Keeps 1 d d.replan := by
  unfold Device.replan
  exact Keeps.ite (Keeps.refl d) (Keeps.ite (Keeps.moveGlobals d)
    (((((Keeps.discardSoft d).trans (Keeps.moveGlobals _)).trans (Keeps.planPulse _)).trans (Keeps.extendLoop _ _)).trans (Keeps.afterPlan _ _)))

theorem Keeps.replanFor (d : Device) (due : Nat) : Keeps 1 d (d.replanFor due) := by
  unfold Device.replanFor
  exact Keeps.ite (Keeps.replan d) (Keeps.refl d)

theorem Keeps.hardenOne {n : Nat} (d : Device) (k : Nat) (c : Cue) (b : Bool) : Keeps n d (d.hardenOne k c b) :=
  Keeps.ofGlobals.trans (Keeps.endCue _ _ _ _ _ _)

theorem Keeps.hardenApplied {n : Nat} (k : Nat) : ∀ (l : List Cue) (d : Device), Keeps n d (Device.hardenApplied k d l)
  | [], d => Keeps.refl d
  | c :: l, d => by
    unfold Device.hardenApplied
    exact (Keeps.hardenOne d k c _).trans (Keeps.hardenApplied k l _)

theorem Keeps.missPassed {n : Nat} (k : Nat) (d : Device) (c : Cue) : Keeps n d (Device.missPassed k d c) :=
  Keeps.ofGlobals.trans (Keeps.endCue _ _ _ _ _ _)

theorem Keeps.harden {n : Nat} (d : Device) (e : PlanEntry) : Keeps n d (d.harden e) :=
  (Keeps.hardenApplied _ _ d).trans (Keeps.foldl (Keeps.missPassed e.pi) _ _)

theorem Keeps.raiseHorizon (d : Device) (k : Nat) : Keeps 2 d (d.raiseHorizon k) := by
  unfold Device.raiseHorizon
  refine Keeps.ite (Keeps.trans ?_ (Keeps.foldl Keeps.harden _ _)) (Keeps.refl d)
  exact { Keeps.refl (n := 2) d with
    balance := fun h => ⟨h.1, h.2.1, fun b hb => by cases hb⟩
    timeline := fun _ => rfl
    planner := fun h => absurd h (by omega) }

/-! ## Port states -/

theorem Keeps.setState {n : Nat} (d : Device) (p : PortIx) (st : PortState) : Keeps n d (d.setState p st) := by
  unfold Device.setState
  refine Keeps.ite (Keeps.refl d) ?_
  have h : Keeps n d ((d.modPort p fun x => { x with state := st }).requestStatus) := (Keeps.modPort d p _).trans (Keeps.requestStatus _)
  dsimp only
  split
  · exact h.trans (Keeps.latch _ _)
  · exact h.trans (Keeps.latch _ _)
  · exact h.trans (Keeps.latch _ _)
  · exact h

theorem Port.stopped_links (x : Port) (b : Bool) (t : Time) : (x.stopped b t).LinksOk := by
  refine ⟨?_, ?_, ?_⟩ <;> simp [Port.stopped, ClockLine.leave]

theorem Keeps.dropTo {n : Nat} (d : Device) (p : PortIx) (st : PortState) : Keeps n d (d.dropTo p st) :=
  ((Keeps.modPort d p (fun x => x.stopped false d.time) rfl (fun _ => Port.stopped_links _ _ _)).trans (Keeps.setState _ _ _)).trans (Keeps.skipFlights _ _ _)

theorem Keeps.enterAcquiring (d : Device) (p : PortIx) : Keeps 1 d (d.enterAcquiring p) :=
  ((Keeps.setState d p _).trans (Keeps.extend _)).trans (Keeps.chooseFirst _ _)

theorem Keeps.enterLevel (d : Device) (p : PortIx) : Keeps 1 d (d.enterLevel p) :=
  (((Keeps.setState d p _).trans (Keeps.extend _)).trans (Keeps.levelJoin _ _)).trans (Keeps.firstFrame _ _)

theorem Keeps.enter (d : Device) (p : PortIx) : Keeps 1 d (d.enter p) := by
  unfold Device.enter
  split
  · exact Keeps.enterAcquiring _ _
  · exact Keeps.enterLevel _ _
  · exact Keeps.dropTo _ _ _

theorem Port.unjoined_links {x : Port} (h : x.LinksOk) : x.unjoined.LinksOk := by
  refine ⟨by simp [Port.unjoined], ?_, by simp [Port.unjoined, ClockLine.leave]⟩
  exact Nat.le_trans (withdrawChars_le _ _) (Nat.le_trans (withdrawChars_le _ _) h.2.1)

theorem Keeps.freshAcquire (d : Device) (p : PortIx) : Keeps 1 d (d.freshAcquire p) := by
  unfold Device.freshAcquire
  have h : Keeps 1 d (((d.modPort p Port.unjoined).setState p .acquiring).skipFlights p (d.port p).step.queue) :=
    ((Keeps.modPort d p _ rfl Port.unjoined_links).trans (Keeps.setState _ _ _)).trans (Keeps.skipFlights _ _ _)
  have h2 : Keeps 1 d (if d.freshStopDue p then ((((d.modPort p Port.unjoined).setState p .acquiring).skipFlights p (d.port p).step.queue).queueChar p
      (TimingChar.plain chStop)).pump p else ((d.modPort p Port.unjoined).setState p .acquiring).skipFlights p (d.port p).step.queue) :=
    Keeps.ite ((h.trans (Keeps.queueChar _ _ _)).trans (Keeps.pump _ _)) h
  exact (h2.trans (Keeps.extend _)).trans (Keeps.chooseFirst _ _)

theorem Keeps.freshLevel (d : Device) (p : PortIx) : Keeps 1 d (d.freshLevel p) :=
  (((Keeps.latch d _).trans (Keeps.requestStatus _)).trans (Keeps.extend _)).trans (Keeps.levelJoin _ _)

theorem Keeps.freshJoin (d : Device) (p : PortIx) : Keeps 1 d (d.freshJoin p) := by
  unfold Device.freshJoin
  split
  · exact Keeps.freshLevel _ _
  · exact Keeps.freshAcquire _ _

theorem Port.clearedFlaps_eq (x : Port) (new : Settings) : ∃ l, x.clearedFlaps new = { x with flaps := l } := by
  unfold Port.clearedFlaps
  split
  · exact ⟨[], rfl⟩
  · exact ⟨x.flaps, rfl⟩

theorem Port.withSettings_links {x : Port} (new : Settings) (h : x.LinksOk) : (x.withSettings new).LinksOk := by
  refine ⟨h.1, h.2.1, ?_⟩
  show ((x.clock.polarity new.negative).waiting).length ≤ 16
  rw [ClockLine.polarity_waiting]; exact h.2.2

theorem Port.newKind_links {x : Port} (new : Settings) (h : x.LinksOk) : (x.newKind new).LinksOk :=
  ⟨h.1, h.2.1, by simp [Port.newKind, ClockLine.idle]⟩

theorem Port.clearedFlaps_links {x : Port} (new : Settings) (h : x.LinksOk) : (x.clearedFlaps new).LinksOk := by
  obtain ⟨l, hl⟩ := x.clearedFlaps_eq new
  rw [hl]; exact h

/-- A change of kind leaves legal settings if the old or the new ones are so in turn. -/
theorem Keeps.changeKind (d : Device) (p : PortIx) (new : Settings) (hn : (d.port p).settings.Ok → new.Ok) : Keeps 0 d (d.changeKind p new) := by
  have h0 : Keeps 1 d (d.cancelSlots .portSetup (d.heldOfPort p)) := Keeps.cancelSlots _ _ _
  have hp := h0.cfg (by omega) p
  have h1 : Keeps 0 d (((d.cancelSlots .portSetup (d.heldOfPort p)).modPort p fun x => (((x.stopped true d.time).clearedFlaps new).newKind new)).pump p) := by
    refine ((h0.mono (by omega)).trans (Keeps.modSettings _ p _ ?_ ?_)).trans (Keeps.pump _ _)
    · rw [hp]; exact hn
    · exact fun _ => Port.newKind_links _ (Port.clearedFlaps_links _ (Port.stopped_links _ _ _))
  unfold Device.changeKind
  exact Keeps.ite h1 (((h1.trans (Keeps.setState _ _ _)).trans (Keeps.latch _ _)).trans ((Keeps.enter _ _).mono (by omega)))

theorem Keeps.applySetup (d : Device) (p : PortIx) (new : Settings) (hn : (d.port p).settings.Ok → new.Ok) : Keeps 0 d (d.applySetup p new) := by
  unfold Device.applySetup
  have h1 : Keeps 0 d (d.modPort p fun x => (x.clearedFlaps new).withSettings new) :=
    Keeps.modSettings d p _ hn (fun h => Port.withSettings_links _ (Port.clearedFlaps_links _ h))
  dsimp only
  split
  · refine Keeps.modSettings d p _ ?_ ?_
    · split <;> exact hn
    · split
      · exact Port.withSettings_links _
      · exact Port.newKind_links _
  · refine Keeps.ite (Keeps.changeKind d p new hn) (Keeps.ite (h1.trans ((Keeps.enter _ _).mono (by omega))) (Keeps.ite (h1.trans (Keeps.dropTo _ _ _))
      (Keeps.ite (h1.trans ((Keeps.freshJoin _ _).mono (by omega)))
        (Keeps.ite ((h1.trans ((Keeps.extend _).mono (by omega))).trans (Keeps.chooseAgain _ _)) h1))))

theorem Keeps.setMask (d : Device) (p : PortIx) : Keeps 0 d (d.modPort p fun x => { x with settings := { x.settings with mask := true } }) :=
  Keeps.modSettings d p _ id id

theorem Keeps.flapFault (d : Device) (p : PortIx) : Keeps 0 d (d.flapFault p) :=
  ((Keeps.setMask d p).trans (Keeps.dropTo _ _ _)).trans (Keeps.captureFault _ _ _ _)

theorem Keeps.losePresence (d : Device) (p : PortIx) : Keeps 0 d (d.losePresence p) := by
  unfold Device.losePresence
  have h : Keeps 0 d (d.modPort p fun x => { x with flaps := d.heldFlaps p ++ [d.time] }) := Keeps.modPort d p _
  exact Keeps.ite (h.trans (Keeps.flapFault _ _)) (Keeps.ite ((h.trans (Keeps.setMask _ _)).trans (Keeps.dropTo _ _ _)) (h.trans (Keeps.dropTo _ _ _)))

theorem Keeps.recognize (d : Device) (p : PortIx) : Keeps 0 d (d.recognize p) := by
  unfold Device.recognize
  have h : Keeps 0 d (d.modPort p fun x => { x with presence := x.raw }) := Keeps.modPort d p _
  exact Keeps.ite (Keeps.ite (h.trans ((Keeps.enter _ _).mono (by omega))) h) (Keeps.ite (h.trans (Keeps.losePresence _ _)) h)

theorem Keeps.ageFlaps {n : Nat} (d : Device) (p : PortIx) : Keeps n d (d.ageFlaps p) := Keeps.modPort d p _

/-! ## Runs -/

theorem Keeps.reformClock {n : Nat} (d : Device) (p : PortIx) (o : Opening) : Keeps n d (d.reformClock p o) := by
  unfold Device.reformClock
  exact Keeps.ite (Keeps.ite (Keeps.modPort d p _) (Keeps.refl d)) (Keeps.takeForm _ _ _)

theorem Keeps.reform {n : Nat} (d : Device) (p : PortIx) (o : Opening) : Keeps n d (d.reform p o) := by
  unfold Device.reform
  split
  · exact Keeps.reformClock _ _ _
  · exact Keeps.takeForm _ _ _
  · exact Keeps.refl d

theorem Keeps.beginPort {n : Nat} (o : Opening) (d : Device) (p : PortIx) : Keeps n d (Device.beginPort o d p) := by
  unfold Device.beginPort
  have h : ∀ m g, Keeps n d (d.modPort p (·.begins o m g)) := fun m g => Keeps.modPort d p _
  dsimp only
  split
  · exact (h _ _).trans (Keeps.takeForm _ _ _)
  · exact (h _ _).trans (Keeps.reform _ _ _)
  · exact (h _ _).trans (Keeps.reform _ _ _)
  · exact h _ _

theorem Keeps.judgeAll {n : Nat} (d : Device) (k : Nat) : Keeps n d (d.judgeAll k) :=
  Keeps.foldl (fun _ m => Keeps.foldl (fun d p => Keeps.judgeAtStart d k p m) _ _) _ _

theorem Keeps.openPlanner (d : Device) (o : Opening) : Keeps 1 d { d with planner := d.planner.opened o } :=
  Keeps.ofPlanner (fun _ => trivial) (fun _ => ⟨fun _ he => (List.not_mem_nil he).elim, fun _ he => (nomatch he), fun _ he => (nomatch he)⟩)

theorem Keeps.beginRun (d : Device) (o : Opening) : Keeps 1 d (d.beginRun o) := by
  unfold Device.beginRun
  exact ((((((Keeps.openPlanner d o).trans (Keeps.setTransport _ _)).trans (Keeps.moveGlobals _)).trans (Keeps.planPulse _)).trans (Keeps.extend _)).trans
    (Keeps.eachPort (Keeps.beginPort o) _)).trans (Keeps.judgeAll _ _)

theorem ClockLine.runEnds_le (c : ClockLine) (t : Time) : (c.runEnds t).waiting.length ≤ c.waiting.length := ClockLine.startEdge_le _ _

theorem Keeps.runEndsPort {n : Nat} (d : Device) (p : PortIx) (s : Nat) (t : Time) : Keeps n d (d.modPort p (·.runEnds s t)) := by
  refine Keeps.modPort d p _ rfl ?_
  rintro ⟨h1, h2, h3⟩
  refine ⟨h1, ?_, Nat.le_trans (ClockLine.runEnds_le _ _) h3⟩
  unfold Port.runEnds
  dsimp only
  split
  · exact Nat.le_trans (withdrawChars_le _ _) h2
  · exact h2

theorem Keeps.endPort {n : Nat} (s : Nat) (d : Device) (p : PortIx) : Keeps n d (Device.endPort s d p) := by
  unfold Device.endPort
  exact (Keeps.ite (Keeps.dropJoin d p) (Keeps.refl d)).trans (Keeps.runEndsPort _ _ _ _)

theorem Keeps.missStop {n : Nat} (d : Device) (c : Cue) : Keeps n d (d.missStop c) := Keeps.ofGlobals.trans (Keeps.endCue _ _ _ _ _ _)

theorem Keeps.endPlanner (d : Device) (e : PlanEntry) : Keeps 1 d { d with planner := d.planner.ended e } :=
  Keeps.ofPlanner (fun _ => trivial) (fun _ => ⟨fun _ he => (List.not_mem_nil he).elim, fun _ he => (nomatch he), fun _ he => (nomatch he)⟩)

theorem Keeps.endRun (d : Device) (e : PlanEntry) : Keeps 1 d (d.endRun e) := by
  unfold Device.endRun
  exact (((Keeps.endPlanner d e).trans (Keeps.setTransport _ _)).trans (Keeps.foldl Keeps.missStop _ _)).trans (Keeps.eachPort (Keeps.endPort _) _)

/-! ## Reaches -/

theorem Keeps.joinAt {n : Nat} (d : Device) (p : PortIx) (k : Nat) : Keeps n d (d.joinAt p k) :=
  ((Keeps.modPort d p _).trans (Keeps.setState _ _ _)).trans (Keeps.markAll _ _ _)

theorem Keeps.settleAt {n : Nat} (d : Device) (p : PortIx) (k : Nat) : Keeps n d (d.settleAt p k) := by
  unfold Device.settleAt
  split
  · exact Keeps.ite (Keeps.setState _ _ _) (Keeps.refl d)
  · exact Keeps.refl d

theorem Keeps.arrive {n : Nat} (d : Device) (p : PortIx) (k : Nat) : Keeps n d (d.arrive p k) := by
  unfold Device.arrive
  have h : Keeps n d (d.modPort p fun x => { x with cursor := k + 1 }) := Keeps.modPort d p _
  dsimp only
  split
  · exact h.trans (Keeps.joinAt _ _ _)
  · exact h.trans (Keeps.settleAt _ _ _)
  · exact h

theorem Keeps.supersede {n : Nat} (d : Device) (p : PortIx) (l : LastFired) : Keeps n d (d.supersede p l) := by
  unfold Device.supersede
  split
  · exact Keeps.refl d
  · exact Keeps.modPort d p _
  · exact Keeps.endAttempts _ _

theorem Keeps.endLast {n : Nat} (d : Device) : ∀ l : LastFired, Keeps n d (d.endLast l)
  | .none => Keeps.refl d
  | .listed _ => Keeps.refl d
  | .ending _ => Keeps.endAttempts _ _

theorem Keeps.noteFired {n : Nat} (d : Device) (p : PortIx) (c : Cue) : Keeps n d (d.noteFired p c).1 := by
  unfold Device.noteFired
  dsimp only
  split
  · exact Keeps.refl d
  · exact Keeps.enterList _ _ _

theorem Keeps.offerSend {n : Nat} (d : Device) (p : PortIx) (k : Nat) (c : Cue) : Keeps n d (d.offerSend p k c) := by
  unfold Device.offerSend
  split
  · rename_i hr
    refine (Keeps.modPort d p _ rfl ?_).trans (Keeps.writeProgress _ _ _)
    rintro ⟨_, h2, h3⟩
    refine ⟨?_, h2, h3⟩
    simp only [StepLine.hasRoom, decide_eq_true_eq] at hr
    simp only [List.length_append, List.length_cons, List.length_nil]
    omega
  · exact (Keeps.captureFault _ _ _ _).trans (Keeps.settleAttempt _ _ _)

theorem Keeps.fireScene {n : Nat} (d : Device) (p : PortIx) (k s f : Nat) (m : Modulator) (a b : Nat) : Keeps n d (d.fireScene p k s f m a b) := by
  unfold Device.fireScene
  have h : Keeps n d (d.copyLevels (sceneBase s)).2 := Keeps.copyLevels d _
  revert h
  generalize d.copyLevels (sceneBase s) = x
  exact fun h => h.trans (Keeps.modPort _ p _)

theorem Keeps.fireCue {n : Nat} (d : Device) (p : PortIx) (k : Nat) (l : LastFired) (c : Cue) : Keeps n d (d.fireCue p k l c).1 := by
  unfold Device.fireCue
  split
  · exact Keeps.offerSend _ _ _ _
  · exact ((Keeps.supersede d p l).trans (Keeps.modPort _ p _)).trans (Keeps.noteFired _ _ _)
  · exact ((Keeps.supersede d p l).trans (Keeps.fireScene _ p _ _ _ _ _ _)).trans (Keeps.noteFired _ _ _)
  · exact Keeps.refl d

theorem Keeps.dispatchOne {n : Nat} (d : Device) (p : PortIx) (k : Nat) (l : LastFired) (c : Cue) : Keeps n d (d.dispatchOne p k l c).1 := by
  unfold Device.dispatchOne
  have h : Keeps n d (d.modPort p fun x => { x with cues := dropCue c.slot x.cues }) := Keeps.modPort d p _
  dsimp only
  split
  · exact h.trans (Keeps.fireCue _ _ _ _ _)
  · exact h.trans (Keeps.settleAttempt _ _ _)

theorem Keeps.dispatchLoop {m : Nat} (p : PortIx) (k : Nat) : ∀ (n : Nat) (d : Device) (l : LastFired), Keeps m d (Device.dispatchLoop n d p k l)
  | 0, d, l => Keeps.endLast d l
  | n + 1, d, l => by
    unfold Device.dispatchLoop
    split
    · exact Keeps.endLast d l
    · rename_i c _
      refine Keeps.ite (Keeps.endLast d l) ?_
      have h := Keeps.dispatchOne (n := m) d p k l c
      split
      rename_i d1 l1 heq
      rw [heq] at h
      exact h.trans (Keeps.dispatchLoop p k n d1 l1)

theorem Keeps.dispatch {n : Nat} (d : Device) (p : PortIx) (k : Nat) : Keeps n d (d.dispatch p k) := by
  unfold Device.dispatch
  split
  · exact Keeps.dispatchLoop _ _ _ _ _
  · exact Keeps.modPort d p _
  · exact Keeps.refl d

theorem ClockLine.stopForm_waiting (c : ClockLine) (b : Bool) : (c.stopForm b).waiting = c.waiting := by
  unfold ClockLine.stopForm
  split <;> rfl

theorem ClockLine.reach_le (c : ClockLine) (t : Time) (x : Port) (e : PlanEntry) (h : c.waiting.length ≤ 16) : (c.reach t x e).waiting.length ≤ 16 := by
  unfold ClockLine.reach
  have h1 : (if x.resume = some e.pi then c.runRises else c.joinReached t e.pi).waiting = c.waiting := by
    split
    · rfl
    · exact ClockLine.joinReached_waiting _ _ _
  have h2 : ∀ w, (if x.onBoundary e.pi then (if x.resume = some e.pi then c.runRises else c.joinReached t e.pi).emit t
      { pi := e.pi, width := w } else (if x.resume = some e.pi then c.runRises else c.joinReached t e.pi)).waiting.length ≤ 16 := by
    intro w
    split
    · exact ClockLine.emit_le _ _ _ (by rw [h1]; exact h)
    · rw [h1]; exact h
  dsimp only
  split
  · rw [ClockLine.stopForm_waiting]; exact h2 _
  · exact h2 _

theorem Keeps.emitClock {n : Nat} (d : Device) (p : PortIx) (b : RunState) (e : PlanEntry) : Keeps n d (d.emitClock p b e) := by
  unfold Device.emitClock
  split
  · refine Keeps.modPort d p _ rfl ?_
    rintro ⟨h1, h2, _⟩
    exact ⟨h1, h2, by simp [ClockLine.halt]⟩
  · exact Keeps.modPort d p _
  · exact Keeps.refl d
  · split
    · refine Keeps.ite (Keeps.modPort d p _ rfl ?_) (Keeps.refl d)
      rintro ⟨h1, h2, h3⟩
      exact ⟨h1, h2, ClockLine.reach_le _ _ _ _ h3⟩
    · refine Keeps.modPort d p _ rfl ?_
      rintro ⟨h1, h2, h3⟩
      exact ⟨h1, h2, ClockLine.reach_le _ _ _ _ h3⟩

theorem Keeps.joinFormReached {n : Nat} (d : Device) (p : PortIx) (k : Nat) : Keeps n d (d.joinFormReached p k) := by
  unfold Device.joinFormReached
  refine Keeps.trans ?_ (Keeps.modPort _ p _)
  split
  · exact Keeps.ite (Keeps.queueJoinForm _ _ _) (Keeps.refl d)
  · exact Keeps.refl d

theorem Keeps.resumeReached {n : Nat} (d : Device) (p : PortIx) (k : Nat) : Keeps n d (d.resumeReached p k) := by
  unfold Device.resumeReached
  refine (Keeps.ite (Keeps.refl d) (Keeps.queueResumeForm _ _ _)).trans (Keeps.modPort _ p _ rfl ?_)
  rintro ⟨h1, h2, h3⟩
  exact ⟨h1, by rw [List.length_map]; exact h2, h3⟩

theorem Keeps.endResume {n : Nat} (d : Device) (p : PortIx) (k : Nat) : Keeps n d (d.endResume p k) := by
  unfold Device.endResume
  split
  · exact Keeps.refl d
  · refine Keeps.ite (Keeps.modPort d p _ rfl ?_) (Keeps.resumeReached _ _ _)
    rintro ⟨h1, h2, h3⟩
    exact ⟨h1, Nat.le_trans (withdrawChars_le _ _) h2, h3⟩

theorem Keeps.haltStep {n : Nat} (d : Device) (p : PortIx) (k : Nat) : Keeps n d (d.haltStep p k) := by
  unfold Device.haltStep
  exact ((Keeps.endResume d p k).trans (Keeps.modPort _ p _)).trans (Keeps.queueChar _ _ _)

theorem Keeps.emitStep {n : Nat} (d : Device) (p : PortIx) (b : RunState) (e : PlanEntry) : Keeps n d (d.emitStep p b e) := by
  unfold Device.emitStep
  split
  · exact Keeps.haltStep _ _ _
  · exact ((Keeps.modPort d p _).trans (Keeps.tryResumeForm _ _)).trans (Keeps.queueChars _ _ _)
  · exact Keeps.refl d
  · split
    · exact Keeps.ite ((Keeps.resumeReached _ _ _).trans (Keeps.queueChars _ _ _)) (Keeps.queueChars _ _ _)
    · exact (Keeps.joinFormReached _ _ _).trans (Keeps.queueChars _ _ _)

theorem Keeps.emit {n : Nat} (d : Device) (p : PortIx) (b : RunState) (e : PlanEntry) : Keeps n d (d.emit p b e) := by
  unfold Device.emit
  split
  · exact Keeps.emitClock _ _ _ _
  · exact (Keeps.emitStep _ _ _ _).trans (Keeps.pump _ _)
  · exact Keeps.modPort d p _
  · exact Keeps.refl d

theorem StepLine.release_le (s : StepLine) (a b : Bool) : (s.release a b).queue.length = s.queue.length ∧ (s.release a b).timing = s.timing := by
  unfold StepLine.release
  split
  · rename_i h
    split <;> simp [h]
  · exact ⟨rfl, rfl⟩

theorem Keeps.reachPort (d : Device) (p : PortIx) (e : PlanEntry) : Keeps 2 d (d.reachPort p e) := by
  unfold Device.reachPort
  refine Keeps.trans (Keeps.trans (Keeps.trans (Keeps.trans (Keeps.arrive d p e.pi) (Keeps.raiseHorizon _ _)) (Keeps.modPort _ p _ rfl ?_)) (Keeps.dispatch _ _ _))
    (Keeps.emit _ _ _ _)
  rintro ⟨h1, h2, h3⟩
  refine ⟨?_, ?_, h3⟩
  · rw [(StepLine.release_le _ _ _).1]; exact h1
  · rw [(StepLine.release_le _ _ _).2]; exact h2

theorem Keeps.tryReach (d : Device) (p : PortIx) : Keeps 2 d (d.tryReach p) := by
  unfold Device.tryReach
  split
  · exact Keeps.reachPort _ _ _
  · exact Keeps.refl d

theorem Keeps.missLoop {m : Nat} (p : PortIx) (k : Nat) : ∀ (n : Nat) (d : Device), Keeps m d (Device.missLoop n d p k)
  | 0, d => Keeps.refl d
  | n + 1, d => by
    unfold Device.missLoop
    split
    · exact Keeps.refl d
    · exact Keeps.ite (Keeps.refl d) (((Keeps.modPort d p _).trans (Keeps.settleAttempt _ _ _)).trans (Keeps.missLoop p k n _))

theorem Keeps.missPort {n : Nat} (k : Nat) (d : Device) (p : PortIx) : Keeps n d (Device.missPort k d p) := by
  unfold Device.missPort
  exact Keeps.ite (Keeps.refl d) (Keeps.missLoop _ _ _ _)

theorem Keeps.catchUpLoop (bound : Nat) (p : PortIx) : ∀ (n : Nat) (d : Device), Keeps 2 d (Device.catchUpLoop bound n d p)
  | 0, d => Keeps.refl d
  | n + 1, d => by
    unfold Device.catchUpLoop
    split
    · exact Keeps.ite ((Keeps.reachPort _ _ _).trans (Keeps.catchUpLoop bound p n _)) (Keeps.refl d)
    · exact Keeps.refl d

theorem Keeps.catchUp (d : Device) (e : PlanEntry) : Keeps 2 d (d.catchUp e) := Keeps.eachPort (fun d p => Keeps.catchUpLoop _ p _ d) d

/-- The planner after a cursor reach but for the end of the run. -/
theorem Keeps.retire (d : Device) (e : PlanEntry) (hb : d.BalanceOk → balanceOk e.snap.balance) : Keeps 1 d { d with planner := d.planner.retire e } :=
  Keeps.ofPlanner planChain_tail (fun h => ⟨fun x hx => h.1 x (List.mem_of_mem_tail hx), fun x hx => by cases hx; exact hb h, h.2.2⟩)

theorem Keeps.cursorTo (d : Device) (k : Nat) : Keeps 1 d { d with planner := { d.planner with cursor := some k } } := Keeps.ofPlanner id id

theorem Keeps.catchUpEarly (d : Device) (e : PlanEntry) : Keeps 2 d (d.catchUpEarly e) :=
  Keeps.eachPort (fun d p => Keeps.ite (Keeps.refl d) (Keeps.catchUpLoop _ p _ d)) d

theorem Keeps.cursorArrives (d : Device) (e : PlanEntry) : Keeps 1 d (d.cursorArrives e) := by
  have h : Keeps 2 { d with planner := { d.planner with cursor := some (e.pi + 1) } } (d.cursorArrives e) :=
    (Keeps.raiseHorizon _ _).trans (Keeps.eachPort (Keeps.missPort e.pi) _)
  exact (Keeps.cursorTo d (e.pi + 1)).trans (h.mono (by omega))

theorem Device.cursorArrives_plan (d : Device) (e : PlanEntry) : (d.cursorArrives e).planner.plan = d.planner.plan := by
  have h : Keeps 2 { d with planner := { d.planner with cursor := some (e.pi + 1) } } (d.cursorArrives e) :=
    (Keeps.raiseHorizon _ _).trans (Keeps.eachPort (Keeps.missPort e.pi) _)
  exact h.plan_eq (by omega)

theorem Keeps.retireEntry (d : Device) (e : PlanEntry) (he : e ∈ d.planner.plan) : Keeps 1 d (d.retireEntry e) := by
  have h1 := Keeps.retire d e (fun hb => hb.1 e he)
  have h2 := Keeps.ite (c := e.beatStart = true) (h1.trans (Keeps.requestStatus _)) h1
  exact Keeps.ite (h2.trans (Keeps.endRun _ _)) h2

theorem Keeps.reachCursor (d : Device) (e : PlanEntry) (he : e ∈ d.planner.plan) : Keeps 1 d (d.reachCursor e) := by
  have h1 := Keeps.catchUpEarly d e
  have h3 := Keeps.catchUp ((d.catchUpEarly e).cursorArrives e) e
  have hplan : (((d.catchUpEarly e).cursorArrives e).catchUp e).planner.plan = d.planner.plan := by
    rw [h3.plan_eq (by omega), Device.cursorArrives_plan, h1.plan_eq (by omega)]
  have hm : e ∈ (((d.catchUpEarly e).cursorArrives e).catchUp e).planner.plan := by rw [hplan]; exact he
  exact (((h1.mono (by omega)).trans (Keeps.cursorArrives _ e)).trans (h3.mono (by omega))).trans (Keeps.retireEntry _ e hm)

theorem Device.cursorReachDue_mem {d : Device} {e : PlanEntry} (h : d.cursorReachDue = some e) : d.planner.plan.head? = some e := by
  unfold Device.cursorReachDue at h
  split at h
  · rename_i e1 k he1 _
    split at h
    · cases h; exact he1
    · cases h
  · cases h

theorem Keeps.tryCursorReach (d : Device) : Keeps 1 d d.tryCursorReach := by
  unfold Device.tryCursorReach
  split
  · rename_i e he
    exact Keeps.reachCursor d e (List.mem_of_mem_head? (Device.cursorReachDue_mem he))
  · exact Keeps.refl d

end Sys2Proof.Machine
end

