-- ==== Sys2Proof/Laws/Blocks.lean ====
section
/-! SUPPORT. The follower, the supervision, the status writer, the host port and the intake unit in the relations of Keeps.lean. -/
namespace Sys2Proof.Machine
set_option Elab.async false

/-! ## Follower -/

theorem Device.setFollower_follower (d : Device) (st : FollowerState) : (d.setFollower st).follower = { d.follower with state := st } := by
  unfold Device.setFollower
  split
  · rename_i h
    rw [← h]
  · simp

/-- The follower takes another record and then a state. -/
theorem Keeps.followerTo {d : Device} {f : Follower} (st : FollowerState) (h : d.follower.Ok → ({ f with state := st } : Follower).Ok) :
    Keeps 0 d (({ d with follower := f } : Device).setFollower st) := by
  unfold Device.setFollower
  split
  · rename_i hs
    refine Keeps.ofFollower ?_
    intro hd
    have := h hd
    rw [← hs] at this
    exact this
  · have h1 : Keeps 0 d { d with follower := { f with state := st } } := Keeps.ofFollower h
    exact (h1.trans (Keeps.latch _ .follow)).trans (Keeps.requestStatus _)

theorem Keeps.correct (d : Device) (p : Nat) (s : Option Spread) : Keeps 1 d (d.correct p s) := by
  unfold Device.correct
  split
  · refine Keeps.trans ?_ (Keeps.replan _)
    exact Keeps.ofPlanner id id
  · exact Keeps.refl d

theorem intervalPeriod_range (us b : Nat) : periodMin ≤ intervalPeriod us b ∧ intervalPeriod us b ≤ periodMax := clampPeriod_range _

theorem Keeps.lockFollower (d : Device) (len : Nat) (t : Time) : Keeps 0 d (d.lockFollower len t) := by
  unfold Device.lockFollower
  refine Keeps.trans ?_ ((Keeps.correct _ _ _).mono (by omega))
  refine Keeps.followerTo (d := d) (f := d.follower.locked len t) .locked ?_
  rintro ⟨h1, h2, h3, h4, _, _, _, _⟩
  refine ⟨h1, h2, h3, h4, Nat.zero_le _, Nat.zero_le _, ?_, fun _ => ⟨rfl, rfl⟩⟩
  intro p hp
  have hp' : some (intervalPeriod len 3) = some p := hp
  rw [← Option.some.inj hp']
  exact intervalPeriod_range _ _

theorem Keeps.collectMark (d : Device) (t : Time) : Keeps 0 d (d.collectMark t) := by
  unfold Device.collectMark
  dsimp only
  split
  · rename_i hl
    refine Keeps.ofFollower ?_
    rintro ⟨h1, h2, h3, h4, h5, _, h7, h8⟩
    exact ⟨h1, h2, h3, h4, h5, by show (d.follower.marks ++ [t]).length ≤ 3; omega, h7, h8⟩
  · split
    · exact Keeps.lockFollower _ _ _
    · refine Keeps.ofFollower ?_
      rintro ⟨h1, h2, h3, h4, h5, h6, h7, h8⟩
      refine ⟨h1, h2, h3, h4, h5, ?_, h7, h8⟩
      show ((d.follower.marks ++ [t]).tail).length ≤ 3
      simp only [List.length_tail, List.length_append, List.length_cons, List.length_nil]
      omega

theorem Keeps.rejectMark (d : Device) (t : Time) (err : Int) (hs : d.follower.state = .locked) : Keeps 0 d (d.rejectMark t err) := by
  unfold Device.rejectMark
  split
  · refine Keeps.ofFollower ?_
    rintro ⟨h1, h2, h3, h4, _, h6, h7, h8⟩
    exact ⟨h1, h2, h3, h4, by show d.follower.rejects + 1 ≤ 3; omega, h6, h7, h8⟩
  · refine Keeps.trans (Keeps.followerTo _ ?_) (Keeps.captureFault _ _ _ _)
    rintro ⟨h1, h2, h3, h4, _, _, h7, h8⟩
    exact ⟨h1, h2, h3, h4, Nat.zero_le _, by simp, h7, fun _ => h8 (Or.inl hs)⟩

theorem updatedPeriod_range {p : Nat} (gt n i : Nat) (h : periodMin ≤ p ∧ p ≤ periodMax) :
    periodMin ≤ updatedPeriod p gt n i ∧ updatedPeriod p gt n i ≤ periodMax := by
  unfold updatedPeriod
  split
  · exact clampPeriod_range _
  · exact h

theorem Device.nextPeriod_range {d : Device} (t : Time) (h : d.follower.Ok) (hs : d.follower.state = .locked) :
    periodMin ≤ d.nextPeriod t ∧ d.nextPeriod t ≤ periodMax := by
  obtain ⟨_, _, _, _, _, _, h7, h8⟩ := h
  have hp := (h8 (Or.inl hs)).1
  unfold Device.nextPeriod
  split
  · rename_i p m hp' _
    exact updatedPeriod_range _ _ _ (h7 p hp')
  · rename_i p hp' _
    exact h7 p hp'
  · rename_i hn
    rw [hn] at hp
    cases hp

theorem Keeps.acceptMark (d : Device) (t : Time) (err : Int) (hs : d.follower.state = .locked) : Keeps 0 d (d.acceptMark t err) := by
  unfold Device.acceptMark
  refine Keeps.trans ?_ ((Keeps.correct _ _ _).mono (by omega))
  refine Keeps.ofFollower ?_
  intro h
  have hr := Device.nextPeriod_range t h hs
  obtain ⟨h1, h2, h3, h4, _, h6, _, _⟩ := h
  refine ⟨h1, h2, h3, h4, Nat.zero_le _, h6, ?_, fun _ => ⟨rfl, rfl⟩⟩
  intro p hp
  cases hp
  exact hr

theorem Keeps.judgeMark (d : Device) (t : Time) (hs : d.follower.state = .locked) : Keeps 0 d (d.judgeMark t) := by
  unfold Device.judgeMark
  exact Keeps.ite (Keeps.rejectMark _ _ _ hs) (Keeps.acceptMark _ _ _ hs)

theorem Keeps.takeMark (d : Device) (t : Time) : Keeps 0 d (d.takeMark t) := by
  unfold Device.takeMark
  split
  · exact Keeps.refl d
  · exact Keeps.collectMark _ _
  · exact Keeps.collectMark _ _
  · rename_i hs
    exact Keeps.judgeMark _ _ hs

theorem Keeps.beatEdge (d : Device) (i : BeatInput) : Keeps 0 d (d.beatEdge i) := by
  unfold Device.beatEdge
  split
  · exact Keeps.refl d
  · have h : Keeps 0 d { d with follower := { d.follower with prevTaken := some d.time } } := Keeps.ofFollower id
    exact h.trans (Keeps.takeMark _ _)

/-- The numbers of a follower setup are in their ranges (Table 4-1). -/
def FollowSettings.Ok (g : FollowSettings) : Prop := g.gt ≤ 16 ∧ g.gp ≤ 16 ∧ -100000 ≤ g.offset ∧ g.offset ≤ 0

theorem Keeps.setupFollower (d : Device) (g : FollowSettings) (hg : g.Ok) : Keeps 0 d (d.setupFollower g) := by
  obtain ⟨g1, g2, g3, g4⟩ := hg
  unfold Device.setupFollower
  have hc : ∀ (st : FollowerState) (b : Option Time), (st = .off ∨ st = .seeking) →
      ({ (d.follower.withSetup g).cleared with prevTaken := b, state := st } : Follower).Ok := by
    intro st b hst
    refine ⟨g1, g2, g3, g4, Nat.zero_le _, Nat.zero_le _, fun p hp => (nomatch hp), ?_⟩
    rintro (h | h) <;> rcases hst with rfl | rfl <;> cases h
  dsimp only
  refine Keeps.ite (Keeps.followerTo _ fun _ => hc .off none (Or.inl rfl)) (Keeps.ite (Keeps.followerTo _ fun _ => hc .seeking none (Or.inr rfl))
    (Keeps.ite (Keeps.followerTo _ fun _ => hc .seeking none (Or.inr rfl)) (Keeps.ite (Keeps.followerTo _ fun _ => hc .seeking _ (Or.inr rfl)) (Keeps.ofFollower ?_))))
  rintro ⟨_, _, _, _, h5, h6, h7, h8⟩
  exact ⟨g1, g2, g3, g4, h5, h6, h7, h8⟩

theorem Keeps.nudge (d : Device) (w : Word) : Keeps 1 d (d.nudge w) := by
  unfold Device.nudge
  split
  · refine Keeps.trans ?_ (Keeps.replan _)
    refine Keeps.ofPlanner id ?_
    intro h
    refine ⟨h.1, h.2.1, ?_⟩
    intro b hb
    cases hb
    exact saturate64_ok _
  · exact Keeps.refl d

/-! ## The status writer -/

theorem Keeps.statusAccess {n : Nat} (d : Device) (k : Nat) : Keeps n d (d.statusAccess k) := by
  unfold Device.statusAccess
  split
  · exact Keeps.poke _ _ _ _
  · split
    · exact Keeps.poke _ _ _ _
    · exact Keeps.poke _ _ _ _

theorem Keeps.endWrite {n : Nat} (d : Device) : Keeps n d d.endWrite := by
  unfold Device.endWrite
  split
  · exact Keeps.ofWriter
  · exact { Keeps.refl d with }

theorem Keeps.statusStep {n : Nat} (d : Device) : Keeps n d d.statusStep := by
  unfold Device.statusStep
  split
  · exact Keeps.refl d
  · rename_i w _
    have h : Keeps n d { d.statusAccess w.made with writer := some { w with made := w.made + 1 } } := (Keeps.statusAccess d _).trans { Keeps.refl _ with }
    dsimp only
    split
    · exact h.trans (Keeps.endWrite _)
    · exact h

theorem Keeps.statusRun {m : Nat} : ∀ (n : Nat) (d : Device), Keeps m d (Device.statusRun n d)
  | 0, d => Keeps.refl d
  | n + 1, d => (Keeps.statusStep d).trans (Keeps.statusRun n _)

theorem Keeps.finishWrite {n : Nat} (d : Device) : Keeps n d d.finishWrite := by
  unfold Device.finishWrite
  split
  · exact Keeps.statusRun _ _
  · exact Keeps.refl d

/-! ## Supervision -/

theorem Keeps.setMode (d : Device) (m : DeviceMode) : Keeps 0 d (d.setMode m) := (Keeps.ofMode.trans (Keeps.latch _ _)).trans (Keeps.requestStatus _)

theorem Keeps.enterCarry (d : Device) : Keeps 0 d d.enterCarry := Keeps.ofService.trans (Keeps.setMode _ _)

theorem Keeps.serviceFailure (d : Device) (e : ServiceEvent) : Keeps 0 d (d.serviceFailure e) := by
  unfold Device.serviceFailure
  have h : Keeps 0 d (({ d with service := { d.service with recent := e } } : Device).captureFault .serviceLost none none) :=
    Keeps.ofService.trans (Keeps.captureFault _ _ _ _)
  exact Keeps.ite (h.trans (Keeps.enterCarry _)) h

theorem Keeps.goodService (d : Device) : Keeps 0 d d.goodService := by
  unfold Device.goodService
  have h : Keeps 0 d { d with service := ({ d.service with recent := .good } : Service).begin d.time } := Keeps.ofService
  refine Keeps.ite ?_ h
  refine Keeps.trans ?_ (Keeps.setMode _ _)
  exact h.trans Keeps.ofService

theorem Keeps.serviceWrite (d : Device) (w : Word) : Keeps 0 d (d.serviceWrite w) := by
  unfold Device.serviceWrite
  have h : Keeps 0 d { d with service := d.service.begin d.time } := Keeps.ofService
  exact Keeps.ite (Keeps.refl d) (Keeps.ite (Keeps.serviceFailure _ _) (Keeps.ite (h.trans (Keeps.serviceFailure _ _)) (Keeps.goodService _)))

theorem Keeps.serviceTimeout (d : Device) : Keeps 0 d d.serviceTimeout := by
  unfold Device.serviceTimeout
  have h : Keeps 0 d { d with service := d.service.begin d.time } := Keeps.ofService
  exact Keeps.ite (h.trans (Keeps.serviceFailure _ _)) (Keeps.refl d)

theorem Keeps.closedEnds (d : Device) : Keeps 0 d d.closedEnds := by
  unfold Device.closedEnds
  exact Keeps.ite Keeps.ofService (Keeps.refl d)

theorem Keeps.housePort {n : Nat} (d : Device) (p : PortIx) (h : Levels) : Keeps n d (d.modPort p (·.house h)) := by
  refine Keeps.modPort d p _ ?_ ?_
  · unfold Port.house; split <;> rfl
  · unfold Port.house; split <;> exact id

theorem Keeps.enterHouse (d : Device) : Keeps 0 d d.enterHouse := by
  unfold Device.enterHouse
  have h0 : Keeps 0 d { d with service := { d.service with carry := none } } := Keeps.ofService
  have h1 : Keeps 0 d (({ d with service := { d.service with carry := none } } : Device).setMode .house) := h0.trans (Keeps.setMode _ _)
  have h2 := h1.trans (Keeps.cancelSlots (n := 0) (({ d with service := { d.service with carry := none } } : Device).setMode .house) .house
    (({ d with service := { d.service with carry := none } } : Device).setMode .house).heldSlots)
  dsimp only
  refine Keeps.trans ?_ (Keeps.pumpAll _)
  refine Keeps.trans ?_ (Keeps.eachPort (fun d p => Keeps.housePort d p d.house) _)
  refine Keeps.ite ?_ h2
  exact h2.trans ((Keeps.replan _).mono (by omega))

theorem Keeps.carryExpires (d : Device) : Keeps 0 d d.carryExpires := by
  unfold Device.carryExpires
  exact Keeps.ite (Keeps.enterHouse d) (Keeps.refl d)

theorem Keeps.houseClear (d : Device) : Keeps 0 d d.houseClear := by
  unfold Device.houseClear
  exact Keeps.ite (Keeps.setMode _ _) (Keeps.refl d)

theorem Keeps.leaveInit (d : Device) : Keeps 0 d d.leaveInit :=
  (Keeps.ofService.trans (Keeps.setMode _ _)).trans (Keeps.eachPort (fun d p => (Keeps.enter d p).mono (by omega)) _)

theorem Keeps.captureRelease {n : Nat} (d : Device) : Keeps n d d.captureRelease := by
  unfold Device.captureRelease
  split
  · exact Keeps.refl d
  · exact Keeps.ofCapture.trans (Keeps.requestStatus _)

/-! ## Soft restart -/

theorem Settings.default_ok : Settings.default.Ok := ⟨by decide, by decide, by decide, by decide, by decide⟩

theorem Port.restarted_settings {x : Port} (k r : Bool) (t : Time) (h : x.settings.Ok) : (x.restarted k r t).settings.Ok := by
  show (x.restartSettings k).Ok
  unfold Port.restartSettings
  split
  · exact h
  · exact Settings.default_ok

theorem Port.restarted_links (x : Port) (k r : Bool) (t : Time) : (x.restarted k r t).LinksOk := by
  refine ⟨Nat.zero_le _, Nat.zero_le _, ?_⟩
  show (x.restartClock k).waiting.length ≤ 16
  unfold Port.restartClock
  split <;> simp [ClockLine.leave, ClockLine.idle]

theorem Keeps.restartPort (run : Bool) (d : Device) (p : PortIx) : Keeps 0 d (Device.restartPort run d p) := by
  unfold Device.restartPort
  have h : Keeps 0 d ((d.modPort p fun x => x.restarted d.keep run d.time).pump p) :=
    (Keeps.modSettings d p _ (Port.restarted_settings _ _ _) (fun _ => Port.restarted_links _ _ _ _)).trans (Keeps.pump _ _)
  exact Keeps.ite h (h.trans (Keeps.requestStatus _))

theorem Keeps.restartFollower (d : Device) : Keeps 0 d d.restartFollower := by
  unfold Device.restartFollower
  refine Keeps.followerTo _ ?_
  rintro ⟨h1, h2, h3, h4, _, _, _, _⟩
  have hst : ∀ b : Bool, (if b then FollowerState.seeking else .off) = .locked ∨ (if b then FollowerState.seeking else .off) = .holding → False := by decide
  refine ⟨?_, ?_, ?_, ?_, Nat.zero_le _, Nat.zero_le _, fun p hp => (nomatch hp), fun h => (hst _ h).elim⟩ <;>
    · show _
      simp only [Follower.restarted, Follower.cleared, Follower.forgotten]
      split
      · assumption
      · simp [Follower.reset]

theorem Keeps.restartTransport (d : Device) : Keeps 1 d d.restartTransport :=
  (Keeps.setTransport d _).trans (Keeps.ofPlanner (fun _ => trivial)
    (fun _ => ⟨fun _ he => (List.not_mem_nil he).elim, fun _ he => (nomatch he), fun _ he => (nomatch he)⟩))

/-- Nothing but the notice list, the flag and the sweep change. -/
theorem Safe.restartIntake (d : Device) : Safe d d.restartIntake := by
  have h : Safe d { d with notices := [], overflow := false, sweep := .visiting 0 } :=
    { Safe.refl d with noticesOk := fun _ => ⟨Nat.zero_le _, List.nodup_nil, fun _ hn => (List.not_mem_nil hn).elim, fun n hn => by cases hn; omega⟩ }
  unfold Device.restartIntake
  exact Safe.ite (h.trans (Keeps.requestStatus (n := 0) _).safe) h

theorem Safe.restart (d : Device) : Safe d d.restart := by
  unfold Device.restart
  dsimp only
  refine Safe.trans ?_ (Safe.restartIntake _)
  refine Safe.trans ?_ (Keeps.restartFollower _).safe
  refine Safe.trans ?_ (Keeps.eachPort (Keeps.restartPort _) _).safe
  refine Safe.trans ?_ (Keeps.restartTransport _).safe
  refine Safe.trans ?_ (Keeps.cancelSlots (n := 0) _ _ _).safe
  refine Safe.trans ?_ (Keeps.setMode _ _).safe
  exact (Keeps.finishWrite (n := 0) d).safe.trans { Safe.refl _ with }

theorem Safe.controlEnables (d : Device) (w : Word) : Safe d (d.controlEnables w) := by
  unfold Device.controlEnables
  have h : Safe d { d with runEnable := wordBit w 0, attnEnable := w.extractLsb' 1 6 } := { Safe.refl d with }
  exact Safe.ite (h.trans (Keeps.leaveInit _).safe) h

theorem Safe.controlWrite (d : Device) (w : Word) : Safe d (d.controlWrite w) := by
  unfold Device.controlWrite
  have h1 := Safe.controlEnables d w
  have h2 := Safe.ite (c := wordBit w 10 = true) (h1.trans (Keeps.captureRelease (n := 0) _).safe) h1
  have h3 := Safe.ite (c := wordBit w 9 = true) (h2.trans (Keeps.houseClear _).safe) h2
  exact Safe.ite (h3.trans (Safe.restart _)) h3

theorem Safe.attnRead (d : Device) : Safe d d.attnRead := { Safe.refl d with }

theorem Safe.registerWrite (d : Device) (size : AccessSize) (off data : Word) : Safe d (d.registerWrite size off data) := by
  unfold Device.registerWrite
  split
  · split
    · exact Safe.controlWrite _ _
    · exact (Keeps.serviceWrite _ _).safe
    · exact (Keeps.nudge _ _).safe
    · exact Safe.refl d
  · exact Safe.refl d

theorem Port.reset_links (b : Bool) : (Port.reset b).LinksOk := ⟨Nat.zero_le _, Nat.zero_le _, Nat.zero_le _⟩

theorem Port.reset_settings (b : Bool) : (Port.reset b).settings.Ok := Settings.default_ok

theorem Device.powerUp_port (d : Device) (p : PortIx) : d.powerUp.port p = Port.reset (d.port p).raw := by
  show (Vector.map (fun x : Port => Port.reset x.raw) d.ports)[p.val] = Port.reset (d.ports[p.val]).raw
  rw [Vector.getElem_map]

theorem Follower.reset_ok : Follower.reset.Ok :=
  ⟨by decide, by decide, by decide, by decide, by decide, by decide, fun p hp => (nomatch hp), fun h => by rcases h with h | h <;> cases h⟩

theorem Safe.powerUp (d : Device) : Safe d d.powerUp where
  mem _ := by show Memory.wf [] = true; rfl
  noticesOk _ := ⟨Nat.zero_le _, List.nodup_nil, fun _ hn => (List.not_mem_nil hn).elim, fun _ hn => (nomatch hn)⟩
  plan _ := trivial
  balance _ := ⟨fun _ he => (List.not_mem_nil he).elim, fun _ he => (nomatch he), fun _ he => (nomatch he)⟩
  follow _ := Follower.reset_ok
  settings _ p := by rw [Device.powerUp_port]; exact Port.reset_settings _
  links _ p := by rw [Device.powerUp_port]; exact Port.reset_links _

/-! ## Intake -/

theorem Safe.checkOverflow (d : Device) : Safe d d.checkOverflow := by
  unfold Device.checkOverflow
  have h : Safe d { d with sweep := .visiting 0, overflow := false } :=
    { Safe.refl d with noticesOk := fun h => ⟨h.1, h.2.1, h.2.2.1, fun n hn => by cases hn; omega⟩ }
  exact Safe.ite (h.trans (Keeps.requestStatus (n := 0) _).safe) (Safe.refl d)

theorem Safe.advance (d : Device) : Safe d d.advance := by
  unfold Device.advance
  split
  · rename_i n _
    have h : ∀ s : Sweep, (∀ m, s = .visiting m → m < 512) → Safe d { d with sweep := s } :=
      fun _ hs => { Safe.refl d with noticesOk := fun h => ⟨h.1, h.2.1, h.2.2.1, hs⟩ }
    split
    · rename_i hn
      exact h _ fun m hm => by cases hm; exact hn
    · exact (h .none fun m hm => nomatch hm).trans (Safe.checkOverflow _)
  · have h : Safe d { d with notices := d.notices.tail } :=
      { Safe.refl d with noticesOk := fun h => ⟨by have := h.1; show d.notices.tail.length ≤ 32; rw [List.length_tail]; omega, h.2.1.tail,
          fun n hn => h.2.2.1 n (List.mem_of_mem_tail hn), h.2.2.2⟩ }
    exact h.trans (Safe.checkOverflow _)

theorem Safe.beginTake (d : Device) (n : Nat) : Safe d (d.beginTake n) := by
  have h : Safe d { d.advance.protect n with seq := d.seq + 1 } :=
    ((Safe.advance d).trans (Keeps.protect (n := 0) _ n).safe).trans { Safe.refl _ with }
  exact h

theorem Safe.readRecord (d : Device) (n : Nat) : Safe d (d.readRecord n) :=
  ((Safe.beginTake d n).trans (Keeps.pass (n := 0) _).safe).trans (Keeps.pass (n := 0) _).safe

theorem Keeps.refuse {n : Nat} (d : Device) (k : Nat) (r : Reason) : Keeps n d (d.refuse k r) := Keeps.finishSlot _ _ _ _

theorem Keeps.done {n : Nat} (d : Device) (k : Nat) (r : Result) : Keeps n d (d.done k r) := Keeps.finishSlot _ _ _ _

theorem Keeps.firedAtOnce {n : Nat} (d : Device) (k pi : Nat) (b : Bool) : Keeps n d (d.firedAtOnce k pi b) := Keeps.finishSlot _ _ _ _

theorem Keeps.showHeld {n : Nat} (d : Device) (k : Nat) : Keeps n d (d.showHeld k) := by
  unfold Device.showHeld
  split
  · exact Keeps.refl d
  · exact (((Keeps.poke _ _ _ _).trans (Keeps.poke _ _ _ _)).trans (Keeps.poke _ _ _ _)).trans (Keeps.poke _ _ _ _)

theorem Keeps.schedulePort {n : Nat} (d : Device) (k : Nat) (q : BitVec 32) (p : PortIx) (b : CueBody) : Keeps n d (d.schedulePort k q p b) :=
  (Keeps.judge _ _ _).trans (Keeps.showHeld _ _)

theorem Keeps.enterGlobal {n : Nat} (d : Device) (c : Cue) : Keeps n d (d.enterGlobal c) := Keeps.ofGlobals.trans (Keeps.writeProgress _ _ _)

theorem Keeps.scheduleGlobal (d : Device) (k : Nat) (q : BitVec 32) (b : CueBody) (cl : Bool) : Keeps 1 d (d.scheduleGlobal k q b cl) :=
  (((Keeps.enterGlobal d _).trans (Keeps.moveWaiting _)).trans (Keeps.showHeld _ _)).trans (Keeps.replanFor _ _)

theorem Keeps.holdTempo (d : Device) (k : Nat) (x : Clamped Nat) : Keeps 1 d (d.holdTempo k x) := by
  have h : Keeps 1 d { d with planner := { d.planner with heldPeriod := x.value } } := Keeps.ofPlanner id id
  exact h.trans (Keeps.firedAtOnce _ _ _ _)

theorem Keeps.takeTempo (k : Nat) (q : BitVec 32) (d : Device) : Keeps 1 d (Device.takeTempo k q d) := by
  unfold Device.takeTempo
  dsimp only
  split
  · exact Keeps.holdTempo _ _ _
  · exact Keeps.scheduleGlobal _ _ _ _ _

theorem Keeps.takeMeter (k : Nat) (q : BitVec 32) (d : Device) : Keeps 1 d (Device.takeMeter k q d) := Keeps.scheduleGlobal _ _ _ _ _

theorem Keeps.takeStop (k : Nat) (q : BitVec 32) (d : Device) : Keeps 1 d (Device.takeStop k q d) := Keeps.scheduleGlobal _ _ _ _ _

theorem Keeps.takeStart (k : Nat) (q : BitVec 32) (d : Device) : Keeps 1 d (Device.takeStart k q d) :=
  (Keeps.beginRun _ _).trans (Keeps.firedAtOnce _ _ _ _)

theorem Keeps.takeContinue (k : Nat) (q : BitVec 32) (d : Device) : Keeps 1 d (Device.takeContinue k q d) := by
  unfold Device.takeContinue
  split
  · exact (Keeps.beginRun _ _).trans (Keeps.firedAtOnce _ _ _ _)
  · exact Keeps.refuse _ _ _

theorem Keeps.takePortCue {n : Nat} (b : CueBody) (k : Nat) (q : BitVec 32) (d : Device) : Keeps n d (Device.takePortCue b k q d) := by
  unfold Device.takePortCue
  split
  · exact Keeps.schedulePort _ _ _ _ _
  · exact Keeps.refuse _ _ _

theorem Keeps.takeSceneHouse (k : Nat) (q : BitVec 32) (d : Device) : Keeps 0 d (Device.takeSceneHouse k q d) := by
  unfold Device.takeSceneHouse
  have h : Keeps 0 d (d.copyLevels (sceneBase (d.field k 16 1))).2 := Keeps.copyLevels d _
  revert h
  generalize d.copyLevels (sceneBase (d.field k 16 1)) = x
  exact fun h => (h.trans Keeps.ofHouse).trans (Keeps.done _ _ _)

theorem Keeps.cancelCues (d : Device) (r : Reason) (l : List Nat) : Keeps 1 d (d.cancelCues r l) := by
  unfold Device.cancelCues
  have h : Keeps 1 d (d.cancelSlots r l) := Keeps.cancelSlots _ _ _
  exact (Keeps.ite (h.trans (Keeps.replan _)) h).trans (Keeps.pumpAll _)

theorem Keeps.takeCancelSlot (k : Nat) (q : BitVec 32) (d : Device) : Keeps 1 d (Device.takeCancelSlot k q d) := by
  unfold Device.takeCancelSlot
  split
  · exact Keeps.refuse _ _ _
  · exact (Keeps.cancelCues _ _ _).trans (Keeps.done _ _ _)

theorem Keeps.takeCancelSelector (k : Nat) (q : BitVec 32) (d : Device) : Keeps 1 d (Device.takeCancelSelector k q d) :=
  (Keeps.cancelCues _ _ _).trans (Keeps.done _ _ _)

theorem Keeps.amendPort {n : Nat} (d : Device) (k : Nat) (p : PortIx) (c : Cue) : Keeps n d (d.amendPort k p c) :=
  (Keeps.modPort d p _).trans (Keeps.judge _ _ _)

theorem Keeps.amendGlobal (d : Device) (k : Nat) (c : Cue) : Keeps 1 d (d.amendGlobal k c) := by
  unfold Device.amendGlobal
  have h : ∀ c1, Keeps 1 d (({ d with globals := dropCue c.slot d.globals } : Device).enterGlobal c1).moveWaiting :=
    fun c1 => (Keeps.ofGlobals.trans (Keeps.enterGlobal _ _)).trans (Keeps.moveWaiting _)
  dsimp only
  exact Keeps.ite ((h _).trans (Keeps.replan _)) (h _)

theorem Keeps.amendTarget (d : Device) (k : Nat) : Keeps 1 d (d.amendTarget k) := by
  unfold Device.amendTarget
  split
  · exact Keeps.amendGlobal _ _ _
  · exact Keeps.amendPort _ _ _ _
  · exact Keeps.refl d

theorem Keeps.takeAmend (k : Nat) (q : BitVec 32) (d : Device) : Keeps 1 d (Device.takeAmend k q d) := by
  unfold Device.takeAmend
  split
  · exact Keeps.refuse _ _ _
  · exact (Keeps.amendTarget _ _).trans (Keeps.done _ _ _)

theorem Keeps.writeReport {n : Nat} (d : Device) (k : Nat) (l : List Nat) : Keeps n d (d.writeReport k l) :=
  (Keeps.poke d _ _ _).trans (Keeps.foldl (fun d _ => Keeps.poke d _ _ _) _ _)

theorem Keeps.takeReport {n : Nat} (k : Nat) (q : BitVec 32) (d : Device) : Keeps n d (Device.takeReport k q d) :=
  (Keeps.writeReport _ _ _).trans (Keeps.done _ _ _)

theorem Keeps.takeSupervise (k : Nat) (q : BitVec 32) (d : Device) : Keeps 0 d (Device.takeSupervise k q d) := Keeps.ofService.trans (Keeps.done _ _ _)

theorem Safe.takeKeep (k : Nat) (q : BitVec 32) (d : Device) : Safe d (Device.takeKeep k q d) := by
  have h : Safe d { d with keepPending := some (d.field k 16 1 == 1, k) } := { Safe.refl d with }
  exact h.trans (Keeps.done (n := 0) _ _ _).safe

theorem clampNat_range (lo hi v : Nat) (h : lo ≤ hi) : lo ≤ clampNat lo hi v ∧ clampNat lo hi v ≤ hi := by
  unfold clampNat
  split
  · omega
  · split <;> omega

theorem Device.newFollow_ok (d : Device) (k : Nat) : (d.newFollow k).Ok := by
  refine ⟨(clampNat_range 0 16 _ (by omega)).2, (clampNat_range 0 16 _ (by omega)).2, ?_, ?_⟩ <;>
    · show _
      simp only [Device.newFollow, clampOffset]
      split
      · omega
      · split <;> omega

theorem Keeps.takeFollowSetup (k : Nat) (q : BitVec 32) (d : Device) : Keeps 0 d (Device.takeFollowSetup k q d) :=
  (Keeps.setupFollower _ _ (Device.newFollow_ok _ _)).trans (Keeps.done _ _ _)

/-- R86, R88: the settings that a PORT SETUP asks for are legal where the old ones are. -/
theorem Device.newSettings_ok {d : Device} {k : Nat} {s : Settings} (hs : s.Ok) : (d.newSettings k s).Ok := by
  obtain ⟨h1, h2, h3, h4, h5⟩ := hs
  refine ⟨?_, ?_, ?_, ?_, ?_⟩ <;> simp only [Device.newSettings]
  · split
    · exact (clampNat_range 0 250000 _ (by omega)).2
    · exact h1
  · split
    · rename_i h; exact (Bool.and_eq_true_iff.mp h).2
    · exact h2
  · split
    · exact (clampNat_range 0 8 _ (by omega)).2
    · exact h3
  · split
    · exact (clampNat_range 4 40 _ (by omega)).1
    · exact h4
  · split
    · exact (clampNat_range 4 40 _ (by omega)).2
    · exact h5

theorem Keeps.takePortSetup (k : Nat) (q : BitVec 32) (d : Device) : Keeps 0 d (Device.takePortSetup k q d) := by
  unfold Device.takePortSetup
  split
  · exact (Keeps.applySetup _ _ _ Device.newSettings_ok).trans (Keeps.done _ _ _)
  · exact Keeps.refuse _ _ _

/-! ## A slot under its protection (R83, R158) -/

/-- The intake unit's move changes the notice list, the sweep and the overflow flag, and may request a status write; nothing else. -/
theorem Device.advance_frame (d : Device) : d.advance =
    { d with notices := d.advance.notices, sweep := d.advance.sweep, overflow := d.advance.overflow, writer := d.advance.writer, writerAgain := d.advance.writerAgain } := by
  unfold Device.advance
  split
  · split
    · rfl
    · unfold Device.checkOverflow
      split
      · unfold Device.requestStatus
        split <;> rfl
      · rfl
  · unfold Device.checkOverflow
    split
    · unfold Device.requestStatus
      split <;> rfl
    · rfl

theorem Device.advance_mem (d : Device) : d.advance.mem = d.mem := (congrArg Device.mem d.advance_frame :)

theorem Device.advance_prot (d : Device) : d.advance.prot = d.prot := (congrArg Device.prot d.advance_frame :)

/-- The beginning of a take writes no byte. -/
theorem Device.beginTake_mem (d : Device) (k : Nat) : (d.beginTake k).mem = d.mem := d.advance_mem

/-- The 64 bytes of slot n read the same. -/
def SameSlot (n : Nat) (d e : Device) : Prop := ∀ a, slotBase n ≤ a → a < slotBase n + 64 → Memory.read e.mem a = Memory.read d.mem a

theorem SameSlot.ofMem {n : Nat} {d e : Device} (h : e.mem = d.mem) : SameSlot n d e := fun _ _ _ => by rw [h]

theorem SameSlot.trans {n : Nat} {d e f : Device} (a : SameSlot n d e) (b : SameSlot n e f) : SameSlot n d f :=
  fun x h1 h2 => (b x h1 h2).trans (a x h1 h2)

theorem accessBytes_length (size : AccessSize) (w : Word) : (accessBytes size w).length = AccessSize.bytes size := by
  simp [accessBytes]

theorem SameSlot.landBytes {n a : Nat} (d : Device) (l : List Byte) (h : a + l.length ≤ slotBase n ∨ slotBase n + 64 ≤ a) :
    SameSlot n d (d.landBytes a l) := fun x h1 h2 => Memory.read_writeBytes_outside l _ (by omega)

theorem SameSlot.landSlot {n a : Nat} (d : Device) (l : List Byte) (h : a + l.length ≤ slotBase n ∨ slotBase n + 64 ≤ a) : SameSlot n d (d.landSlot a l) := by
  unfold Device.landSlot
  split
  · rename_i b rest
    simp only [List.length_cons] at h
    split
    · exact SameSlot.landBytes _ _ (by omega)
    · exact SameSlot.landBytes _ _ (by simp only [List.length_cons]; omega)
  · exact SameSlot.ofMem rfl

theorem Device.captureFault_mem' (d : Device) (k : FaultKind) (p m : Option Nat) : (d.captureFault k p m).mem = d.mem := by
  unfold Device.captureFault
  split
  · simp
  · split <;> simp

theorem Device.offer_mem (d : Device) (n : Nat) : (d.offer n).mem = d.mem := by
  unfold Device.offer Device.overflowNotice
  split
  · rfl
  · split
    · rfl
    · rw [Device.captureFault_mem']
      split
      · rfl
      · simp

theorem Device.giveBack_mem (d : Device) (n : Nat) : (d.giveBack n).mem = d.mem := by
  unfold Device.giveBack
  split
  · rfl
  · split
    · split
      · rfl
      · split <;> rfl
    · rfl

/-- R158: a host write leaves the bytes of a protected slot as they are. -/
theorem SameSlot.hostWrite {n : Nat} (hn : n < 512) (d : Device) (hp : n ∈ d.prot) (size : AccessSize) (addr data : Word) :
    SameSlot n d (d.hostWrite size addr data) := by
  have hlen := accessBytes_length size data
  have hb : AccessSize.bytes size = 1 ∨ AccessSize.bytes size = 2 ∨ AccessSize.bytes size = 4 := by cases size <;> simp [AccessSize.bytes]
  have hk : ∃ k, hostOffset size addr = k * AccessSize.bytes size := ⟨_, rfl⟩
  have hs : slotBase n = 0x1000 + 64 * n := rfl
  unfold Device.hostWrite
  generalize hostOffset size addr = a at hk
  obtain ⟨k, hk⟩ := hk
  have hr : regionOf a = (if a < 0x400 then .statusPage else if a < 0x440 then .finishedMap else if 0x1000 ≤ a ∧ a < 0x9000 then .cueSlots else .plain) := rfl
  split
  · exact SameSlot.ofMem (Device.captureFault_mem' _ _ _ _)
  · rename_i h
    rw [h] at hr
    have ha : a < 0x440 := by
      split at hr
      · omega
      · split at hr
        · assumption
        · split at hr <;> cases hr
    refine SameSlot.landBytes _ _ (Or.inl ?_)
    simp only [List.length_map, List.length_zipIdx, hlen]
    rcases hb with hb | hb | hb <;> omega
  · rename_i h
    have ha := regionOf_cueSlots h
    unfold Device.slotWrite
    split
    · exact SameSlot.ofMem (Device.captureFault_mem' _ _ _ _)
    · rename_i hc
      have hne : slotOf a ≠ n := by
        rintro rfl
        exact hc (by simpa using hp)
      have hsl : slotOf a = (a - 0x1000) / 64 := rfl
      have h1 : SameSlot n d (d.landSlot a (accessBytes size data)) := by
        refine SameSlot.landSlot _ _ ?_
        rw [hlen]
        rcases hb with hb | hb | hb <;> rw [hb] at hk ⊢ <;> omega
      have h2 := h1.trans (SameSlot.ofMem (n := n) (Device.giveBack_mem (d.landSlot a (accessBytes size data)) (slotOf a)))
      dsimp only
      split
      · exact h2.trans (SameSlot.ofMem (Device.offer_mem _ _))
      · exact h2
  · rename_i h
    rw [h] at hr
    refine SameSlot.landBytes _ _ ?_
    rw [hlen]
    have ha : a < 0x1000 ∨ 0x9000 ≤ a := by
      split at hr
      · cases hr
      · split at hr
        · cases hr
        · split at hr
          · cases hr
          · omega
    rcases hb with hb | hb | hb <;> rw [hb] at hk ⊢ <;> omega

theorem SameSlot.letIn {n : Nat} (hn : n < 512) : ∀ (m : Nat) (d : Device), n ∈ d.prot → SameSlot n d (Device.letIn m d)
  | 0, _, _ => SameSlot.ofMem rfl
  | m + 1, d, hp => by
    unfold Device.letIn
    split
    · exact SameSlot.ofMem rfl
    · rename_i w l _
      split
      · have h : SameSlot n d (({ d with arbiter := l } : Device).serve w) := SameSlot.hostWrite hn { d with arbiter := l } hp _ _ _
        exact h.trans (SameSlot.letIn hn m _ (by rw [Device.serve_prot]; exact hp))
      · exact SameSlot.ofMem rfl

/-- R156, R158: the host accesses let in after an engine access leave the bytes of a protected slot as they are. -/
theorem SameSlot.pass {n : Nat} (hn : n < 512) (d : Device) (hp : n ∈ d.prot) : SameSlot n d d.pass :=
  (SameSlot.letIn hn _ { d with arbiter := countedDown d.arbiter } hp : SameSlot n { d with arbiter := countedDown d.arbiter } _)

theorem mem_insertNat {a b : Nat} : ∀ {l : List Nat}, a ∈ insertNat b l ↔ a = b ∨ a ∈ l
  | [] => by simp [insertNat]
  | c :: l => by
    unfold insertNat
    split
    · simp
    · split
      · rename_i h; subst h; simp
      · simp only [List.mem_cons, mem_insertNat (l := l)]
        exact ⟨fun h => by rcases h with h | h | h <;> simp [h], fun h => by rcases h with h | h | h <;> simp [h]⟩

/-- R83: what a take reads of its slot is what stood there when it began, whatever host accesses fall inside its reads. -/
theorem SameSlot.readRecord {n : Nat} (hn : n < 512) (d : Device) : SameSlot n d (d.readRecord n) := by
  have hp : n ∈ (d.beginTake n).prot := by
    show n ∈ insertNat n d.advance.prot
    exact mem_insertNat.mpr (Or.inl rfl)
  exact ((SameSlot.ofMem (d.beginTake_mem n)).trans (SameSlot.pass hn _ hp)).trans (SameSlot.pass hn _ (by rw [Device.pass_prot]; exact hp))

theorem Memory.readLE_congr {m m' : List Host.Cell} : ∀ (k a : Nat), (∀ x, a ≤ x → x < a + k → Memory.read m' x = Memory.read m x) →
    Memory.readLE m' a k = Memory.readLE m a k
  | 0, _, _ => rfl
  | k + 1, a, h => by
    unfold Memory.readLE
    rw [h a (by omega) (by omega), Memory.readLE_congr k (a + 1) (fun x h1 h2 => h x (by omega) (by omega))]

theorem SameSlot.field {n : Nat} {d e : Device} (h : SameSlot n d e) (off size : Nat) (hf : off + size ≤ 64 := by decide) : e.field n off size = d.field n off size :=
  Memory.readLE_congr _ _ fun x h1 h2 => h x (by omega) (by omega)

theorem SameSlot.kindOf {n : Nat} {d e : Device} (h : SameSlot n d e) : e.kindOf n = d.kindOf n := h.field _ _

theorem Keeps.takeBadKind {n : Nat} (k : Nat) (q : BitVec 32) (d : Device) : Keeps n d (Device.takeBadKind k q d) := Keeps.refuse _ _ _

/-- The effect of an accepted cue, by its row. -/
theorem Safe.effect (row : TakeRow) (k : Nat) (q : BitVec 32) (d : Device) : Safe d (row.effect k q d) := by
  cases row
  · show Safe d (Device.takeBadKind k q d); exact (Keeps.takeBadKind (n := 0) k q d).safe
  · show Safe d (Device.takeTempo k q d); exact (Keeps.takeTempo k q d).safe
  · show Safe d (Device.takeMeter k q d); exact (Keeps.takeMeter k q d).safe
  · show Safe d (Device.takeStart k q d); exact (Keeps.takeStart k q d).safe
  · show Safe d (Device.takeContinue k q d); exact (Keeps.takeContinue k q d).safe
  · show Safe d (Device.takeStop k q d); exact (Keeps.takeStop k q d).safe
  · show Safe d (Device.takeSend k q d); exact (Keeps.takePortCue (n := 0) _ k q d).safe
  · show Safe d (Device.takePortRun k q d); exact (Keeps.takePortCue (n := 0) _ k q d).safe
  · show Safe d (Device.takeScene k q d); exact (Keeps.takePortCue (n := 0) _ k q d).safe
  · show Safe d (Device.takeSceneHouse k q d); exact (Keeps.takeSceneHouse k q d).safe
  · show Safe d (Device.takeCancelSlot k q d); exact (Keeps.takeCancelSlot k q d).safe
  · show Safe d (Device.takeCancelSelector k q d); exact (Keeps.takeCancelSelector k q d).safe
  · show Safe d (Device.takeAmend k q d); exact (Keeps.takeAmend k q d).safe
  · show Safe d (Device.takeReport k q d); exact (Keeps.takeReport (n := 0) k q d).safe
  · show Safe d (Device.takePortSetup k q d); exact (Keeps.takePortSetup k q d).safe
  · show Safe d (Device.takeFollowSetup k q d); exact (Keeps.takeFollowSetup k q d).safe
  · show Safe d (Device.takeSupervise k q d); exact (Keeps.takeSupervise k q d).safe
  · show Safe d (Device.takeKeep k q d); exact Safe.takeKeep k q d

/-- A take of a slot by the effect of a row. -/
theorem Safe.runTake (d : Device) (k : Nat) (row : TakeRow) (q : BitVec 32) : Safe d (d.runTake k (row.effect k q)) := by
  unfold Device.runTake
  split
  · exact (Safe.readRecord d k).trans (Keeps.refuse (n := 0) _ _ _).safe
  · exact (Safe.readRecord d k).trans (Safe.effect row k q _)

/-- The take of the next slot by the effect of the row. -/
theorem Safe.takeNext (d : Device) (row : TakeRow) : Safe d (d.takeNext row row.effect) := by
  unfold Device.takeNext
  split
  · exact Safe.runTake d _ row _
  · exact Safe.refl d

theorem Safe.discardNotice (d : Device) : Safe d d.discardNotice := by
  unfold Device.discardNotice
  split
  · exact Safe.ite (Safe.refl d) (Safe.advance d)
  · exact Safe.refl d

theorem Safe.visit (d : Device) : Safe d d.visit := by
  unfold Device.visit
  split
  · exact Safe.ite (Safe.runTake d _ _ _) (Safe.advance d)
  · exact Safe.refl d

theorem Safe.visits : ∀ (n : Nat) (d : Device), Safe d (Device.visits n d)
  | 0, d => Safe.refl d
  | n + 1, d => (Safe.visit d).trans (Safe.visits n _)

/-- One microsecond touches no invariant. -/
theorem Safe.tick (d : Device) : Safe d d.tick := { Safe.refl d with }

/-! ## Events of the links -/

theorem Keeps.rawChange {n : Nat} (d : Device) (p : PortIx) (b : Bool) : Keeps n d (d.rawChange p b) := by
  unfold Device.rawChange
  exact Keeps.ite (Keeps.refl d) (Keeps.modPort d p _)

theorem Keeps.characterEnds {n : Nat} (d : Device) (p : PortIx) : Keeps n d (d.characterEnds p) :=
  (((Keeps.modPort d p _).trans (Keeps.messageEnd _ _)).trans (Keeps.choose _ _)).trans (Keeps.waitingFrame _ _)

theorem Keeps.phaseEnd {n : Nat} (d : Device) (p : PortIx) (t : Time) :
    Keeps n d (d.modPort p fun x => { x with clock := x.clock.phaseEnd t x.settings.negative }) := by
  refine Keeps.modPort d p _ rfl ?_
  rintro ⟨h1, h2, h3⟩
  exact ⟨h1, h2, Nat.le_trans (ClockLine.phaseEnd_le _ _ _) h3⟩

theorem Keeps.pulseEnd {n : Nat} (d : Device) (p : PortIx) (t : Time) : Keeps n d (d.modPort p fun x => { x with clock := x.clock.pulseEnd t }) := by
  refine Keeps.modPort d p _ rfl ?_
  rintro ⟨h1, h2, h3⟩
  exact ⟨h1, h2, by rw [ClockLine.pulseEnd_waiting]; exact h3⟩

theorem Keeps.gapEnd {n : Nat} (d : Device) (p : PortIx) (t : Time) : Keeps n d (d.modPort p fun x => { x with clock := x.clock.gapEnd t }) := by
  refine Keeps.modPort d p _ rfl ?_
  rintro ⟨h1, h2, h3⟩
  exact ⟨h1, h2, Nat.le_trans (ClockLine.gapEnd_le _ _) h3⟩

end Sys2Proof.Machine
end

