-- ==== Sys2Proof/Laws/Slots.lean ====
section
/-! SUPPORT. What the ending and the holding of a cue leave in its slot, in the finished map and in the rest of the memory, while no host access waits at the arbiter. -/
namespace Sys2Proof.Machine
set_option Elab.async false

/-- A read of k bytes away from one written byte. -/
theorem Memory.readLE_write_outside (k : Nat) (m : List Host.Cell) {a b : Nat} (v : Byte) (h : a + k ≤ b ∨ b < a) :
    Memory.readLE (Memory.write m b v) a k = Memory.readLE m a k := by
  induction k generalizing a with
  | zero => rfl
  | succ k ih =>
    unfold Memory.readLE
    rw [Memory.read_write_ne v (by omega), ih (by omega)]

theorem Reason.code_lt (r : Reason) : r.code < 256 := by cases r <;> decide

theorem CueFlags.toByte_lt (f : CueFlags) : f.toByte < 256 := by
  obtain ⟨a, b, c, d⟩ := f
  cases a <;> cases b <;> cases c <;> cases d <;> decide

/-- The memory after the ending of a cue. -/
theorem Device.finishSlot_mem {d : Device} (h : d.arbiter = []) (n st : Nat) (r : Result) : ∃ m v, (d.finishSlot n st r).mem = Memory.write m (mapBase + n / 8) v ∧
    m = Memory.writeLE (d.writeResult n r).mem (slotBase n) 1 st ∧ v = Memory.read m (mapBase + n / 8) ||| (1 <<< (n % 8)) := by
  refine ⟨_, _, ?_, rfl, rfl⟩
  rw [Device.finishSlot_quiet h, Device.latch_mem, Device.write_mem]

theorem Device.writeResult_mem {d : Device} (h : d.arbiter = []) (n : Nat) (r : Result) : (d.writeResult n r).mem =
    Memory.writeLE (Memory.writeLE (Memory.writeLE (Memory.writeLE (Memory.writeLE (Memory.writeLE (Memory.writeLE d.mem (slotBase n + 48) 1 r.reason.code)
      (slotBase n + 49) 1 r.flags.toByte) (slotBase n + 50) 2 r.revision) (slotBase n + 52) 4 r.firePI) (slotBase n + 56) 4 r.fireTime) (slotBase n + 60) 2 r.fired)
      (slotBase n + 62) 2 r.aux := by
  rw [Device.writeResult_quiet h]
  rfl

theorem Device.writeResult_wf (d : Device) (n : Nat) (r : Result) (h : d.MemOk) : Memory.wf (d.writeResult n r).mem = true :=
  (Keeps.writeResult (n := 0) d n r).mem h

/-- The result region reads back, field by field. -/
theorem Device.writeResult_reads {d : Device} (hq : d.arbiter = []) (n : Nat) (r : Result) (h : d.MemOk) :
    Memory.readLE (d.writeResult n r).mem (slotBase n + 48) 1 = r.reason.code ∧ Memory.readLE (d.writeResult n r).mem (slotBase n + 49) 1 = r.flags.toByte ∧
    Memory.readLE (d.writeResult n r).mem (slotBase n + 50) 2 = r.revision % 65536 ∧ Memory.readLE (d.writeResult n r).mem (slotBase n + 52) 4 = r.firePI % 4294967296 ∧
    Memory.readLE (d.writeResult n r).mem (slotBase n + 56) 4 = r.fireTime % 4294967296 ∧ Memory.readLE (d.writeResult n r).mem (slotBase n + 60) 2 = r.fired % 65536 ∧
    Memory.readLE (d.writeResult n r).mem (slotBase n + 62) 2 = r.aux % 65536 := by
  rw [Device.writeResult_mem hq]
  have w0 : Memory.wf d.mem = true := h
  have w1 := Memory.wf_writeLE 1 (slotBase n + 48) r.reason.code w0
  have w2 := Memory.wf_writeLE 1 (slotBase n + 49) r.flags.toByte w1
  have w3 := Memory.wf_writeLE 2 (slotBase n + 50) r.revision w2
  have w4 := Memory.wf_writeLE 4 (slotBase n + 52) r.firePI w3
  have w5 := Memory.wf_writeLE 4 (slotBase n + 56) r.fireTime w4
  have w6 := Memory.wf_writeLE 2 (slotBase n + 60) r.fired w5
  refine ⟨?_, ?_, ?_, ?_, ?_, ?_, ?_⟩
  · repeat rw [Memory.readLE_writeLE_outside _ _ _ _ (by omega)]
    rw [Memory.readLE_writeLE_same 1 _ _ w0]
    exact Nat.mod_eq_of_lt (Reason.code_lt _)
  · repeat rw [Memory.readLE_writeLE_outside _ _ _ _ (by omega)]
    rw [Memory.readLE_writeLE_same 1 _ _ w1]
    exact Nat.mod_eq_of_lt (CueFlags.toByte_lt _)
  · repeat rw [Memory.readLE_writeLE_outside _ _ _ _ (by omega)]
    exact Memory.readLE_writeLE_same 2 _ _ w2
  · repeat rw [Memory.readLE_writeLE_outside _ _ _ _ (by omega)]
    exact Memory.readLE_writeLE_same 4 _ _ w3
  · repeat rw [Memory.readLE_writeLE_outside _ _ _ _ (by omega)]
    exact Memory.readLE_writeLE_same 4 _ _ w4
  · repeat rw [Memory.readLE_writeLE_outside _ _ _ _ (by omega)]
    exact Memory.readLE_writeLE_same 2 _ _ w5
  · exact Memory.readLE_writeLE_same 2 _ _ w6

/-- Bytes outside the result region read as before. -/
theorem Device.writeResult_outside {d : Device} (hq : d.arbiter = []) (n : Nat) (r : Result) {a : Nat} (h : a < slotBase n + 48 ∨ slotBase n + 64 ≤ a) :
    Memory.read (d.writeResult n r).mem a = Memory.read d.mem a := by
  rw [Device.writeResult_mem hq]
  repeat rw [Memory.read_writeLE_outside _ _ _ (by omega)]

/-- A set finished-map bit reads 1. -/
theorem finished_bit (b : Byte) (i : Nat) (h : i < 8) : (b ||| (1 <<< i)).getLsbD i = true := by
  have hi : i = 0 ∨ i = 1 ∨ i = 2 ∨ i = 3 ∨ i = 4 ∨ i = 5 ∨ i = 6 ∨ i = 7 := by omega
  rcases hi with h | h | h | h | h | h | h | h <;> subst h <;> simp

/-- R81: after the ending of a cue its slot shows the state and the result. -/
theorem Device.finishSlot_shows {d : Device} (hq : d.arbiter = []) {n st : Nat} (r : Result) (hm : d.MemOk) (hn : n < 512) (hst : st < 256) : (d.finishSlot n st r).Shows n st r := by
  have hwr := Device.writeResult_wf d n r hm
  have hw1 : Memory.wf (Memory.writeLE (d.writeResult n r).mem (slotBase n) 1 st) = true := Memory.wf_writeLE 1 _ _ hwr
  obtain ⟨m, v, hmem, hm1, hv⟩ := Device.finishSlot_mem hq n st r
  obtain ⟨r1, r2, r3, r4, r5, r6, r7⟩ := Device.writeResult_reads hq n r hm
  have hmap : mapBase + n / 8 < slotBase n := by unfold mapBase slotBase; omega
  have peel : ∀ off k, 1 ≤ off → Memory.readLE (d.finishSlot n st r).mem (slotBase n + off) k = Memory.readLE (d.writeResult n r).mem (slotBase n + off) k := by
    intro off k ho
    rw [hmem, Memory.readLE_write_outside k m v (by omega), hm1, Memory.readLE_writeLE_outside _ _ _ _ (by omega)]
  constructor
  · show Memory.readLE (d.finishSlot n st r).mem (slotBase n) 1 = st
    rw [hmem, Memory.readLE_write_outside 1 m v (by omega), hm1, Memory.readLE_writeLE_same 1 _ _ hwr]
    exact Nat.mod_eq_of_lt hst
  · exact (peel 48 1 (by omega)).trans r1
  · exact (peel 49 1 (by omega)).trans r2
  · exact (peel 50 2 (by omega)).trans r3
  · exact (peel 52 4 (by omega)).trans r4
  · exact (peel 56 4 (by omega)).trans r5
  · exact (peel 60 2 (by omega)).trans r6
  · exact (peel 62 2 (by omega)).trans r7
  · rw [hmem, Memory.read_write_same _ _ (hm1 ▸ hw1), hv]
    exact finished_bit _ _ (Nat.mod_lt _ (by omega))
  · simp

/-- R81: the ending of a cue writes nothing else. -/
theorem Device.finishSlot_bytes {d : Device} (hq : d.arbiter = []) (n st : Nat) (r : Result) : d.SameBytes (d.finishSlot n st r) (endBytes n) := by
  intro a ha
  obtain ⟨m, v, hmem, hm1, hv⟩ := Device.finishSlot_mem hq n st r
  have h1 : a ≠ slotBase n := fun h => ha (Or.inl h)
  have h2 : a ≠ mapBase + n / 8 := fun h => ha (Or.inr (Or.inr h))
  have h3 : ¬ (slotBase n + 48 ≤ a ∧ a < slotBase n + 64) := fun h => ha (Or.inr (Or.inl h))
  rw [hmem, Memory.read_write_ne v h2, hm1, Memory.read_writeLE_outside _ _ _ (by omega), Device.writeResult_outside hq _ _ (by omega)]

theorem Device.finishSlot_mapByte {d : Device} (hq : d.arbiter = []) {n : Nat} (st : Nat) (r : Result) (hm : d.MemOk) (hn : n < 512) :
    Memory.read (d.finishSlot n st r).mem (mapBase + n / 8) = Memory.read d.mem (mapBase + n / 8) ||| (1 <<< (n % 8)) := by
  have hwr := Device.writeResult_wf d n r hm
  have hw1 : Memory.wf (Memory.writeLE (d.writeResult n r).mem (slotBase n) 1 st) = true := Memory.wf_writeLE 1 _ _ hwr
  obtain ⟨m, v, hmem, hm1, hv⟩ := Device.finishSlot_mem hq n st r
  have hmap : mapBase + n / 8 < slotBase n := by unfold mapBase slotBase; omega
  rw [hmem, Memory.read_write_same _ _ (hm1 ▸ hw1), hv, hm1, Memory.read_writeLE_outside _ _ _ (by omega), Device.writeResult_outside hq _ _ (by omega)]

/-! ## The beginning of a take -/

@[simp] theorem Device.beginTake_seq (d : Device) (n : Nat) : (d.beginTake n).seq = d.seq + 1 := rfl
@[simp] theorem Device.beginTake_sweep (d : Device) (n : Nat) : (d.beginTake n).sweep = d.advance.sweep := rfl
@[simp] theorem Device.beginTake_overflow (d : Device) (n : Nat) : (d.beginTake n).overflow = d.advance.overflow := rfl
@[simp] theorem Device.beginTake_notices (d : Device) (n : Nat) : (d.beginTake n).notices = d.advance.notices := rfl
@[simp] theorem Device.beginTake_prot (d : Device) (n : Nat) : (d.beginTake n).prot = insertNat n d.advance.prot := rfl
@[simp] theorem Device.beginTake_arbiter (d : Device) (n : Nat) : (d.beginTake n).arbiter = d.arbiter := (congrArg Device.arbiter d.advance_frame :)

/-- While no host access waits, the two reads of a take change nothing. -/
theorem Device.readRecord_quiet {d : Device} (h : d.arbiter = []) (n : Nat) : d.readRecord n = d.beginTake n := by
  have hb : (d.beginTake n).arbiter = [] := by rw [Device.beginTake_arbiter, h]
  unfold Device.readRecord
  rw [Device.pass_quiet hb, Device.pass_quiet hb]

theorem Device.advance_notices (d : Device) : d.advance.notices = if d.sweep = .none then d.notices.tail else d.notices := by
  have hc : ∀ e : Device, e.checkOverflow.notices = e.notices := by
    intro e
    unfold Device.checkOverflow
    split
    · simp
    · rfl
  unfold Device.advance
  split
  · rename_i n hs
    simp only [hs, reduceCtorEq, if_false]
    split
    · rfl
    · rw [hc]
  · rename_i hs
    simp only [hs, if_true]
    rw [hc]

/-- The beginning of a take changes the intake registers and the protection of its slot, and may request a status write; nothing else. -/
theorem Device.beginTake_frame (d : Device) (n : Nat) : d.beginTake n = { d.advance with prot := insertNat n d.prot, seq := d.seq + 1 } := by
  show ({ d.advance with prot := insertNat n d.advance.prot, seq := d.seq + 1 } : Device) = _
  rw [d.advance_prot]

/-- R79, R81: a take whose cue ends with these result writes, from a state that has the memory and the intake registers of the take's beginning. -/
theorem Device.takeEnds_finishSlot {d b : Device} {n st : Nat} (r : Result) (hq : b.arbiter = []) (hm : d.MemOk) (hn : n < 512) (hst : st < 256)
    (hmem : b.mem = d.mem) (hprot : b.prot = insertNat n d.prot) (hnot : b.notices = d.advance.notices) (hsw : b.sweep = d.advance.sweep)
    (hov : b.overflow = d.advance.overflow) (hseq : b.seq = d.seq + 1) : d.TakeEnds (b.finishSlot n st r) n st r := by
  have hb : b.MemOk := by unfold Device.MemOk; rw [hmem]; exact hm
  refine { Device.finishSlot_shows hq r hb hn hst with notices := ?_, sweep := ?_, overflow := ?_, seq := ?_, bytes := ?_, mapByte := ?_, others := ?_ }
  · rw [Device.finishSlot_notices hq, hnot, Device.advance_notices]
  · rw [Device.finishSlot_sweep, hsw]
  · rw [Device.finishSlot_overflow hq, hov]
  · rw [Device.finishSlot_seq, hseq]
  · intro a ha
    rw [Device.finishSlot_bytes hq n st r a ha, hmem]
  · rw [Device.finishSlot_mapByte hq st r hb hn, hmem]
  · intro m hmn
    rw [Device.finishSlot_prot, hprot]
    simp [mem_insertNat, hmn]

/-! ## Holding a cue (R80) -/

/-- The writes of holding a cue, with nothing between. -/
theorem Device.held_quiet {d : Device} (hq : d.arbiter = []) (c : Cue) :
    ((((((d.writeProgress c c.due).poke (slotBase c.slot + 48) 1 0).poke (slotBase c.slot + 49) 1 c.flags.toByte).poke (slotBase c.slot + 56) 4 0).poke
      (slotBase c.slot) 1 stHeld)) =
    (((((((d.write (slotBase c.slot + 50) 2 c.revision).write (slotBase c.slot + 52) 4 c.due).write (slotBase c.slot + 60) 2 c.fired).write
      (slotBase c.slot + 62) 2 c.aux).write (slotBase c.slot + 48) 1 0).write (slotBase c.slot + 49) 1 c.flags.toByte).write (slotBase c.slot + 56) 4 0).write
      (slotBase c.slot) 1 stHeld := by
  simp only [Device.writeProgress, Device.poke_quiet, Device.write_arbiter, hq]

/-- The memory after the progress fields and the HELD byte of a cue have been written. -/
theorem Device.held_reads {d : Device} (hq : d.arbiter = []) (c : Cue) (hm : d.MemOk) :
    ((((((d.writeProgress c c.due).poke (slotBase c.slot + 48) 1 0).poke (slotBase c.slot + 49) 1 c.flags.toByte).poke (slotBase c.slot + 56) 4 0).poke
      (slotBase c.slot) 1 stHeld)).ShowsHeld c := by
  have w0 : Memory.wf d.mem = true := hm
  have w1 := Memory.wf_writeLE 2 (slotBase c.slot + 50) c.revision w0
  have w2 := Memory.wf_writeLE 4 (slotBase c.slot + 52) c.due w1
  have w3 := Memory.wf_writeLE 2 (slotBase c.slot + 60) c.fired w2
  have w4 := Memory.wf_writeLE 2 (slotBase c.slot + 62) c.aux w3
  have w5 := Memory.wf_writeLE 1 (slotBase c.slot + 48) 0 w4
  have w6 := Memory.wf_writeLE 1 (slotBase c.slot + 49) c.flags.toByte w5
  have w7 := Memory.wf_writeLE 4 (slotBase c.slot + 56) 0 w6
  rw [Device.held_quiet hq c]
  constructor <;>
    simp only [Device.slotState, Device.field, Device.peek, Device.write_mem]
  · rw [Memory.readLE_writeLE_same 1 _ _ w7]; rfl
  · repeat rw [Memory.readLE_writeLE_outside _ _ _ _ (by omega)]
    exact Memory.readLE_writeLE_same 1 _ _ w4
  · repeat rw [Memory.readLE_writeLE_outside _ _ _ _ (by omega)]
    rw [Memory.readLE_writeLE_same 1 _ _ w5]
    exact Nat.mod_eq_of_lt (CueFlags.toByte_lt _)
  · repeat rw [Memory.readLE_writeLE_outside _ _ _ _ (by omega)]
    exact Memory.readLE_writeLE_same 2 _ _ w0
  · repeat rw [Memory.readLE_writeLE_outside _ _ _ _ (by omega)]
    exact Memory.readLE_writeLE_same 4 _ _ w1
  · repeat rw [Memory.readLE_writeLE_outside _ _ _ _ (by omega)]
    exact Memory.readLE_writeLE_same 4 _ _ w6
  · repeat rw [Memory.readLE_writeLE_outside _ _ _ _ (by omega)]
    exact Memory.readLE_writeLE_same 2 _ _ w2
  · repeat rw [Memory.readLE_writeLE_outside _ _ _ _ (by omega)]
    exact Memory.readLE_writeLE_same 2 _ _ w3

/-- Nothing but the state byte and the result region of the slot is written. -/
theorem Device.held_bytes {d : Device} (hq : d.arbiter = []) (c : Cue) : d.SameBytes
    ((((((d.writeProgress c c.due).poke (slotBase c.slot + 48) 1 0).poke (slotBase c.slot + 49) 1 c.flags.toByte).poke (slotBase c.slot + 56) 4 0).poke
      (slotBase c.slot) 1 stHeld)) (heldBytes c.slot) := by
  intro a ha
  have h1 : a ≠ slotBase c.slot := fun h => ha (Or.inl h)
  have h3 : ¬ (slotBase c.slot + 48 ≤ a ∧ a < slotBase c.slot + 64) := fun h => ha (Or.inr h)
  rw [Device.held_quiet hq c]
  simp only [Device.write_mem]
  repeat rw [Memory.read_writeLE_outside _ _ _ (by omega)]

end Sys2Proof.Machine
end

