-- ==== Sys2Proof/Tests/Slice0.lean ====
section
/-! SUPPORT. Tests: ill-formed commands that the check refuses, one small step of each kind of command, and for every statement with hypotheses a state and operands that meet them. -/
namespace Sys2Proof.Tests
open Sys2Proof Sys2Proof.Machine
set_option Elab.async false

/-! ## States -/

/-- The next state of an outcome. -/
def after : Host.Outcome State Fault Refusal → State
  | .next t => t
  | _ => State.reset

/-- At rest in ATTENDED, no status write under way. -/
def rest : State := { State.reset with mode := .attended, writer := none }

/-- These bytes at offsets of slot 0, which is POSTED. -/
def slotMem (cells : List (Nat × Byte)) : List Host.Cell := cells.foldl (fun m c => Memory.write m (0x1000 + c.1) c.2) [(0x1000, 1)]

/-- Slot 0 is POSTED with these bytes and noticed. -/
def posted (cells : List (Nat × Byte)) (s : State) : State := { s with mem := slotMem cells, notices := [0] }

/-- The machine with another record of one port. -/
def withPort (p : PortIx) (x : Port) (s : State) : State := { s with toDevice := s.setPort p x }

/-- A plan entry at 120 BPM in 4/4. -/
def entry (k : Nat) : PlanEntry :=
  { pi := k, instant := BitVec.ofNat 64 (k * 341333333), period := 341333333, beatStart := k % 96 == 0, barStart := k % 384 == 0, stop := false,
    bar := 1, beat := 1 + k / 96, applied := [], passed := [],
    snap := { seg := Segment.const 0 341333333, meter := 4, origin := 0, spread := none, balance := 0 } }

/-- A run whose reference cursor has its pulse 96 due just now, the horizon at 95. -/
def run : State :=
  { rest with
    time := 499999
    planner := { Planner.reset with
      transport := .running, plan := [entry 96, entry 97], anchor := some (entry 95), cursor := some 96, horizon := some 95,
      opening := some { first := 0, instant := 0, period := 341333333, meter := 4, origin := 0, bar := 1, beat := 1, resumed := false } } }

/-- A cue at slot 5. -/
def cue (due : Nat) (body : CueBody) : Cue :=
  { slot := 5, tag := 7, due := due, mark := none, seq := 0, revision := 1, grace := .strict, interval := 0, left := some 1, fired := 0, skipped := 0,
    lastSkip := .none, flags := CueFlags.clear, body := body, lastFired := none, bytes := 0 }

/-- A port of this kind in this state, at cursor 96. -/
def port (kind : PortKind) (st : PortState) : Port :=
  { Port.reset true with settings := { Settings.default with kind := kind }, state := st, presence := true, cursor := 96, join := some 96 }

/-- A message in flight with this many of its characters started. -/
def flight (sent : Nat) : Flight := { cue := cue 0 (.send false 0 2 .whole 0), pi := 7, time := 9, sent := sent, releases := 0 }

/-! ## Well-formed and ill-formed commands -/

theorem test_wf_slot : Instr.wf (.hostSlotWrite .byte 0x1000 1) = true := by decide
theorem test_wf_plain : Instr.wf (.hostSlotWrite .word 0xC000 1) = true := by decide
theorem test_illformed_slot : Instr.wf (.hostSlotWrite .byte 0x3FF 1) = false := by decide
theorem test_illformed_status : Instr.wf (.statusProtect .byte 0x400 1) = false := by decide
theorem test_illformed_map : Instr.wf (.finishedMapWrite .byte 0x440 1) = false := by decide
theorem test_illformed_register : Instr.wf (.registerWriteDiscarded .word 0x10 1) = false := by decide
theorem test_illformed_sweep : Instr.wf (.sweep 513) = false := by decide
theorem test_illformed_statusWrite : Instr.wf (.statusWrite 391) = false := by decide +kernel

/-! ## The host port -/

theorem test_powerOn : after (exec .powerOn (withPort 3 (port .clock .locked) run)) = withPort 3 (Port.reset true) State.reset := by decide +kernel
theorem test_hardReset : (after (exec .hardReset run)).time = 0 := by decide +kernel
theorem test_hostSlotWrite : (after (exec (.hostSlotWrite .byte 0x1040 1) rest)).notices = [1] := by decide +kernel
theorem test_hostSlotWrite_owned : (after (exec (.hostSlotWrite .byte 0x1041 1) { rest with prot := [1] })).capture =
    some { kind := .ownedWrite, port := none, slot := some 1, pi := 0, time := 0, more := 0 } := by decide +kernel
theorem test_statusProtect : (after (exec (.statusProtect .word 0x10 5) rest)).mem = [] := by decide +kernel
theorem test_finishedMapWrite : (after (exec (.finishedMapWrite .byte 0x401 6) { rest with mem := [(0x401, 7)] })).mem = [(0x401, 1)] := by decide +kernel
theorem test_runEnable : (after (exec (.runEnable 1) State.reset)).mode = .attended := by decide +kernel
theorem test_attnEnable : (after (exec (.attnEnable 0x7E) rest)).attnEnable = 63 := by decide +kernel
theorem test_captureRelease : (after (exec (.captureRelease 0) { rest with
    capture := some { kind := .followLost, port := none, slot := none, pi := 0, time := 0, more := 0 } })).capture = none := by decide +kernel
theorem test_houseClear : (after (exec (.houseClear 0) { rest with mode := .house, service := { Service.reset with recent := .good } })).mode = .attended := by
  decide +kernel
theorem test_restart : (after (exec (.restart 1) run)).planner = Planner.reset ∧ (after (exec (.restart 1) run)).attn = 40 := by decide +kernel
theorem test_attnRead : (after (exec .attnRead { rest with attn := 5 })).readData = 5 ∧ (after (exec .attnRead { rest with attn := 5 })).attn = 0 := by decide +kernel
theorem test_service : (after (exec (.service 3) rest)).service.recent = .good ∧ (after (exec (.service 1) rest)).mode = .carry := by decide +kernel
theorem test_nudge : (after (exec (.nudge 0x13) run)).planner.pendBalance = some (-3) := by decide +kernel
theorem test_registerWriteDiscarded : after (exec (.registerWriteDiscarded .half 0x04 1) rest) = rest := by decide +kernel

/-! ## Intake: each take with its hypotheses met, and what it does -/

/-- The hypotheses of a take's statement: the row is taken at slot 0 and passes its checks. -/
theorem nextTake {row : TakeRow} {s : State} (h1 : s.nextSlot = some 0) (h2 : s.slotState 0 = stPosted) (h3 : s.takeRow 0 = row) (h4 : Memory.wf s.mem = true)
    (h5 : s.Quiet := by exact ⟨rfl, rfl⟩) : s.NextTake row 0 := ⟨h1, by decide, h2, h3, h4, h5⟩

/-- Scene 1 to port 2 at pulse 384, modulator BLINK on channels 0 to 9. -/
def sceneCells : List (Nat × Byte) := [(1, 0x12), (4, 2), (5, 1), (8, 0x80), (9, 1), (16, 1), (20, 1), (22, 0), (23, 9)]

theorem witness_NoticesAndSweep : ({ rest with notices := [4], overflow := true } : State).slotState 4 ≠ stPosted ∧ rest.slotState 0 ≠ stPosted ∧
    rest.slotState 511 ≠ stPosted ∧ ({ posted [(1, 0x22)] rest with sweep := .visiting 0 } : State).slotState 0 = stPosted ∧ rest.Quiet :=
  ⟨by decide +kernel, by decide +kernel, by decide +kernel, by decide +kernel, rfl, rfl⟩
theorem test_noticeDiscarded : (after (exec .noticeDiscarded { rest with notices := [4], overflow := true })) =
    { rest with sweep := .visiting 0, writer := some { made := 0, since := 0 } } := by decide +kernel
theorem test_sweep : (after (exec (.sweep 512) { rest with sweep := .visiting 0 })).sweep = .none ∧
    (after (exec (.sweep 1) { posted [(1, 0x22), (16, 0xFF)] rest with sweep := .visiting 0 })).slotState 0 = stDone := by decide +kernel
theorem witness_EightChecks : (posted [(1, 0x44)] rest).validate 0 = some .badKind ∧ (posted [(1, 0x01)] { rest with mode := .house }).validate 0 = some .wrongMode ∧
    (posted [(1, 0x10), (4, 24)] rest).validate 0 = some .badPort ∧ (posted [(1, 0x10), (4, 23)] rest).validate 0 = some .wrongPortKind ∧
    (posted [(1, 0x01)] rest).validate 0 = some .badField ∧
    (posted [(1, 0x10), (4, 1), (5, 1), (7, 1), (17, 0x40), (18, 1), (20, 1)] (withPort 1 (port .step .locked) rest)).validate 0 = some .bulkRange ∧
    (posted [(1, 0x10), (4, 1), (16, 1)] (withPort 1 (port .step .locked) rest)).validate 0 = some .wrongTransport ∧
    (posted [(1, 0x01), (16, 1)] { rest with follower := { Follower.reset with state := .seeking } }).validate 0 = some .following ∧
    (posted [(1, 0x22)] rest).validate 0 = none := by decide +kernel
theorem witness_RefusedTake : (posted [(1, 0x44)] rest).NextTake .badKind 0 ∧ (posted [(1, 0x44)] rest).validate 0 = some .badKind :=
  ⟨nextTake (by decide +kernel) (by decide +kernel) (by decide +kernel) (by decide +kernel), by decide +kernel⟩
theorem test_badKind : (after (exec .badKind (posted [(1, 0x44)] rest))).slotState 0 = stRefused := by decide +kernel

/-- A NOW TEMPO of 120,000 mBPM. -/
def tempoCells : List (Nat × Byte) := [(1, 0x01), (16, 0xC0), (17, 0xD4), (18, 0x01)]

theorem witness_TempoNowWhileStopped : (posted tempoCells rest).NextTake .tempo 0 ∧ (posted tempoCells rest).validate 0 = none ∧
    (posted tempoCells rest).fireMode 0 = 0 ∧ (posted tempoCells rest).planner.transport = .stopped :=
  ⟨nextTake (by decide +kernel) (by decide +kernel) (by decide +kernel) (by decide +kernel), by decide +kernel, by decide +kernel, by decide +kernel⟩
theorem test_tempo : (after (exec .tempo (posted tempoCells { rest with planner := { Planner.reset with heldPeriod := 1 } }))).planner.heldPeriod = 341333333 := by decide +kernel
theorem witness_GlobalCueHeld_tempo : (posted tempoCells run).NextTake .tempo 0 ∧ (posted tempoCells run).validate 0 = none ∧ (posted tempoCells run).heldAt 0 = none ∧
    (posted tempoCells run).reachesTail 98 = false :=
  ⟨nextTake (by decide +kernel) (by decide +kernel) (by decide +kernel) (by decide +kernel), by decide +kernel, by decide +kernel, by decide +kernel⟩
/-- The hypotheses of the clause in which the cue reaches into the plan. -/
theorem witness_GlobalCueHeld_reach : (posted tempoCells run).reachesTail 96 = true ∧ (posted tempoCells run).planner.transport ≠ .stopped ∧
    (posted tempoCells run).planner.opening.isSome = true ∧ (posted tempoCells run).planner.latched = none ∧ (posted tempoCells run).firstSoft = 96 ∧
    (∀ x ∈ (posted tempoCells run).globals, (posted tempoCells run).firstSoft ≤ x.due) := by decide +kernel
/-- R47: a waiting METER below the first soft pulse moves with MOVED as another global cue enters. -/
theorem test_moveWaiting : (after (exec .tempo (posted ((8, 0xFF) :: (5, 1) :: tempoCells) { run with globals := [cue 5 (.meter 3)] }))).globals.map
    (fun c => (c.slot, c.due, c.flags.moved)) = [(5, 96, true), (0, 255, false)] := by decide +kernel
theorem test_tempo_run : (after (exec .tempo (posted ((8, 0x60) :: (5, 1) :: tempoCells) run))).globals.map (fun c => (c.slot, c.due)) = [(0, 96)] ∧
    (after (exec .tempo (posted ((8, 0x60) :: (5, 1) :: tempoCells) run))).slotState 0 = stHeld := by decide +kernel

/-- A METER of 16 beats, which is clamped to 15. -/
def meterCells : List (Nat × Byte) := [(1, 0x02), (16, 16)]

theorem witness_GlobalCueHeld_meter : (posted meterCells rest).NextTake .meter 0 ∧ (posted meterCells rest).validate 0 = none ∧ (posted meterCells rest).heldAt 0 = none :=
  ⟨nextTake (by decide +kernel) (by decide +kernel) (by decide +kernel) (by decide +kernel), by decide +kernel, by decide +kernel⟩
theorem test_meter : (after (exec .meter (posted meterCells rest))).globals.map (fun c => (c.body, c.flags.clamped)) = [(.meter 15, true)] := by decide +kernel
theorem witness_GlobalCueHeld_stop : (posted [(1, 3), (16, 2)] run).NextTake .transportStop 0 ∧ (posted [(1, 3), (16, 2)] run).validate 0 = none ∧
    (posted [(1, 3), (16, 2)] run).heldAt 0 = none :=
  ⟨nextTake (by decide +kernel) (by decide +kernel) (by decide +kernel) (by decide +kernel), by decide +kernel, by decide +kernel⟩
theorem test_transportStop : (after (exec .transportStop (posted [(1, 3), (16, 2)] run))).planner.latched = some 96 := by decide +kernel
theorem witness_Start : (posted [(1, 3)] rest).NextTake .transportStart 0 ∧ (posted [(1, 3)] rest).validate 0 = none :=
  ⟨nextTake (by decide +kernel) (by decide +kernel) (by decide +kernel) (by decide +kernel), by decide +kernel⟩
theorem witness_Start_locked : (posted [(1, 3)] { rest with follower := { Follower.reset with state := .locked, period := some 341333333, lastMark := some 7 } }).validate 0 = none ∧
    (posted [(1, 3)] { rest with follower := { Follower.reset with state := .locked, period := some 341333333, lastMark := some 7 } }).nextSlot = some 0 := by decide +kernel
/-- R11: the first predicted mark at or after 8,000 µs, with a mark at 7 µs, is one beat after that mark. -/
theorem test_transportStart_locked : (after (exec .transportStart (posted [(1, 3)] { rest with
    follower := { Follower.reset with state := .locked, period := some 341333333, lastMark := some 7 } }))).planner.plan.head?.map (·.instant) =
    some (timeInstant 7 + BitVec.ofNat 64 (96 * 341333333)) := by decide +kernel
theorem test_transportStart : ((after (exec .transportStart (posted [(1, 3)] rest))).planner.plan.map (·.pi)) = [0] ∧
    (after (exec .transportStart (posted [(1, 3)] rest))).planner.cursor = some 0 := by decide +kernel

/-- STOPPED at pulse 95, the last one of its beat. -/
def stopped : State := { rest with planner := { Planner.reset with stopped := some { pi := 95, bar := 1, beat := 1 } } }

theorem witness_Continue : (posted [(1, 3), (16, 1)] stopped).NextTake .transportContinue 0 ∧ (posted [(1, 3), (16, 1)] stopped).validate 0 = none :=
  ⟨nextTake (by decide +kernel) (by decide +kernel) (by decide +kernel) (by decide +kernel), by decide +kernel⟩
theorem test_transportContinue : ((after (exec .transportContinue (posted [(1, 3), (16, 1)] stopped))).planner.plan.head?.map fun e => (e.pi, e.bar, e.beat)) =
    some (96, 1, 2) := by decide +kernel

/-- An INLINE SEND of one byte to port 1 at pulse 96. -/
def sendCells : List (Nat × Byte) := [(1, 0x10), (4, 1), (5, 1), (8, 96), (16, 1), (17, 0xAA)]

theorem witness_PortCueHeld_send : (posted sendCells (withPort 1 (port .step .locked) run)).NextTake .send 0 ∧
    (posted sendCells (withPort 1 (port .step .locked) run)).validate 0 = none ∧ (posted sendCells (withPort 1 (port .step .locked) run)).heldAt 0 = none ∧
    (posted sendCells (withPort 1 (port .step .locked) run)).refPoint 1 = 96 :=
  ⟨nextTake (by decide +kernel) (by decide +kernel) (by decide +kernel) (by decide +kernel), by decide +kernel, by decide +kernel, by decide +kernel⟩
theorem test_send : ((after (exec .send (posted sendCells (withPort 1 (port .step .locked) run)))).port 1).cues.map (·.due) = [96] := by decide +kernel
theorem witness_PortCueHeld_portRun : (posted [(1, 0x11), (4, 1), (5, 1), (8, 96), (16, 1)] (withPort 1 (port .clock .locked) run)).NextTake .portRun 0 ∧
    (posted [(1, 0x11), (4, 1), (5, 1), (8, 96), (16, 1)] (withPort 1 (port .clock .locked) run)).validate 0 = none :=
  ⟨nextTake (by decide +kernel) (by decide +kernel) (by decide +kernel) (by decide +kernel), by decide +kernel⟩
theorem test_portRun : ((after (exec .portRun (posted [(1, 0x11), (4, 1), (5, 1), (8, 96), (16, 1)] (withPort 1 (port .clock .locked) run)))).port 1).cues.map (·.body) =
    [.portRun .halt] := by decide +kernel
theorem witness_PortCueHeld_scene : (posted sceneCells (withPort 2 (port .level .locked) rest)).NextTake .scene 0 ∧
    (posted sceneCells (withPort 2 (port .level .locked) rest)).validate 0 = none ∧ (posted sceneCells (withPort 2 (port .level .locked) rest)).heldAt 0 = none :=
  ⟨nextTake (by decide +kernel) (by decide +kernel) (by decide +kernel) (by decide +kernel), by decide +kernel, by decide +kernel⟩
theorem test_scene : ((after (exec .scene (posted sceneCells (withPort 2 (port .level .locked) rest)))).port 2).cues.map (fun c => (c.due, c.body)) =
    [(384, .scene 1 0 .blink 0 9)] := by decide +kernel

/-- The same SEND, one pulse too late. -/
def lateCells : List (Nat × Byte) := [(1, 0x10), (4, 1), (5, 1), (8, 95), (16, 1), (17, 0xAA)]

theorem witness_PortCueMissedAtIntake : (posted lateCells (withPort 1 (port .step .locked) run)).NextTake .send 0 ∧
    (posted lateCells (withPort 1 (port .step .locked) run)).validate 0 = none ∧ (posted lateCells (withPort 1 (port .step .locked) run)).heldAt 0 = none ∧
    (posted lateCells (withPort 1 (port .step .detached) run)).validate 0 = none :=
  ⟨nextTake (by decide +kernel) (by decide +kernel) (by decide +kernel) (by decide +kernel), by decide +kernel, by decide +kernel, by decide +kernel⟩
theorem test_send_late : (after (exec .send (posted lateCells (withPort 1 (port .step .locked) run)))).slotState 0 = stMissed ∧
    (after (exec .send (posted lateCells (withPort 1 (port .step .detached) run)))).field 0 48 1 = 0x0C := by decide +kernel
theorem witness_SceneToHouse : (posted [(1, 0x12), (4, 0xFE), (16, 47)] rest).NextTake .sceneHouse 0 ∧ (posted [(1, 0x12), (4, 0xFE), (16, 47)] rest).validate 0 = none :=
  ⟨nextTake (by decide +kernel) (by decide +kernel) (by decide +kernel) (by decide +kernel), by decide +kernel⟩
/-- A host write to the first level of scene 47 stands in the queue right behind the take. -/
def writing : State := { posted [(1, 0x12), (4, 0xFE), (16, 47)] rest with pending := [.hostSlotWrite .byte 0xB340 9] }

theorem witness_SceneToHouse_write : writing.presented = [{ after := Config.arbiterOrder 0, size := .byte, addr := 0xB340, data := 9 }] ∧
    regionOf (hostOffset .byte 0xB340) = .plain ∧ writing.nextSlot = some 0 ∧ writing.slotState 0 = stPosted ∧ writing.takeRow 0 = .sceneHouse ∧
    Memory.wf writing.mem = true ∧ writing.validate 0 = none :=
  ⟨rfl, by decide, by decide +kernel, by decide +kernel, by decide +kernel, by decide +kernel, by decide +kernel⟩
/-- R147: of three levels the host writes while they are copied, those read after its write are the new ones. -/
theorem test_copyBetween : (Device.copyBytes 3 0xB340 { rest.toDevice with arbiter := [{ after := 2, size := .word, addr := 0xB340, data := 0x01020304 }] }).1 = [0, 0, 2] := by
  decide +kernel
theorem test_sceneHouse : (after (exec .sceneHouse (posted [(1, 0x12), (4, 0xFE), (16, 47)] rest))).house = Vector.replicate 192 0 := by decide +kernel

/-- A cue at slot 5 stands in the list of port 1. -/
def listed : State := withPort 1 { port .clock .locked with cues := [cue 96 (.portRun .halt)] } rest

theorem witness_CancelBySlot : (posted [(1, 0x20), (16, 5), (18, 1)] listed).NextTake .cancelBySlot 0 ∧ (posted [(1, 0x20), (16, 5), (18, 1)] listed).validate 0 = none ∧
    ((posted [(1, 0x20), (16, 5), (18, 1)] listed).heldAt 5 = some (.list 1, cue 96 (.portRun .halt))) ∧ (posted [(1, 0x20), (16, 6)] listed).heldAt 6 = none :=
  ⟨nextTake (by decide +kernel) (by decide +kernel) (by decide +kernel) (by decide +kernel), by decide +kernel, by decide +kernel, by decide +kernel⟩
theorem witness_CancelBySlot_flight : (withPort 1 { port .step .locked with step := { StepLine.idle with queue := [flight 1] } } rest).heldAt 5 = some (.flight 1, (flight 1).cue) := by
  decide +kernel
theorem witness_CancelBySelector_slots : ∀ x ∈ (posted [(1, 0x20), (7, 1), (16, 1), (17, 0x11), (18, 7)] listed).held, x.2.slot < 512 := by decide +kernel
theorem test_cancelBySlot : (after (exec .cancelBySlot (posted [(1, 0x20), (16, 5), (18, 1)] listed))).slotState 5 = stCancelled ∧
    (after (exec .cancelBySlot (posted [(1, 0x20), (16, 5), (18, 2)] listed))).field 0 48 1 = 0x09 := by decide +kernel
theorem witness_CancelBySelector : (posted [(1, 0x20), (7, 1), (16, 1), (17, 0x11), (18, 7)] listed).NextTake .cancelBySelector 0 ∧
    (posted [(1, 0x20), (7, 1), (16, 1), (17, 0x11), (18, 7)] listed).validate 0 = none ∧ listed.heldSlots = [5] :=
  ⟨nextTake (by decide +kernel) (by decide +kernel) (by decide +kernel) (by decide +kernel), by decide +kernel, by decide +kernel⟩
theorem test_cancelBySelector : (after (exec .cancelBySelector (posted [(1, 0x20), (7, 1), (16, 1), (17, 0x11), (18, 7)] listed))).field 0 62 2 = 1 := by decide +kernel

/-- An AMEND of slot 5 to pulse 192. -/
def amendCells : List (Nat × Byte) := [(1, 0x21), (16, 5), (18, 1), (20, 1), (22, 0xFF), (23, 0xFF), (24, 192)]

theorem witness_Amend : (posted amendCells listed).NextTake .amend 0 ∧ (posted amendCells listed).validate 0 = none ∧
    (posted amendCells listed).heldAt 5 = some (.list 1, cue 96 (.portRun .halt)) ∧ (posted amendCells rest).heldAt 5 = none :=
  ⟨nextTake (by decide +kernel) (by decide +kernel) (by decide +kernel) (by decide +kernel), by decide +kernel, by decide +kernel, by decide +kernel⟩
theorem test_amend : ((after (exec .amend (posted amendCells listed))).port 1).cues.map (fun c => (c.due, c.revision)) = [(192, 2)] := by decide +kernel
/-- The run with a METER of slot 5 waiting for pulse 192. -/
def waiting : State := { run with globals := [cue 192 (.meter 3)] }

/-- In a run: a port cue amended to a pulse already passed, and a global one amended to pulse 96, into the plan. -/
theorem witness_Amend_run : (posted [(1, 0x21), (16, 5), (20, 1), (22, 0xFF), (23, 0xFF), (24, 50)] (withPort 1 { port .clock .locked with cues := [cue 96 (.portRun .halt)] } run)).validate 0 = none ∧
    (posted [(1, 0x21), (16, 5), (20, 1), (22, 0xFF), (23, 0xFF), (24, 50)] (withPort 1 { port .clock .locked with cues := [cue 96 (.portRun .halt)] } run)).refPoint 1 = 96 ∧
    (posted amendCells waiting).validate 0 = none ∧ (posted amendCells waiting).heldAt 5 = some (.global, cue 192 (.meter 3)) ∧
    (posted [(1, 0x21), (16, 5), (20, 1), (22, 0xFF), (23, 0xFF), (24, 96)] waiting).reachesTail 96 = true ∧ waiting.planner.opening.isSome = true ∧
    waiting.reachesTail 192 = false ∧ (∀ x ∈ dropCue 5 waiting.globals, waiting.firstSoft ≤ x.due) := by decide +kernel
theorem test_amend_run : (after (exec .amend (posted [(1, 0x21), (16, 5), (20, 1), (22, 0xFF), (23, 0xFF), (24, 50)]
      (withPort 1 { port .clock .locked with cues := [cue 96 (.portRun .halt)] } run)))).slotState 5 = stMissed ∧
    (after (exec .amend (posted [(1, 0x21), (16, 5), (20, 1), (22, 0xFF), (23, 0xFF), (24, 50)] waiting))).globals.map (fun c => (c.due, c.flags.moved)) = [(96, true)] := by
  decide +kernel
theorem witness_Report : (posted [(1, 0x22), (16, 1)] listed).NextTake .report 0 ∧ (posted [(1, 0x22), (16, 1)] listed).validate 0 = none :=
  ⟨nextTake (by decide +kernel) (by decide +kernel) (by decide +kernel) (by decide +kernel), by decide +kernel⟩
theorem test_report : (after (exec .report (posted [(1, 0x22), (16, 1)] listed))).field 0 17 1 = 1 ∧ (after (exec .report (posted [(1, 0x22), (16, 1)] listed))).field 0 18 2 = 5 ∧
    (after (exec .report (posted [(1, 0x22), (16, 1)] listed))).field 0 46 2 = 0xFFFF := by decide +kernel

/-- A PORT SETUP of port 1: kind CLOCK, latency 250,001 µs. -/
def setupCells : List (Nat × Byte) := [(1, 0x30), (4, 1), (16, 3), (18, 1), (20, 0x91), (21, 0xD0), (22, 3)]

theorem witness_PortSetupInInit : (posted setupCells { rest with mode := .init }).NextTake .portSetup 0 ∧ (posted setupCells { rest with mode := .init }).validate 0 = none :=
  ⟨nextTake (by decide +kernel) (by decide +kernel) (by decide +kernel) (by decide +kernel), by decide +kernel⟩
theorem test_portSetup : ((after (exec .portSetup (posted setupCells { rest with mode := .init }))).port 1).settings.latency = 250000 ∧
    (after (exec .portSetup (posted setupCells { rest with mode := .init }))).field 0 49 1 = 1 := by decide +kernel
theorem witness_PortSetupActsOnState : (posted setupCells rest).NextTake .portSetup 0 ∧ (posted setupCells rest).validate 0 = none ∧ (posted setupCells rest).mode ≠ .init :=
  ⟨nextTake (by decide +kernel) (by decide +kernel) (by decide +kernel) (by decide +kernel), by decide +kernel, by decide +kernel⟩
theorem test_portSetup_kind : ((after (exec .portSetup (posted setupCells rest))).port 1).state = .detached ∧
    ((after (exec .portSetup (posted setupCells (withPort 1 (port .level .locked) rest)))).port 1).state = .acquiring := by decide +kernel
/-- A PORT SETUP of port 1 that changes the join setting to BEAT, while the port is ACQUIRING for pulse 96 in a run. -/
def rejoining : State := posted [(1, 0x30), (4, 1), (16, 8)] (withPort 1 { port .clock .acquiring with join := some 96 } { run with time := 400000 })

theorem witness_PortSetupActsOnState_join : rejoining.validate 0 = none ∧ (rejoining.port 1).settings.join ≠ (rejoining.newSettings 0 (rejoining.port 1).settings).join ∧
    rejoining.extendDue = false ∧ rejoining.planner.cursor = some 96 ∧ rejoining.planner.plan.head? = some (entry 96) ∧ 96 % 96 = 0 ∧
    0 < timeDiff (timeMinus (instantTime (entry 96).instant) 0) rejoining.time := by decide +kernel
/-- R112: a change of kind latches PORT also from DETACHED. -/
theorem test_portSetup_detached : ((after (exec .portSetup (posted setupCells (withPort 1 { port .level .detached with presence := false } rest)))).attn.getLsbD 1) = true := by decide +kernel
theorem witness_FollowSetup : (posted [(1, 0x31), (16, 1)] rest).NextTake .followSetup 0 ∧ (posted [(1, 0x31), (16, 1)] rest).validate 0 = none :=
  ⟨nextTake (by decide +kernel) (by decide +kernel) (by decide +kernel) (by decide +kernel), by decide +kernel⟩
theorem test_followSetup : (after (exec .followSetup (posted [(1, 0x31), (16, 1)] rest))).follower.state = .seeking := by decide +kernel
theorem witness_Supervise : (posted [(1, 0x32), (17, 4)] rest).NextTake .supervise 0 ∧ (posted [(1, 0x32), (17, 4)] rest).validate 0 = none :=
  ⟨nextTake (by decide +kernel) (by decide +kernel) (by decide +kernel) (by decide +kernel), by decide +kernel⟩
theorem test_supervise : (after (exec .supervise (posted [(1, 0x32), (17, 4)] rest))).service.period = 2000000 ∧
    (after (exec .supervise (posted [(1, 0x32), (17, 4)] rest))).service.carryLimit = 1 := by decide +kernel
theorem witness_Keep : (posted [(1, 0x33), (16, 1)] rest).NextTake .keep 0 ∧ (posted [(1, 0x33), (16, 1)] rest).validate 0 = none :=
  ⟨nextTake (by decide +kernel) (by decide +kernel) (by decide +kernel) (by decide +kernel), by decide +kernel⟩
theorem test_keep : (after (exec .keep (posted [(1, 0x33), (16, 1)] rest))).keepPending = some (true, 0) ∧
    (after (exec (.hostSlotWrite .byte 0x1000 0) { rest with keepPending := some (true, 0) })).keep = true := by decide +kernel

/-! ## Hypotheses of the host port's statements -/

theorem witness_IdleStep : rest.pending = [] ∧ rest.idlePick = none ∧ (withPort 0 { port .clock .idle with raw := false, rawSince := 0 } { rest with time := 20000 }).idlePick =
    some (.presenceRecognized 0) := by decide +kernel
theorem witness_TimeAndCausesKept : after (exec (.attnEnable 0) rest) = { rest with attnEnable := 0 } := by decide +kernel
theorem witness_SlotWrite : regionOf (hostOffset .byte 0x1000) = .cueSlots ∧ regionOf (hostOffset .word 0x8FFF) = .cueSlots ∧ slotOf (hostOffset .word 0x8FFF) = 511 ∧
    Memory.wf rest.mem = true ∧ rest.ahead = 0 ∧ rest.keepPending = none ∧ wordByte 1 0 = 1 ∧ hostOffset .byte 0x1000 % 64 = 0 ∧ 0 ∉ List.range' 100 32 ∧ 32 ≤ (List.range' 100 32).length := by decide +kernel
theorem witness_OwnedSlotWrite : slotOf (hostOffset .byte 0x1041) = 1 ∧ (1 : Nat) ∈ ({ rest with prot := [1] } : State).prot ∧
    ({ rest with ahead := 1 } : State).ahead ≠ 0 ∧ ({ after := 1, size := .byte, addr := 0x1041, data := 1 } : WaitingAccess).after ≤ 1 := by decide
/-- R158: a host write let in between the two reads of a take of slot 1 finds the slot protected. -/
theorem test_ownedInsideTake : ((({ rest.toDevice with arbiter := [{ after := 1, size := .byte, addr := 0x1041, data := 1 }] } : Device).beginTake 1).pass.capture.map (·.slot)) =
    some (some 1) := by decide +kernel
theorem test_servedAhead : after (exec (.hostSlotWrite .byte 0x1041 7) { rest with ahead := 1 }) = rest := by decide +kernel
theorem witness_RegionWrites : regionOf (hostOffset .word 0x3FC) = .statusPage ∧ regionOf (hostOffset .word 0x43C) = .finishedMap ∧ regionOf (hostOffset .byte 0x440) = .plain ∧
    regionOf (hostOffset .half 0x1FFFE) = .plain := by decide +kernel
theorem witness_ControlWrites : wordBit 0x7F 8 = false ∧ wordBit 0x7F 9 = false ∧ wordBit 0x7F 10 = false ∧ wordBit 0x7F 0 = true ∧ rest.mode ≠ .init ∧
    State.reset.mode = .init := by decide +kernel
theorem witness_CaptureRelease : wordBit 0x400 8 = false ∧ wordBit 0x400 9 = false ∧ wordBit 0x400 0 = false ∧ rest.capture = none := by decide +kernel
theorem witness_SoftRestart : listed.Quiet ∧ wordBit 0x100 0 = false ∧ wordBit 0x100 10 = false ∧ Memory.wf listed.mem = true ∧ listed.heldSlots = [5] :=
  ⟨⟨rfl, rfl⟩, by decide, by decide, by decide +kernel, by decide +kernel⟩
/-- R174, R84: a restart ends the HELD cue and starts a sweep at once; an overflow flag set after it stays. -/
theorem test_restart_held : (after (exec (.restart 0) listed)).slotState 5 = stCancelled ∧ (after (exec (.restart 0) listed)).field 5 48 1 = 0x13 ∧
    (after (exec (.restart 0) { listed with overflow := true })).sweep = .visiting 0 := by decide +kernel
theorem witness_ServiceJudged : oddParity 1 = true ∧ oddParity 0x8001 = false ∧
    ({ Service.reset with phase := .closed, length := 500000 } : Service).isEarly 249999 = true ∧
    ({ Service.reset with phase := .closed, length := 500000 } : Service).isEarly 250000 = false := by decide +kernel

/-! ## The timeline -/

/-- Before the bar start 384, with a METER waiting since 200 and a TEMPO due there. -/
def barring : Device := { run.toDevice with globals := [cue 200 (.meter 3), { cue 384 (.tempo 170666667 0) with slot := 6 }] }

theorem witness_PulsePlanned : (PlanBase.after (entry 95)).prev = some (entry 95).instant ∧ (PlanBase.after (entry 383)).pi = 384 ∧
    (384 - (PlanBase.after (entry 383)).snap.origin) % ((PlanBase.after (entry 383)).snap.meter * 96) = 0 ∧ barring.follower.state = .off ∧
    (barring.globals.filter fun c => c.isMeter && decide (c.due ≤ 384)) = [cue 200 (.meter 3)] ∧ (barring.globals.filter fun c => c.isTempo && c.due == 384).map (·.slot) = [6] := by
  decide +kernel
theorem test_buildEntry : (barring.buildEntry (PlanBase.after (entry 383))).snap.meter = 3 ∧ (barring.buildEntry (PlanBase.after (entry 383))).snap.origin = 384 ∧
    (barring.buildEntry (PlanBase.after (entry 383))).snap.seg.p1 = 170666667 ∧ (barring.buildEntry (PlanBase.after (entry 383))).applied = [5, 6] := by decide +kernel
theorem witness_PlanExtension : ({ run with time := 600000 } : State).extendDue = true ∧ ({ run with time := 600000 } : State).planBase.isSome = true ∧ rest.extendDue = false := by decide +kernel
theorem test_planExtension : ((after (exec .planExtension { run with time := 500000 })).planner.plan.map (·.pi)) = [96, 97, 98] := by decide +kernel
theorem witness_CursorReach : run.cursorReachDue = some (entry 96) ∧ run.planner.latched ≠ some 96 ∧ ({ run with time := 499998 } : State).cursorReachDue = none := by decide +kernel
theorem test_referenceCursorReach : (after (exec .referenceCursorReach run)).planner.cursor = some 97 ∧ (after (exec .referenceCursorReach run)).planner.horizon = some 96 ∧
    (after (exec .referenceCursorReach run)).planner.history = [(entry 96).instant] := by decide +kernel
theorem witness_CursorReach_miss : (withPort 1 { port .clock .detached with cues := [cue 96 (.portRun .halt)] } run).cursorReachDue = some (entry 96) ∧
    ((withPort 1 { port .clock .detached with cues := [cue 96 (.portRun .halt)] } run).port 1).state.counts = false := by decide +kernel
/-- R98: an ACQUIRING port of latency 0 with a cue at its join pulse 96; the reference cursor's reach is taken before the port's. -/
def joiningLate : State := withPort 2 { port .level .acquiring with cues := [cue 96 (.scene 1 0 .none 0 0)] } run

theorem witness_CursorReach_join : joiningLate.cursorReachDue = some (entry 96) ∧ (joiningLate.port 2).settings.latency = 0 ∧ (joiningLate.port 2).join = some 96 ∧
    Memory.wf joiningLate.mem = true ∧ joiningLate.arbiter = [] ∧ (joiningLate.port 2).state.joined = false := by decide +kernel
/-- R98: either order of the two reaches: the cursor first misses the cue, the port first defers it. -/
theorem test_cursorBeforePort : ((after (exec .referenceCursorReach joiningLate)).port 2).cues = [] ∧ ((after (exec .referenceCursorReach joiningLate)).port 2).state = .settling ∧
    (after (exec .referenceCursorReach joiningLate)).field 5 48 1 = 0x0C ∧
    ((after (exec .referenceCursorReach (after (exec (.portReach 2) joiningLate)))).port 2).cues.map (·.slot) = [5] := by decide +kernel
/-- R36, R175: while the reference cursor is reaching 96, the current PI is 96. -/
theorem test_currentPI : run.currentPI = 95 ∧ (run.toDevice.cursorArrives (entry 96)).currentPI = 96 ∧ (run.toDevice.cursorArrives (entry 96)).currentEntry = some (entry 96) ∧
    ({ run with planner := { run.planner with cursor := some 0 } } : State).currentPI = 0 := by decide +kernel
/-- R37: no port reads the anchor: a pulse that has been retired is no longer reached. -/
theorem test_anchorNotReached : (withPort 2 { port .level .locked with cursor := 95 } run).portReachDue 2 = none := by decide +kernel
theorem witness_RunEnd : ({ run with planner := { run.planner with latched := some 96 } } : State).cursorReachDue = some (entry 96) := by decide +kernel
theorem test_runEnd : (after (exec .referenceCursorReach { run with planner := { run.planner with latched := some 96, plan := [{ entry 96 with stop := true }] } })).planner.stopped =
    some { pi := 96, bar := 1, beat := 2 } := by decide +kernel

/-- A run in which pulse 96 applies the METER cue of slot 5 and passes over the TEMPO cue of slot 6. -/
def planned : State :=
  { run with
    globals := [cue 96 (.meter 3), { cue 96 (.tempo 341333333 0) with slot := 6 }]
    planner := { run.planner with plan := [{ entry 96 with applied := [5], passed := [6] }, entry 97] } }

theorem witness_HorizonHardens : planned.risesTo 96 = true ∧ Memory.wf planned.mem = true ∧
    (planned.softEntries.filter fun x => decide (x.pi ≤ 96)) = [{ entry 96 with applied := [5], passed := [6] }] ∧ (planned.globals.map (·.slot)).Nodup ∧
    planned.risesTo 95 = false := by decide +kernel
/-- R6: two METERs applied at 96, that of slot 6 last; a later move has put the list in the other order. -/
def twoMeters : State :=
  { run with
    globals := [{ cue 96 (.meter 4) with slot := 6 }, cue 96 (.meter 3)]
    planner := { run.planner with plan := [{ entry 96 with applied := [5, 6] }, entry 97] } }

theorem witness_HorizonHardens_superseded : twoMeters.risesTo 96 = true ∧ (twoMeters.globals.map (·.slot)).Nodup ∧ ([5, 6] : List Nat).Nodup ∧
    (twoMeters.softEntries.filter fun x => decide (x.pi ≤ 96)) = [{ entry 96 with applied := [5, 6] }] ∧ (∀ c ∈ twoMeters.globals, c.slot < 512) := by decide +kernel
theorem test_hardens_superseded : (twoMeters.raiseHorizon 96).field 5 49 1 = 8 ∧ (twoMeters.raiseHorizon 96).field 6 49 1 = 0 := by decide +kernel
theorem test_hardens : (planned.raiseHorizon 96).slotState 5 = stFired ∧ (planned.raiseHorizon 96).slotState 6 = stMissed ∧ (planned.raiseHorizon 96).globals = [] := by decide +kernel

/-- The run with the horizon at 96 and this record at port 2. -/
def reaching (x : Port) : State := withPort 2 x { run with planner := { run.planner with horizon := some 96 } }

theorem witness_PortReachEmits : (reaching (port .level .locked)).portReachDue 2 = some (entry 96) ∧ (reaching (port .clock .locked)).risesTo 96 = false ∧
    ({ reaching (port .step .locked) with time := 499998 } : State).portReachDue 2 = none := by decide +kernel
/-- The same with the horizon at 95, so that the reach raises it; a port that stays SETTLING; and a paced message at the head. -/
theorem witness_PortReachEmits_more : (withPort 2 (port .level .locked) run).risesTo 96 = true ∧ (withPort 2 (port .level .locked) run).portReachDue 2 = some (entry 96) ∧
    (reaching { port .step .settling with settleEnd := some 192 }).portReachDue 2 = some (entry 96) ∧ (reaching (port .step .locked)).Quiet ∧
    (entry 96).beatStart = true :=
  ⟨by decide +kernel, by decide +kernel, by decide +kernel, ⟨rfl, rfl⟩, by decide +kernel⟩
theorem test_portReach_release : ((after (exec (.portReach 2) (reaching { port .step .locked with
    step := { StepLine.idle with line := some { code := 0x101, ends := 500000 }, queue := [{ flight 3 with cue := cue 0 (.send true 0 300 .perBeat 1) }] } }))).port 2).step.queue.map
      (·.releases) = [1] := by decide +kernel
/-- R138, R140: no release is counted for the next SEND while an ABORT is owed. -/
theorem test_portReach_aborting : ((after (exec (.portReach 2) (reaching { port .step .locked with
    step := { StepLine.idle with line := some { code := 0x101, ends := 500000 }, owed := [chAbort], queue := [{ flight 3 with cue := cue 0 (.send true 0 300 .perBeat 1) }] } }))).port 2).step.queue.map
      (·.releases) = [0] := by decide +kernel
/-- R128: RUN rises at the join pulse, and a fall still owed to the stop before lapses. -/
theorem test_runRises : ((after (exec (.portReach 2) (reaching { port .clock .locked with clock := { ClockLine.idle false with form := .ready 96, fallOwed := true } }))).port 2).clock.fallOwed = false ∧
    ((after (exec (.portReach 2) (reaching { port .clock .locked with clock := { ClockLine.idle false with form := .ready 96 } }))).port 2).clock.wireB = true := by
  decide +kernel
theorem test_portReach : ((after (exec (.portReach 2) (reaching (port .step .locked)))).port 2).step.line = some { code := 0x102, ends := 500109 } ∧
    ((after (exec (.portReach 2) (reaching (port .clock .locked)))).port 2).clock.phase = .active 500999 := by decide +kernel
theorem witness_PortReachJoins : (reaching (port .clock .acquiring)).portReachDue 2 = some (entry 96) ∧
    (reaching { port .clock .settling with settleEnd := some 96 }).portReachDue 2 = some (entry 96) := by decide +kernel
theorem test_portReach_joins : ((after (exec (.portReach 2) (reaching (port .clock .acquiring)))).port 2).settleEnd = some 192 ∧
    ((after (exec (.portReach 2) (reaching { port .clock .settling with settleEnd := some 96 }))).port 2).state = .locked := by decide +kernel
theorem witness_Dispatch : (reaching { port .level .locked with cues := [cue 96 (.scene 1 0 .none 0 0)] }).portReachDue 2 = some (entry 96) ∧
    (reaching { port .level .locked with cues := [cue 96 (.scene 1 0 .none 0 0)] }).withinGrace .strict 0 = true ∧
    (reaching { port .level .locked with cues := [cue 95 (.scene 1 0 .none 0 0)] }).withinGrace .strict 1 = false := by decide +kernel
/-- A repeating SCENE with two attempts left, and two SCENEs at one reach. -/
def repeating : State := reaching { port .level .locked with cues := [{ cue 96 (.scene 1 0 .none 0 0) with interval := 1, left := some 2 }] }
def doubled : State := reaching { port .level .locked with cues := [cue 95 (.scene 1 0 .none 0 0), { cue 96 (.scene 2 0 .none 0 0) with slot := 6 }].map fun c => { c with grace := .anytime } }

theorem witness_Dispatch_more : repeating.portReachDue 2 = some (entry 96) ∧ repeating.withinGrace .strict 0 = true ∧ repeating.risesTo 96 = false ∧
    96 + 1 * 96 ≤ 4294967295 ∧ doubled.portReachDue 2 = some (entry 96) ∧ (doubled.port 2).cues.map (fun c => doubled.withinGrace c.grace (96 - c.due)) = [true, true] ∧
    Memory.wf doubled.mem = true := by decide +kernel
theorem test_dispatch_more : ((after (exec (.portReach 2) repeating)).port 2).cues.map (fun c => (c.due, c.revision, c.left, c.fired)) = [(192, 2, some 1, 1)] ∧
    (after (exec (.portReach 2) doubled)).field 5 49 1 = 12 ∧ (after (exec (.portReach 2) doubled)).slotState 5 = stFired ∧ (after (exec (.portReach 2) doubled)).field 6 49 1 = 0 := by decide +kernel
/-- A STEP port whose resume form for b waits behind the character on the line, with a PORT RUN HALT due at 96. -/
def halting (resume : Option Nat) (src : CharSource) : State :=
  reaching { port .step .locked with
    resume := resume, cues := [cue 96 (.portRun .halt)]
    step := { StepLine.idle with line := some { code := 0x120, ends := 900000 }, timing := [{ code := chResume, source := src, posData := false }], resumeQueued := true } }

theorem witness_Dispatch_halt : (halting none .plain).portReachDue 2 = some (entry 96) ∧ (halting (some 96) .resumeForm).withinGrace .strict 0 = true ∧
    (halting (some 100) .resumeForm).risesTo 96 = false ∧ Memory.wf (halting none .plain).mem = true := by decide +kernel
/-- R130: a halt at or above b leaves the resume form to be sent; one below b withdraws it. -/
theorem test_halt : ((after (exec (.portReach 2) (halting none .plain))).port 2).step.timing.map (·.code) = [chResume, chStop] ∧
    ((after (exec (.portReach 2) (halting (some 96) .resumeForm))).port 2).step.timing.map (·.code) = [chResume, chStop] ∧
    ((after (exec (.portReach 2) (halting (some 100) .resumeForm))).port 2).step.timing.map (·.code) = [chStop] := by decide +kernel
theorem test_dispatch : (after (exec (.portReach 2) (reaching { port .level .locked with cues := [cue 96 (.scene 1 0 .none 0 0)] }))).slotState 5 = stFired ∧
    (after (exec (.portReach 2) (reaching { port .level .locked with cues := [cue 95 (.scene 1 0 .none 0 0)] }))).slotState 5 = stMissed := by decide +kernel

/-! ## The follower -/

/-- A follower in this state that has taken these marks. -/
def following (st : FollowerState) (marks : List Time) : State :=
  { rest with time := 1500000, follower := { Follower.reset with follow := true, state := st, marks := marks, prevTaken := some 1400000, period := some 341333333, lastMark := some 1000000 } }

theorem witness_BeatMarkCollected : timeDiff 1500000 1400000 = 100000 ∧ trainLength [0, 500000, 1005000, 1500000] = some 1500000 ∧
    trainLength [0, 480000, 980000, 1500000] = none := by decide +kernel
theorem test_beatMark : (after (exec (.beatMark .bsa) (following .seeking [0, 500000, 1005000]))).follower.state = .locked ∧
    after (exec (.beatMark .bsb) (following .seeking [])) = following .seeking [] := by decide +kernel
theorem witness_BeatMarkJudged : (following .locked []).follower.state = .locked ∧ (following .locked []).markError 1500000 = 1 ∧
    (following .locked []).referencePeriod = 341333333 ∧ (following .locked []).markError 1300000 = -199999 := by decide +kernel
/-- A LOCKED follower in a run: the beat starts 96 planned and 0 reached; a mark between them, one above the tail, and, while STOPPED, one after the accepted mark. -/
def inRun : State :=
  { run with
    time := 300000, follower := (following .locked []).follower
    planner := { run.planner with history := [0] } }

theorem witness_BeatMarkJudged_run : 0 < instDiff (entry 96).instant (timeInstant 300000) ∧ inRun.planner.plan.filter (·.beatStart) = [entry 96] ∧
    ¬ 0 < instDiff (entry 96).instant (timeInstant 600000) ∧ inRun.planner.plan.getLast? = some (entry 97) ∧ inRun.entryAt 95 = some (entry 95) ∧
    0 ≤ instDiff (timeInstant 1500000) (timeInstant 1000000) ∧ ({ run with planner := { run.planner with horizon := none } } : State).planner.plan.head? = some (entry 96) := by
  decide +kernel
theorem test_referenceBeat : inRun.referenceBeat 300000 = (entry 96).instant ∧ inRun.referenceBeat 200000 = 0 ∧ (following .locked []).referenceBeat 1500000 =
    timeInstant 1000000 + BitVec.ofNat 64 (96 * 341333333) := by decide +kernel
theorem test_beatMark_judged : (after (exec (.beatMark .bsa) (following .locked []))).follower.lastMark = some 1500000 ∧
    (after (exec (.beatMark .bsa) { following .locked [] with time := 1700000, follower := { (following .locked []).follower with rejects := 3 } })).follower.state = .holding := by
  decide +kernel

/-! ## Presence and supervision -/

theorem witness_Presence : (port .clock .locked).raw ≠ false ∧ (withPort 2 { port .clock .locked with presence := false } { rest with time := 20000 }).presenceDue 2 = true ∧
    (withPort 2 { port .clock .locked with presence := false } { rest with time := 19999 }).presenceDue 2 = false := by decide +kernel
/-- A DETACHED port whose presence is recognized in a run, 100,000 µs before the join boundary 96. -/
def arriving (k : PortKind) : State := withPort 2 { port k .detached with presence := false, join := none } { run with time := 400000 }

theorem witness_Presence_join : (arriving .clock).presenceDue 2 = true ∧ (arriving .clock).planner.cursor = some 96 ∧ ((arriving .clock).port 2).join = none ∧
    entryOf ((arriving .clock).port 2).settings true = .acquiring ∧ entryOf ((arriving .level).port 2).settings true = .locked ∧
    0 < timeDiff (timeMinus (instantTime (entry 96).instant) 0) (arriving .clock).time ∧ (arriving .clock).planner.plan.getLast? = some (entry 97) ∧
    0 < (entry 97).snap.meter := by decide +kernel
theorem test_presence_join : ((after (exec (.presenceRecognized 2) (arriving .level))).port 2).join = some 96 ∧
    ((after (exec (.presenceRecognized 2) (arriving .clock))).port 2).join = some 384 := by decide +kernel
theorem test_rawPresenceChange : ((after (exec (.rawPresenceChange 2 true) { rest with time := 9 })).port 2).rawSince = 9 := by decide +kernel
theorem test_presenceRecognized : ((after (exec (.presenceRecognized 2) (withPort 2 { port .clock .locked with raw := false } { rest with time := 20000 }))).port 2).state = .detached ∧
    ((after (exec (.presenceRecognized 2) (withPort 2 { port .clock .locked with raw := false, flaps := [1, 2] } { rest with time := 20000 }))).port 2).state = .faulted := by
  decide +kernel
theorem test_flapEntryAged : ((after (exec (.flapEntryAged 2) (withPort 2 { port .clock .locked with flaps := [0, 1] } { rest with time := 10000000 }))).port 2).flaps = [1] := by
  decide +kernel

/-- The monitor in a WINDOW period of 500 ms that began at 0, in this mode at this time. -/
def watched (m : DeviceMode) (ph : ServicePhase) (t : Time) : State :=
  { rest with time := t, mode := m, service := { Service.reset with window := true, phase := ph, length := 500000, carry := some 600000 } }

theorem witness_ServicePeriods : 0 ≤ timeDiff 500000 (timePlus (watched .attended .openPhase 500000).service.start (watched .attended .openPhase 500000).service.length) ∧
    ¬ 0 ≤ timeDiff 499999 (timePlus (watched .attended .openPhase 499999).service.start 500000) := by decide +kernel
theorem test_serviceTimeout : (after (exec .serviceTimeout (watched .attended .openPhase 500000))).mode = .carry ∧
    after (exec .serviceTimeout (watched .attended .openPhase 499999)) = watched .attended .openPhase 499999 := by decide +kernel
theorem test_closedPhaseEnd : (after (exec .closedPhaseEnd (watched .attended .closed 250000))).service.phase = .openPhase := by decide +kernel

/-- CARRY at the expiry, with a cue held at slot 5 of port 1. -/
def expiring : State := { listed with time := 600000, mode := .carry, service := (watched .carry .openPhase 0).service }

theorem witness_HouseEntry : expiring.mode = .carry ∧ expiring.service.carry = some 600000 ∧ 0 ≤ timeDiff expiring.time 600000 ∧ Memory.wf expiring.mem = true ∧
    expiring.heldSlots = [5] ∧ expiring.pending = [] ∧ expiring.arbiter = [] := by decide +kernel
theorem test_carryTimerExpiry : (after (exec .carryTimerExpiry expiring)).mode = .house ∧ (after (exec .carryTimerExpiry expiring)).field 5 48 1 = 0x14 := by decide +kernel

/-! ## Links and the status page -/

theorem witness_LevelFrame : (withPort 2 { port .level .locked with frames := { last := some { begin := 0, house := false, levels := Vector.replicate 192 0, cut := none }, waiting := false } }
    { rest with time := 25000 }).frameDue 2 = true := by decide +kernel
/-- A frame that began at 100 with channel 0 at 3. -/
def frame : Frame := { begin := 100, house := true, levels := Vector.ofFn fun i => if i.val = 0 then 3 else 0, cut := none }

/-- R142: space, mark, the bits of 48h, those of channel 0, the end of the frame, and a cut. -/
theorem test_frameLevel : frame.level 131 = false ∧ frame.level 132 = true ∧ frame.level 140 = false ∧ frame.level 148 = true ∧ frame.level 150 = false ∧
    frame.level 162 = true ∧ frame.level 166 = false ∧ frame.level 4000 = true ∧ ({ frame with cut := some 120 } : Frame).level 121 = true := by decide +kernel
/-- R143: leaving LOCKED while the first frame waits leaves an old cut where it is. -/
theorem test_frameLeave : ({ last := some { frame with cut := some 120 }, waiting := true } : FrameLine).leave 900 = { last := some { frame with cut := some 120 }, waiting := false } ∧
    ({ last := some frame, waiting := false } : FrameLine).leave 150 = { last := some { frame with cut := some 160 }, waiting := false } := by decide +kernel
theorem test_levelFrameBegin : ((after (exec (.levelFrameBegin 2) (withPort 2 { port .level .locked with
    frames := { last := some { begin := 0, house := false, levels := Vector.replicate 192 0, cut := none }, waiting := false } } { rest with time := 25000 }))).port 2).frames.last.map
      (·.begin) = some 25000 := by decide +kernel

/-- A STEP port with a character that ends at 110, this timing queue and this message queue. -/
def sending (timing : List TimingChar) (queue : List Flight) : State :=
  withPort 2 { port .step .locked with step := { StepLine.idle with line := some { code := 0x101, ends := 110 }, timing := timing, queue := queue } } { rest with time := 110 }

theorem witness_CharacterEnd : 0 ≤ timeDiff (sending [] [flight 4]).time 110 ∧ (flight 4).complete = true ∧ (flight 3).ready = true ∧ (flight 3).complete = false ∧
    ({ flight 2 with cue := cue 0 (.send true 0 300 .perBeat 1), sent := 3 } : Flight).ready = false := by decide +kernel
/-- A finished message with another behind it, a repeating one, an owed character, an empty queue. -/
def finishing (interval : Nat) (next : List Flight) : State :=
  sending [] ({ flight 4 with cue := { cue 0 (.send false 0 2 .whole 0) with interval := interval, left := some (interval + 1) } } :: next)

theorem witness_CharacterEnd_more : ((finishing 0 [flight 0]).port 2).step.queue.map (fun f => (f.complete, f.ready)) = [(true, false), (false, true)] ∧
    (finishing 1 []).Quiet ∧ (finishing 1 []).planner.transport = .stopped ∧ Memory.wf (finishing 1 []).mem = true ∧
    ((sending [] []).port 2).step.queue = [] ∧ ((sending [] []).port 2).frames.waiting = false :=
  ⟨by decide +kernel, ⟨rfl, rfl⟩, by decide +kernel, by decide +kernel, by decide +kernel, by decide +kernel⟩
theorem test_characterEnd_more : ((after (exec (.characterEnd 2) (finishing 0 [{ flight 0 with cue := { (flight 0).cue with slot := 6 } }]))).port 2).step.line =
      some { code := 0x130, ends := 220 } ∧
    ((after (exec (.characterEnd 2) (finishing 1 []))).port 2).cues.map (fun c => (c.due, c.left)) = [(96, some 1)] ∧
    ((after (exec (.characterEnd 2) (sending [] []))).port 2).step.line = none := by decide +kernel
/-- R131: a character begun at 0: start bit, the first and the last data bit of 101h, stop bit. -/
theorem test_characterLevel : ({ code := 0x101, ends := 110 } : LineChar).level 9 = false ∧ ({ code := 0x101, ends := 110 } : LineChar).level 10 = true ∧
    ({ code := 0x101, ends := 110 } : LineChar).level 20 = false ∧ ({ code := 0x101, ends := 110 } : LineChar).level 99 = true ∧
    (Port.wires { port .step .locked with step := { StepLine.idle with line := some { code := 0x101, ends := 110 } } } 20) = (false, true) := by decide +kernel
theorem test_characterEnd : ((after (exec (.characterEnd 2) (sending [] [flight 0]))).port 2).step.line = some { code := 0x130, ends := 220 } ∧
    (after (exec (.characterEnd 2) (sending [] [flight 4]))).slotState 5 = stFired := by decide +kernel

/-- R143: a STEP port whose frame, begun as a LEVEL port, was cut at 120, with a character waiting. -/
def cutting (t : Time) : State :=
  withPort 2 { port .step .acquiring with
    frames := { last := some { frame with cut := some 120 }, waiting := false }, step := { StepLine.idle with timing := [TimingChar.plain chTick] } } { rest with time := t }

theorem witness_CharacterEnd_cut : ((cutting 119).time - frame.begin).toNat < 3900 ∧ ¬ 0 ≤ timeDiff (cutting 119).time 120 ∧ 0 ≤ timeDiff (cutting 120).time 120 ∧
    ((cutting 119).port 2).step.line = none := by decide +kernel
theorem test_characterEnd_cut : ((after (exec (.characterEnd 2) (cutting 119))).port 2).step.line = none ∧
    ((after (exec (.characterEnd 2) (cutting 120))).port 2).step.line = some { code := chTick, ends := 230 } ∧ (.characterEnd 2) ∈ (cutting 120).timedDue := by decide +kernel
/-- R143: the transmitter starts nothing before the cut, and starts at it. -/
theorem test_pump_cut : (((cutting 119).toDevice.pump 2).port 2).step.line = none ∧ (((cutting 120).toDevice.pump 2).port 2).step.line.isSome = true := by decide +kernel

/-- A CLOCK port with this line. -/
def clocked (c : ClockLine) : State := withPort 2 { port .clock .acquiring with clock := c } { run with time := 498000 }

theorem witness_ClockLines : 0 ≤ timeDiff (clocked { ClockLine.idle false with phase := .active 498000 }).time 498000 ∧
    (clocked { ClockLine.idle false with form := .pending 96 }).planEntry 96 = some (entry 96) ∧
    (clocked { ClockLine.idle false with form := .pending 96 }).clockLeadDue 2 = some (96, true) := by decide +kernel
theorem test_clockPhaseEnd : ((after (exec (.clockPhaseEnd 2) (clocked { ClockLine.idle false with phase := .active 498000 }))).port 2).clock.phase = .gap 499000 := by decide +kernel
theorem test_clockLeadIn : ((after (exec (.clockLeadIn 2) (clocked { ClockLine.idle false with form := .pending 96 }))).port 2).clock.wireB = true := by decide +kernel
theorem test_resetPulseEnd : ((after (exec (.resetPulseEnd 2) (clocked { ClockLine.idle false with form := .pulse 96 498000 false false }))).port 2).clock.form = .ready 96 := by decide +kernel
theorem test_lowGapEnd : ((after (exec (.lowGapEnd 2) (clocked { ClockLine.idle false with form := .gap 96 498000 true }))).port 2).clock.wireB = true := by decide +kernel

/-- A STEP port that is about to join at 96, 1,000 µs ahead. -/
def joining : State := withPort 2 { port .step .acquiring with step := { StepLine.idle with form := .pending 96 } } { run with time := 498999 }

theorem witness_StepForms : joining.planEntry 96 = some (entry 96) ∧ joining.stepLeadDue 2 = some 96 ∧
    (withPort 2 { port .step .locked with resume := some 96 } { run with time := 498999 }).resumeFormDue 2 = some 96 := by decide +kernel
theorem witness_StepForms_busy : ((joining.port 2).frames.last = none) ∧
    ((withPort 2 { joining.port 2 with frames := { last := some { frame with begin := 498900, cut := some 499020 }, waiting := false } } joining).stepLeadDue 2 = some 96) ∧
    ¬ 0 ≤ timeDiff joining.time 499020 ∧ (joining.time - 498900).toNat < 3900 := by decide +kernel
theorem test_stepLeadIn : ((after (exec (.stepLeadIn 2) joining)).port 2).step.timing.map (·.code) = [96, 0, 0, 0, 0x110] := by decide +kernel
theorem test_stepResumeForm : ((after (exec (.stepResumeForm 2) (withPort 2 { port .step .locked with resume := some 96 } { run with time := 498999 }))).port 2).step.timing.map (·.code) =
    [96, 0, 0, 0, 0x112] := by decide +kernel
theorem witness_StatusWrite : Memory.wf State.reset.mem = true ∧ State.reset.writer = some { made := 0, since := 0 } ∧ rest.writer = none := by decide +kernel
theorem witness_StatusWrite_capture : ({ State.reset with capture := some { kind := .followLost, port := none, slot := none, pi := 0, time := 0, more := 0 } } : State).capture.isSome = true ∧
    State.reset.Quiet ∧ State.reset.capture = none := ⟨by decide +kernel, ⟨rfl, rfl⟩, by decide +kernel⟩
/-- R174: a requested status write that has made no access runs to its end as a restart begins. -/
theorem test_finishWrite : (State.reset.toDevice.finishWrite).peek 0 4 = 2 ∧ (State.reset.toDevice.finishWrite).writer = none := by decide +kernel
theorem test_statusWrite : (after (exec (.statusWrite 390) State.reset)).peek 0 4 = 2 ∧ (after (exec (.statusWrite 390) State.reset)).writer = none ∧
    (after (exec (.statusWrite 1) State.reset)).peek 0 4 = 1 := by decide +kernel
theorem witness_StepKeeps : step rest = .next { rest with time := 1, choices := 1 } := by rfl

end Sys2Proof.Tests
end

section
/-! PROOFS. Tempo arithmetic (Chapter 2) and the planning of one pulse (R32): roundings, clamps, segment values, marks, and what each field of a built entry holds. -/
namespace Sys2Proof.Machine

/-! ## Rounding and clamping (R19, R24, R28) -/

/-- Rounding halves up: the result is the floor of a / b + 1/2. -/
theorem roundDiv_bounds (a : Nat) {b : Nat} (hb : 0 < b) :
    2 * b * roundDiv a b ≤ 2 * a + b ∧ 2 * a + b < 2 * b * (roundDiv a b + 1) :=
  ⟨Nat.mul_div_le _ _, Nat.lt_mul_div_succ _ (by omega)⟩

theorem clampPeriod_of_lt {x : Int} (h : x < 136533333) : clampPeriod x = 136533333 := if_pos h

theorem clampPeriod_of_gt {x : Int} (h : 1024000000 < x) : clampPeriod x = 1024000000 := by
  have hmin : ¬ x < periodMin := by simp only [periodMin]; omega
  exact (if_neg hmin).trans (if_pos h)

theorem clampPeriod_of_mem {x : Int} (hlo : 136533333 ≤ x) (hhi : x ≤ 1024000000) : (clampPeriod x : Int) = x := by
  have hmin : ¬ x < periodMin := by simp only [periodMin]; omega
  have hmax : ¬ (periodMax : Int) < x := by simp only [periodMax]; omega
  rw [clampPeriod, if_neg hmin, if_neg hmax]
  omega

/-- The clamp of a number, on numbers. -/
theorem clampPeriod_natCast (r : Nat) :
    clampPeriod r = if r < 136533333 then 136533333 else if 1024000000 < r then 1024000000 else r := by
  split
  case isTrue h => exact clampPeriod_of_lt (by omega)
  case isFalse hlo =>
    split
    case isTrue h => exact clampPeriod_of_gt (by omega)
    case isFalse hhi => exact Int.ofNat.inj (clampPeriod_of_mem (by omega) (by omega))

/-- A legal period is its own clamp. -/
theorem clampPeriod_of_legal {p : Nat} (h : periodMin ≤ p ∧ p ≤ periodMax) : clampPeriod p = p :=
  Int.ofNat.inj (clampPeriod_of_mem (Int.ofNat_le.mpr h.1) (Int.ofNat_le.mpr h.2))

/-! ## Intervals and trains of marks (R28, R57, R62) -/

/-- R28: an interval of `us` µs over b beats is the rounded quotient, clamped. -/
theorem intervalPeriod_spec (us : Nat) {b : Nat} (hb : 1 ≤ b) :
    ∃ r : Nat, 2 * (b * 96) * r ≤ 2 * (us * 65536) + b * 96 ∧ 2 * (us * 65536) + b * 96 < 2 * (b * 96) * (r + 1) ∧
      intervalPeriod us b = if r < 136533333 then 136533333 else if 1024000000 < r then 1024000000 else r := by
  obtain ⟨hlow, hhigh⟩ := roundDiv_bounds (us * 65536) (show 0 < b * 96 by omega)
  exact ⟨roundDiv (us * 65536) (b * 96), hlow, hhigh, clampPeriod_natCast _⟩

/-- R62 with full tempo gain: the old period drops out, and the interval's own period is taken. -/
theorem updatedPeriod_fullGain (p i : Nat) {n : Nat} (h1 : 1 ≤ n) (h4 : n ≤ 4) : updatedPeriod p 16 n i = intervalPeriod i n := by
  have hgain : ((((intervalPeriod i n : Nat) : Int) - p) * (16 : Nat)).tdiv 16 = (intervalPeriod i n : Nat) - p :=
    Int.mul_tdiv_cancel _ (by decide)
  have hsum : (p : Int) + ((((intervalPeriod i n : Nat) : Int) - p) * (16 : Nat)).tdiv 16 = (intervalPeriod i n : Nat) := by
    rw [hgain]
    omega
  rw [updatedPeriod, if_pos ⟨h1, h4⟩, hsum, clampPeriod_of_legal (intervalPeriod_range i n)]

theorem intervalPasses_iff (i d : Int) :
    intervalPasses i d = true ↔ 200000 ≤ i ∧ i ≤ 1500000 ∧ 50 * (3 * i - d).natAbs ≤ d.natAbs := by
  simp only [intervalPasses, Bool.and_eq_true, decide_eq_true_eq, and_assoc]

/-- R57: a train of four marks has a length exactly when its three intervals pass. -/
theorem trainLength_four (t1 t2 t3 t4 : Time) :
    trainLength [t1, t2, t3, t4] =
      if intervalPasses (timeDiff t2 t1) (timeDiff t4 t1) = true ∧ intervalPasses (timeDiff t3 t2) (timeDiff t4 t1) = true ∧
        intervalPasses (timeDiff t4 t3) (timeDiff t4 t1) = true then some (timeDiff t4 t1).toNat else none := by
  simp only [trainLength, Bool.and_eq_true, and_assoc]

/-- Settles O48: rounding and clamp of R28, its two uses by the follower, and the test of R57. -/
theorem intervalConversion : Obligations.IntervalConversion := by
  refine ⟨fun us b hb => intervalPeriod_spec us hb, fun _ _ _ => rfl, fun p n i h1 h4 => updatedPeriod_fullGain p i h1 h4, ?_⟩
  intro t1 t2 t3 t4
  dsimp only
  rw [trainLength_four]
  simp only [intervalPasses_iff]
  exact ⟨fun hall => if_pos hall, fun hnot => if_neg hnot⟩

/-! ## Segment values (R21, R22) -/

theorem Segment.value_of_le {g : Segment} {k : Nat} (h : k ≤ g.start) : g.value k = g.p0 := if_pos h

theorem Segment.value_of_gt {g : Segment} {k : Nat} (h : g.start + g.len < k) : g.value k = g.p1 := by
  rw [Segment.value, if_neg (by omega), if_neg (by omega)]

/-- A ramp of `len` pulses that is at its pulse j ≤ len has fallen by at most the whole of p0. -/
theorem ramp_nonneg (p0 p1 j len : Nat) (hj : j ≤ len) : 0 ≤ (p0 : Int) + (((p1 : Int) - p0) * (j : Int)).tdiv len := by
  rcases Nat.eq_zero_or_pos len with rfl | hlen
  · simp
  · have hlen' : (0 : Int) < len := Int.natCast_pos.mpr hlen
    have hfall : -(p0 : Int) * len ≤ ((p1 : Int) - p0) * j :=
      calc -(p0 : Int) * len
        _ ≤ -(p0 : Int) * j := Int.mul_le_mul_of_nonpos_left (by omega) (Int.ofNat_le.mpr hj)
        _ ≤ ((p1 : Int) - p0) * j := Int.mul_le_mul_of_nonneg_right (by omega) (Int.natCast_nonneg j)
    have hdiv : (-(p0 : Int) * len).tdiv len ≤ (((p1 : Int) - p0) * (j : Int)).tdiv len :=
      Int.tdiv_le_tdiv hlen' hfall
    rw [Int.mul_tdiv_cancel _ (Int.ne_of_gt hlen')] at hdiv
    omega

/-- R21: on the ramp the value is exactly p0 plus the truncated part of the way to p1. -/
theorem Segment.value_of_ramp {g : Segment} {k : Nat} (hs : g.start < k) (he : k ≤ g.start + g.len) :
    ((g.value k : Nat) : Int) = (g.p0 : Int) + ((((g.p1 : Int) - g.p0) * ((k - g.start : Nat) : Int)).tdiv g.len) := by
  rw [Segment.value, if_neg (by omega), if_pos (by omega)]
  exact Int.toNat_of_nonneg (ramp_nonneg _ _ _ _ (by omega))

@[simp] theorem Segment.progressed_value (g : Segment) (j k : Nat) : (g.progressed j).value k = g.value k := rfl

/-- R22: the segment a TEMPO cue opens begins at the value of the one it replaces. -/
@[simp] theorem Segment.opened_value (g : Segment) (k target ramp : Nat) : (g.opened k target ramp).value k = g.value k :=
  Segment.value_of_le (Nat.le_refl k)

/-! ## TEMPO and METER cues in a plan -/

theorem Cue.tempoDue_eq (c : Cue) (k : Nat) : c.tempoDue k = (c.isTempo && c.due == k) := by
  unfold Cue.tempoDue Cue.isTempo
  cases c.body <;> rfl

/-- R22: TEMPO cues due at k do not change the segment value of k itself. -/
theorem applyTempo_value (k : Nat) (l : List Cue) (g : Segment) : (applyTempo k g l).value k = g.value k := by
  induction l generalizing g with
  | nil => rfl
  | cons c l ih =>
    unfold applyTempo
    split
    · rw [ih, Segment.opened_value]
    · exact ih g

/-- Of the TEMPO cues due together the last opens the segment that stays. -/
theorem applyTempo_concat {c : Cue} {target ramp : Nat} (hc : c.body = .tempo target ramp) (k : Nat) (l : List Cue) (g : Segment) :
    applyTempo k g (l ++ [c]) = (applyTempo k g l).opened k target ramp := by
  induction l generalizing g with
  | nil => simp only [List.nil_append, applyTempo, hc]
  | cons x l ih =>
    rw [List.cons_append]
    unfold applyTempo
    split
    · exact ih _
    · exact ih g

/-- Of the METER cues taking effect together the last gives the meter. -/
theorem applyMeter_concat {c : Cue} {beats : Nat} (hc : c.body = .meter beats) (l : List Cue) (meter : Nat) :
    applyMeter meter (l ++ [c]) = beats := by
  induction l generalizing meter with
  | nil => simp only [List.nil_append, applyMeter, hc]
  | cons x l ih =>
    rw [List.cons_append]
    unfold applyMeter
    split
    · exact ih _
    · exact ih meter

/-- R6: the METER cues that wait, with the plan searched once for those already applied at a soft pulse. -/
theorem Device.meterCues_eq (d : Device) (k : Nat) :
    d.meterCues k = d.globals.filter fun c =>
      c.isMeter && decide (c.due ≤ k) && !(d.planner.plan.any fun x => decide (d.firstSoft ≤ x.pi) && x.applied.contains c.slot) := by
  simp only [Device.meterCues, Device.softEntries, List.any_filter]

theorem isBeatStart_iff (k : Nat) : isBeatStart k = true ↔ k % 96 = 0 := beq_iff_eq

theorem isBarStart_iff (k meter origin : Nat) : isBarStart k meter origin = true ↔ origin ≤ k ∧ (k - origin) % (meter * 96) = 0 := by
  simp only [isBarStart, isBarMultiple, Nat.one_mul, Bool.and_eq_true, decide_eq_true_eq, beq_iff_eq]

/-! ## Pending inputs leave all but segment, spread and balance (R42) -/

@[simp] theorem PlanBase.withPending_meter (b : PlanBase) (pl : Planner) (k : Nat) : (b.withPending pl k).snap.meter = b.snap.meter := by
  unfold PlanBase.withPending; split <;> rfl

@[simp] theorem PlanBase.withPending_origin (b : PlanBase) (pl : Planner) (k : Nat) : (b.withPending pl k).snap.origin = b.snap.origin := by
  unfold PlanBase.withPending; split <;> rfl

@[simp] theorem PlanBase.withPending_bar (b : PlanBase) (pl : Planner) (k : Nat) : (b.withPending pl k).bar = b.bar := by
  unfold PlanBase.withPending; split <;> rfl

@[simp] theorem PlanBase.withPending_beat (b : PlanBase) (pl : Planner) (k : Nat) : (b.withPending pl k).beat = b.beat := by
  unfold PlanBase.withPending; split <;> rfl

@[simp] theorem PlanBase.withPending_fixedCounts (b : PlanBase) (pl : Planner) (k : Nat) : (b.withPending pl k).fixedCounts = b.fixedCounts := by
  unfold PlanBase.withPending; split <;> rfl

/-! ## The fields of a built entry (R32) -/

/-- The METER cues that take effect at the pulse planned from b: those that wait, if it is a bar start under the meter and origin of the pulse before. -/
def Device.metersAt (d : Device) (b : PlanBase) : List Cue :=
  if isBarStart b.pi b.snap.meter b.snap.origin then d.meterCues b.pi else []

/-- The segment of the pulse planned from b, after the TEMPO cues due there, its progress not yet recorded. -/
def Device.segmentAt (d : Device) (b : PlanBase) : Segment :=
  if d.follower.state == .off then applyTempo b.pi (b.withPending d.planner d.firstSoft).snap.seg (d.globals.filter (·.tempoDue b.pi))
  else (b.withPending d.planner d.firstSoft).snap.seg

section
variable (d : Device) (b : PlanBase)

@[simp] theorem Device.buildEntry_pi : (d.buildEntry b).pi = b.pi := by
  simp only [Device.buildEntry, PlanBase.withPending_pi]

/-- Pending inputs do not change which METER cues take effect. -/
theorem Device.metersAt_withPending : d.metersAt (b.withPending d.planner d.firstSoft) = d.metersAt b := by
  simp only [Device.metersAt, PlanBase.withPending_pi, PlanBase.withPending_meter, PlanBase.withPending_origin]

@[simp] theorem Device.buildEntry_meter : (d.buildEntry b).snap.meter = applyMeter b.snap.meter (d.metersAt b) :=
  congr (congrArg applyMeter (PlanBase.withPending_meter ..)) (d.metersAt_withPending b)

@[simp] theorem Device.buildEntry_origin : (d.buildEntry b).snap.origin = if d.metersAt b = [] then b.snap.origin else b.pi :=
  ite_congr (congrArg (· = []) (d.metersAt_withPending b)) (fun _ => PlanBase.withPending_origin ..) (fun _ => PlanBase.withPending_pi ..)

@[simp] theorem Device.buildEntry_seg : (d.buildEntry b).snap.seg = (d.segmentAt b).progressed b.pi := by
  simp only [Device.buildEntry, Device.segmentAt, PlanBase.withPending_pi]

@[simp] theorem Device.buildEntry_spread :
    (d.buildEntry b).snap.spread = spreadNext (b.withPending d.planner d.firstSoft).snap.spread := rfl

@[simp] theorem Device.buildEntry_snapBalance :
    (d.buildEntry b).snap.balance = nudgeSpent (b.withPending d.planner d.firstSoft).snap.balance := rfl

@[simp] theorem Device.buildEntry_beatStart : (d.buildEntry b).beatStart = isBeatStart b.pi := by
  simp only [Device.buildEntry, PlanBase.withPending_pi]

/-- R2: the bar start flag is judged under the entry's own meter and origin. -/
theorem Device.buildEntry_barStart :
    (d.buildEntry b).barStart = isBarStart b.pi (d.buildEntry b).snap.meter (d.buildEntry b).snap.origin := by
  simp only [Device.buildEntry, PlanBase.withPending_pi]

/-- R3: unless they are fixed, the counts go on by the entry's own flags. -/
theorem Device.buildEntry_counts {b : PlanBase} (hfree : b.fixedCounts = false) :
    ((d.buildEntry b).bar, (d.buildEntry b).beat) = nextCounts (d.buildEntry b).beatStart (d.buildEntry b).barStart b.bar b.beat := by
  simp only [Device.buildEntry, PlanBase.withPending_fixedCounts, PlanBase.withPending_bar, PlanBase.withPending_beat, hfree,
    Bool.false_eq_true, if_false]

theorem Device.mem_applied_of_tempoDue {c : Cue} (hoff : d.follower.state = .off) (hc : c ∈ d.globals.filter (·.tempoDue b.pi)) :
    c.slot ∈ (d.buildEntry b).applied := by
  obtain ⟨hmem, hdue⟩ := List.mem_filter.mp hc
  refine List.mem_map.mpr ⟨c, List.mem_filter.mpr ⟨hmem, ?_⟩, rfl⟩
  simp only [PlanBase.withPending_pi, hoff, beq_self_eq_true, hdue, Bool.and_self, Bool.true_or]

theorem Device.mem_applied_of_metersAt {c : Cue} (hc : c ∈ d.metersAt b) : c.slot ∈ (d.buildEntry b).applied := by
  have hmem : c ∈ d.globals := by
    unfold Device.metersAt at hc
    split at hc
    · exact (List.mem_filter.mp hc).1
    · cases hc
  refine List.mem_map.mpr ⟨c, List.mem_filter.mpr ⟨hmem, ?_⟩, rfl⟩
  simp only [Device.metersAt] at hc
  simp only [PlanBase.withPending_pi, PlanBase.withPending_meter, PlanBase.withPending_origin, List.contains_iff_mem.mpr hc, Bool.or_true, Bool.true_or]

theorem Device.buildEntry_passed :
    (d.buildEntry b).passed = if d.follower.state == .off then [] else (d.globals.filter (·.tempoDue b.pi)).map (·.slot) := by
  simp only [Device.buildEntry, PlanBase.withPending_pi]

/-- R22, R44: the segment value of a planned pulse is that of the segment before the TEMPO cues due there. -/
theorem Device.buildEntry_segValue :
    (d.buildEntry b).segValue = (b.withPending d.planner d.firstSoft).snap.seg.value b.pi := by
  rw [PlanEntry.segValue, Device.buildEntry_seg, Device.buildEntry_pi, Segment.progressed_value, Device.segmentAt]
  split
  · exact applyTempo_value _ _ _
  · rfl

/-- R24: the period of a pulse that follows another is the one used for its segment value, share and balance. -/
theorem Device.buildEntry_period {b : PlanBase} {i : Instant} (hprev : b.prev = some i) :
    (d.buildEntry b).period = periodUsed (d.buildEntry b).segValue (b.withPending d.planner d.firstSoft).snap.spread
      (b.withPending d.planner d.firstSoft).snap.balance := by
  simp only [Device.buildEntry, PlanBase.withPending_prev, hprev]
  rfl

/-- R18: its instant is the one before it plus that period. -/
theorem Device.buildEntry_instant {b : PlanBase} {i : Instant} (hprev : b.prev = some i) :
    (d.buildEntry b).instant = i + BitVec.ofNat 64 (d.buildEntry b).period := by
  simp only [Device.buildEntry, PlanBase.withPending_prev, hprev]

end

/-! ## The parts of the obligation -/

theorem Device.metersAt_of_bar {d : Device} {b : PlanBase} (hbar : b.snap.origin ≤ b.pi ∧ (b.pi - b.snap.origin) % (b.snap.meter * 96) = 0) :
    d.metersAt b = d.meterCues b.pi := if_pos ((isBarStart_iff _ _ _).mpr hbar)

/-- No METER cue takes effect away from a bar start, nor where none waits. -/
theorem Device.metersAt_nil {d : Device} {b : PlanBase}
    (h : ¬ (b.snap.origin ≤ b.pi ∧ (b.pi - b.snap.origin) % (b.snap.meter * 96) = 0) ∨ d.meterCues b.pi = []) : d.metersAt b = [] := by
  unfold Device.metersAt
  split
  case isTrue hbar => exact h.resolve_left (not_not_intro ((isBarStart_iff _ _ _).mp hbar))
  case isFalse => rfl

/-- R45: with the follower on, or with no TEMPO cue due, the segment stays. -/
theorem Device.segmentAt_kept {d : Device} {b : PlanBase} (h : d.follower.state ≠ .off ∨ d.globals.filter (·.tempoDue b.pi) = []) :
    d.segmentAt b = (b.withPending d.planner d.firstSoft).snap.seg := by
  unfold Device.segmentAt
  split
  case isTrue hoff => rw [h.resolve_left (not_not_intro (beq_iff_eq.mp hoff))]; rfl
  case isFalse => rfl

/-- R22: with the follower OFF the last TEMPO cue due opens the segment, at the value the pulse has without it. -/
theorem Device.segmentAt_opened {d : Device} {b : PlanBase} {l : List Cue} {c : Cue} {target ramp : Nat} (hoff : d.follower.state = .off)
    (hl : d.globals.filter (·.tempoDue b.pi) = l ++ [c]) (hc : c.body = .tempo target ramp) :
    d.segmentAt b = { start := b.pi, p0 := (b.withPending d.planner d.firstSoft).snap.seg.value b.pi, p1 := target, len := ramp, k := 0 } := by
  rw [Device.segmentAt, if_pos (beq_iff_eq.mpr hoff), hl, applyTempo_concat hc, Segment.opened, applyTempo_value]

/-- R3: a count that went on by `nextCounts`, case by case. -/
theorem nextCounts_cases {beatStart barStart : Bool} {bar beat bar' beat' : Nat} (h : (bar', beat') = nextCounts beatStart barStart bar beat) :
    (barStart = true → bar' = bar + 1 ∧ beat' = 1) ∧ (barStart = false → beatStart = true → bar' = bar ∧ beat' = beat + 1) ∧
      (barStart = false → beatStart = false → bar' = bar ∧ beat' = beat) := by
  refine ⟨?_, ?_, ?_⟩
  · rintro rfl; exact Prod.mk.inj h
  · rintro rfl rfl; exact Prod.mk.inj h
  · rintro rfl rfl; exact Prod.mk.inj h

/-- Settles O38: the values of a segment, the period and instant of a pulse that follows another, and what a built entry takes from its base and its cues. -/
theorem pulsePlanned : Obligations.PulsePlanned := by
  refine ⟨fun g k => ⟨Segment.value_of_le, Segment.value_of_ramp, Segment.value_of_gt⟩, ?_, ?_⟩
  case refine_1 =>
    intro d b i hprev
    have hperiod := d.buildEntry_period hprev
    refine ⟨d.buildEntry_pi b, d.buildEntry_instant hprev, ?_, ?_, ?_, d.buildEntry_spread b, d.buildEntry_snapBalance b⟩
    · exact fun hlow => hperiod.trans (clampPeriod_of_lt hlow)
    · exact fun hhigh => hperiod.trans (clampPeriod_of_gt hhigh)
    · exact fun hlow hhigh => (congrArg Int.ofNat hperiod).trans (clampPeriod_of_mem hlow hhigh)
  case refine_2 =>
    intro d b
    have htempos : (d.globals.filter fun c => c.isTempo && c.due == b.pi) = d.globals.filter (·.tempoDue b.pi) := by
      simp only [Cue.tempoDue_eq]
    dsimp only
    rw [← d.meterCues_eq, htempos]
    refine ⟨?_, ?_, fun hfree => nextCounts_cases (d.buildEntry_counts hfree), ?_, ?_, d.buildEntry_segValue b, ?_, ?_, ?_⟩
    · rw [d.buildEntry_beatStart, isBeatStart_iff]
    · rw [d.buildEntry_barStart, isBarStart_iff]
    · intro hnone
      rw [d.buildEntry_meter, d.buildEntry_origin, Device.metersAt_nil hnone]
      exact ⟨rfl, rfl⟩
    · intro l c beats hbar hl hc
      have hat : d.metersAt b = l ++ [c] := (Device.metersAt_of_bar hbar).trans hl
      refine ⟨?_, ?_, fun x hx => d.mem_applied_of_metersAt b ((Device.metersAt_of_bar hbar).symm ▸ hx)⟩
      · rw [d.buildEntry_meter, hat, applyMeter_concat hc]
      · rw [d.buildEntry_origin, hat, if_neg (List.concat_ne_nil _ _)]
    · intro hkept
      rw [d.buildEntry_seg, Device.segmentAt_kept hkept]
      rfl
    · intro l c target ramp hoff hl hc
      refine ⟨?_, fun x hx => d.mem_applied_of_tempoDue b hoff hx, ?_⟩
      · rw [d.buildEntry_seg, Device.segmentAt_opened hoff hl hc]
        simp only [Segment.progressed, Nat.sub_self, Nat.zero_min]
      · rw [d.buildEntry_passed, if_pos (beq_iff_eq.mpr hoff)]
    · intro hon
      rw [d.buildEntry_passed, if_neg (fun h => hon (beq_iff_eq.mp h))]

end Sys2Proof.Machine
end

section
/-! PROOFS. The level mixer (Chapter 9): fade levels, the gate of Table 9-3, and output levels. -/
namespace Sys2Proof.Machine

/-! ## Fade levels (R146) -/

/-- A ramp between two values up to M stays up to M: as seen from M it is the ramp between their distances, which `ramp_nonneg` keeps from falling below 0. -/
theorem ramp_le {M p0 p1 j len : Nat} (h0 : p0 ≤ M) (h1 : p1 ≤ M) (hj : j ≤ len) :
    (p0 : Int) + (((p1 : Int) - p0) * (j : Int)).tdiv len ≤ M := by
  have hmirror : (((M - p1 : Nat) : Int) - (M - p0 : Nat)) * j = -(((p1 : Int) - p0) * j) := by
    rw [← Int.neg_mul]
    congr 1
    omega
  have hdist := ramp_nonneg (M - p0) (M - p1) j len hj
  rw [hmirror, Int.neg_tdiv] at hdist
  omega

/-- Up to the end of the fade the level fits a byte, so that nothing is cut off. -/
theorem fadeLevel_toNat (a b : Byte) {pos len : Nat} (h : pos ≤ len) :
    ((fadeLevel a b pos len).toNat : Int) = (a.toNat : Int) + (((b.toNat : Int) - a.toNat) * pos).tdiv len := by
  have hlow := ramp_nonneg a.toNat b.toNat pos len h
  have hhigh := ramp_le (M := 255) (Nat.le_of_lt_succ a.isLt) (Nat.le_of_lt_succ b.isLt) h
  rw [fadeLevel, BitVec.toNat_ofInt, Int.toNat_of_nonneg (Int.emod_nonneg _ (by decide))]
  exact Int.emod_eq_of_lt hlow (by omega)

theorem Mixer.fade_of_cut {m : Mixer} (h : m.len = 0) : m.fade = m.toL := if_pos h

theorem Mixer.getElem_fade {m : Mixer} (h : m.len ≠ 0) {c : Nat} (hc : c < 192) :
    m.fade[c] = fadeLevel m.fromL[c] m.toL[c] m.pos m.len := by
  simp only [Mixer.fade, if_neg h, Vector.getElem_mk, List.getElem_toArray, List.getElem_zipWith, Vector.getElem_toList]

/-! ## The gate (R149, Table 9-3) -/

/-- Table 9-3: how many beat positions of a beat's 96 the gate is open for, from position 0 on. -/
def Modulator.openWidth : Modulator → Nat
  | .none => 96
  | .blink => 48
  | .pulse4 => 24
  | .pulse8 => 12
  | .pulse16 => 6

theorem Modulator.gateOpen_iff (m : Modulator) {position : Nat} (h : position < 96) :
    m.gateOpen position = true ↔ position < m.openWidth := by
  cases m with
  | none => exact iff_of_true rfl h
  | blink | pulse4 | pulse8 | pulse16 => exact decide_eq_true_iff

/-- R149: the gate is judged at the last reached pulse, and is open while there is none. -/
theorem Mixer.gate_closed_iff (m : Mixer) :
    m.gate = false ↔ ∃ k, m.reached = some k ∧ m.modulator.openWidth ≤ k % 96 := by
  unfold Mixer.gate
  split
  case h_1 hnone => simp only [hnone, reduceCtorEq, false_and, exists_false]
  case h_2 k hsome =>
    have hopen := m.modulator.gateOpen_iff (Nat.mod_lt k (show 0 < 96 by decide))
    rw [← Bool.not_eq_true, hopen, Nat.not_lt]
    simp only [hsome, Option.some.injEq, exists_eq_left']

theorem Mixer.gated_iff (m : Mixer) (c : Nat) :
    m.gated c = true ↔ m.modulator ≠ .none ∧ m.first ≤ c ∧ c ≤ m.last ∧ ∃ k, m.reached = some k ∧ m.modulator.openWidth ≤ k % 96 := by
  simp only [Mixer.gated, Bool.and_eq_true, bne_iff_ne, decide_eq_true_eq, Bool.not_eq_true', m.gate_closed_iff, and_assoc]

/-! ## Output levels (R149) -/

theorem Mixer.getElem_output (m : Mixer) {c : Nat} (hc : c < 192) : m.output[c] = if m.gated c then 0 else m.fade[c] := by
  simp only [Mixer.output, Vector.getElem_mk, List.getElem_toArray, List.getElem_map, List.getElem_zipIdx, Vector.getElem_toList, Nat.zero_add]

/-- Settles O53: the output level by the gate, and the fade level of a cut and of a fade under way. -/
theorem outputLevels : Obligations.OutputLevels := by
  intro m c hc
  refine ⟨fun hgated => ?_, fun hfree => ?_, fun hcut => ?_, fun hfade hpos => ?_⟩
  · rw [m.getElem_output hc, if_pos ((m.gated_iff c).mpr hgated)]
  · rw [m.getElem_output hc, if_neg (fun hgated => hfree ((m.gated_iff c).mp hgated))]
  · simp only [Mixer.fade_of_cut hcut]
  · rw [Mixer.getElem_fade hfade hc, fadeLevel_toNat _ _ hpos]

end Sys2Proof.Machine
end

section
/-! PROOFS. The fault capture record (Chapter 11): what empties it, what fills it, and what leaves it as it is, a soft restart included. -/
namespace Sys2Proof.Machine

/-! ## CAPTURE_RELEASE and the next fault (R175, R176) -/

@[simp] theorem Device.captureRelease_capture (d : Device) : d.captureRelease.capture = none := by
  unfold Device.captureRelease
  split
  case h_1 hempty => exact hempty
  case h_2 => rw [Device.requestStatus_capture]

theorem Device.captureRelease_of_empty {d : Device} (h : d.capture = none) : d.captureRelease = d := by
  simp only [Device.captureRelease, h]

theorem Device.captureRelease_of_filled {d : Device} {r : FaultRecord} (h : d.capture = some r) :
    d.captureRelease = ({ d with capture := none } : Device).requestStatus := by
  simp only [Device.captureRelease, h]

theorem Device.captureFault_capture_of_empty {d : Device} (h : d.capture = none) (k : FaultKind) (port slot : Option Nat) :
    (d.captureFault k port slot).capture = some { kind := k, port := port, slot := slot, pi := d.currentPI, time := d.time, more := 0 } := by
  simp only [Device.captureFault, h, Device.requestStatus_capture, Device.latch_capture]

/-! ## Operations that leave the record -/

@[simp] theorem Device.setMode_capture (d : Device) (m : DeviceMode) : (d.setMode m).capture = d.capture := by
  simp only [Device.setMode, Device.requestStatus_capture, Device.latch_capture]

@[simp] theorem Device.houseClear_capture (d : Device) : d.houseClear.capture = d.capture := by
  unfold Device.houseClear
  split
  case isTrue => exact Device.setMode_capture d _
  case isFalse => rfl

/-- Where no host access waits at the arbiter before the operation, none waits after it, and the capture record is as it was. A host access let in between could itself report a fault. -/
def CaptureStays (d e : Device) : Prop := d.arbiter = [] → e.arbiter = [] ∧ e.capture = d.capture

theorem CaptureStays.refl (d : Device) : CaptureStays d d := fun h => ⟨h, rfl⟩

theorem CaptureStays.trans {d e f : Device} (a : CaptureStays d e) (b : CaptureStays e f) : CaptureStays d f := by
  intro h
  obtain ⟨hquiet, hde⟩ := a h
  obtain ⟨hquiet', hef⟩ := b hquiet
  exact ⟨hquiet', hef.trans hde⟩

theorem CaptureStays.ite {d a b : Device} {c : Prop} [Decidable c] (ha : CaptureStays d a) (hb : CaptureStays d b) :
    CaptureStays d (if c then a else b) := by
  split <;> assumption

theorem CaptureStays.foldl {α : Type} {f : Device → α → Device} (h : ∀ d a, CaptureStays d (f d a)) :
    ∀ (l : List α) (d : Device), CaptureStays d (l.foldl f d)
  | [], d => CaptureStays.refl d
  | a :: l, d => (h d a).trans (CaptureStays.foldl h l (f d a))

/-- An operation that touches neither the arbiter nor the record. -/
theorem CaptureStays.of_eq {d e : Device} (ha : e.arbiter = d.arbiter) (hc : e.capture = d.capture) : CaptureStays d e :=
  fun h => ⟨ha.trans h, hc⟩

theorem CaptureStays.requestStatus (d : Device) : CaptureStays d d.requestStatus := .of_eq (by simp) (by simp)

theorem CaptureStays.setMode (d : Device) (m : DeviceMode) : CaptureStays d (d.setMode m) :=
  .of_eq (by simp [Device.setMode]) (by simp)

theorem CaptureStays.poke (d : Device) (a n v : Nat) : CaptureStays d (d.poke a n v) :=
  fun h => ⟨Device.poke_arbiter h a n v, Device.poke_capture h a n v⟩

theorem CaptureStays.endCue (d : Device) (c : Cue) (st : Nat) (r : Reason) (k : Nat) (t : Time) : CaptureStays d (d.endCue c st r k t) :=
  fun h => ⟨Device.finishSlot_arbiter h _ _ _, Device.finishSlot_capture h _ _ _⟩

/-! ## The status write under way (R163) -/

theorem CaptureStays.statusAccess (d : Device) (n : Nat) : CaptureStays d (d.statusAccess n) := by
  unfold Device.statusAccess
  split
  case h_1 => exact .poke d _ _ _
  case h_2 =>
    split
    case h_1 => exact .poke d _ _ _
    case h_2 => exact .poke d _ _ _

theorem CaptureStays.endWrite (d : Device) : CaptureStays d d.endWrite := .ite (.of_eq rfl rfl) (.of_eq rfl rfl)

theorem CaptureStays.statusStep (d : Device) : CaptureStays d d.statusStep := by
  unfold Device.statusStep
  split
  case h_1 => exact .refl d
  case h_2 w _ =>
    have haccess : CaptureStays d { d.statusAccess w.made with writer := some { w with made := w.made + 1 } } :=
      (CaptureStays.statusAccess d _).trans (.of_eq rfl rfl)
    exact .ite (haccess.trans (.endWrite _)) haccess

theorem CaptureStays.statusRun : ∀ (n : Nat) (d : Device), CaptureStays d (Device.statusRun n d)
  | 0, d => .refl d
  | n + 1, d => (CaptureStays.statusStep d).trans (CaptureStays.statusRun n _)

theorem CaptureStays.finishWrite (d : Device) : CaptureStays d d.finishWrite := by
  unfold Device.finishWrite
  split
  case h_1 => exact .statusRun _ d
  case h_2 => exact .refl d

/-! ## Soft restart (R174) -/

theorem CaptureStays.cancelSlot (d : Device) (r : Reason) (n : Nat) : CaptureStays d (d.cancelSlot r n) := by
  have hleave : ∀ (e : Device) (c : Cue) (k : Nat), e.arbiter = d.arbiter → e.capture = d.capture →
      CaptureStays d (e.endCue c stCancelled r k d.time) :=
    fun e c k ha hc => (CaptureStays.of_eq ha hc).trans (.endCue e c _ _ _ _)
  unfold Device.cancelSlot
  split
  case h_1 => exact .refl d
  case h_2 => exact hleave _ _ _ rfl rfl
  case h_3 => exact hleave _ _ _ rfl rfl
  case h_4 =>
    split
    case h_1 => exact .refl d
    case h_2 => exact hleave _ _ _ rfl rfl

theorem CaptureStays.cancelSlots (d : Device) (r : Reason) (l : List Nat) : CaptureStays d (d.cancelSlots r l) :=
  .foldl (fun d n => .cancelSlot d r n) _ d

theorem CaptureStays.restartTransport (d : Device) : CaptureStays d d.restartTransport := by
  have hstop : CaptureStays d (d.setTransport .stopped) := .ite (.refl d) (.of_eq (by simp) (by simp))
  exact hstop.trans (.of_eq rfl rfl)

theorem CaptureStays.pump (d : Device) (p : PortIx) : CaptureStays d (d.pump p) := .ite (.refl d) (.of_eq rfl rfl)

theorem CaptureStays.restartPort (run : Bool) (d : Device) (p : PortIx) : CaptureStays d (Device.restartPort run d p) := by
  have hport : CaptureStays d ((d.modPort p fun x => x.restarted d.keep run d.time).pump p) :=
    CaptureStays.trans (.of_eq rfl rfl) (CaptureStays.pump (d.modPort p fun x => x.restarted d.keep run d.time) p)
  exact .ite hport (hport.trans (.requestStatus _))

theorem CaptureStays.setFollower (d : Device) (st : FollowerState) : CaptureStays d (d.setFollower st) :=
  .ite (.refl d) (.of_eq (by simp) (by simp))

theorem CaptureStays.restartFollower (d : Device) : CaptureStays d d.restartFollower :=
  CaptureStays.trans (.of_eq rfl rfl) (CaptureStays.setFollower { d with follower := d.follower.restarted d.keep } _)

theorem CaptureStays.restartIntake (d : Device) : CaptureStays d d.restartIntake :=
  .ite (.of_eq (by simp) (by simp)) (.of_eq rfl rfl)

/-- No block's part in a soft restart fills or empties the record. -/
theorem CaptureStays.restart (d : Device) : CaptureStays d d.restart := by
  unfold Device.restart
  dsimp only
  refine .trans ?_ (.restartIntake _)
  refine .trans ?_ (.restartFollower _)
  refine .trans ?_ (.foldl (CaptureStays.restartPort _) allPorts _)
  refine .trans ?_ (.restartTransport _)
  refine .trans ?_ (.cancelSlots _ _ _)
  refine .trans ?_ (.setMode _ _)
  exact (CaptureStays.finishWrite d).trans (.of_eq rfl rfl)

/-! ## A CONTROL write carrying CAPTURE_RELEASE (R165) -/

/-- The part with the enables that a CONTROL word carries. -/
def Device.withEnables (d : Device) (w : Word) : Device := { d with runEnable := wordBit w 0, attnEnable := w.extractLsb' 1 6 }

theorem Device.controlEnables_of_stays {d : Device} {w : Word} (h : wordBit w 0 = true → d.mode ≠ .init) :
    d.controlEnables w = d.withEnables w :=
  if_neg fun hleave => h hleave.1 hleave.2

theorem Device.controlEnables_arbiter {d : Device} (h : d.arbiter = []) (w : Word) : (d.controlEnables w).arbiter = [] := by
  unfold Device.controlEnables
  split
  case isTrue => exact (Keeps.leaveInit _).arbiter h
  case isFalse => exact h

/-- What the write leaves before its RESTART: the enables, the release, HOUSE_CLEAR. -/
def Device.released (d : Device) (w : Word) : Device :=
  if wordBit w 9 then (d.controlEnables w).captureRelease.houseClear else (d.controlEnables w).captureRelease

theorem Device.released_capture (d : Device) (w : Word) : (d.released w).capture = none := by
  unfold Device.released
  split <;> simp

theorem Device.released_arbiter {d : Device} (h : d.arbiter = []) (w : Word) : (d.released w).arbiter = [] := by
  have hrelease : (d.controlEnables w).captureRelease.arbiter = [] :=
    (Keeps.captureRelease (n := 0) _).arbiter (Device.controlEnables_arbiter h w)
  unfold Device.released
  split
  case isTrue => exact (Keeps.houseClear _).arbiter hrelease
  case isFalse => exact hrelease

/-- The bit of CAPTURE_RELEASE changes nothing of the enables, HOUSE_CLEAR and RESTART that a word carries. -/
theorem Device.controlWrite_release (d : Device) (w : Word) :
    d.controlWrite (w ||| 0x400) = if wordBit w 8 then (d.released w).restart else d.released w := by
  have hactions : wordBit (w ||| 0x400) 10 = true ∧ wordBit (w ||| 0x400) 9 = wordBit w 9 ∧ wordBit (w ||| 0x400) 8 = wordBit w 8 := by
    simp [wordBit]
  have henables : d.controlEnables (w ||| 0x400) = d.controlEnables w := by
    simp [Device.controlEnables, wordBit, BitVec.extractLsb'_or]
  obtain ⟨hrelease, hclear, hrestart⟩ := hactions
  simp only [Device.controlWrite, Device.released, henables, hrelease, hclear, hrestart, if_true]

theorem Device.controlWrite_release_capture {d : Device} {w : Word} (h : wordBit w 8 = false ∨ d.arbiter = []) :
    (d.controlWrite (w ||| 0x400)).capture = none := by
  rw [Device.controlWrite_release]
  split
  case isTrue hrestart =>
    have hquiet : d.arbiter = [] := h.resolve_left (by simp [hrestart])
    obtain ⟨-, hstays⟩ := CaptureStays.restart _ (Device.released_arbiter hquiet w)
    exact hstays.trans (Device.released_capture d w)
  case isFalse => exact Device.released_capture d w

/-- With no other action carried, and INIT not left, the write is the enables and the release. -/
theorem Device.controlWrite_release_alone {d : Device} {w : Word} (h8 : wordBit w 8 = false) (h9 : wordBit w 9 = false)
    (h0 : wordBit w 0 = true → d.mode ≠ .init) :
    d.controlWrite (w ||| 0x400) = (d.withEnables w).captureRelease := by
  simp only [Device.controlWrite_release, Device.released, h8, h9, Device.controlEnables_of_stays h0, Bool.false_eq_true, if_false]

/-! ## The command -/

theorem exec_captureRelease (w : Word) (s : State) : exec (.captureRelease w) s = s.act fun d => d.controlWrite (w ||| 0x400) := rfl

/-- The part with these host accesses waiting at the arbiter, as `State.act` hands it to an operation. -/
def Device.withArbiter (d : Device) (l : List WaitingAccess) : Device := { d with arbiter := l }

/-- R156: an operation that makes no access to the exchange memory lets none of the waiting host accesses in, so that the command does the operation and nothing else. -/
theorem State.act_of_noAccess {s : State} {f : Device → Device} {g : Device} (hg : g.arbiter = s.arbiter)
    (hf : f (s.toDevice.withArbiter s.presented) = g.withArbiter s.presented) : s.act f = .next { s with toDevice := g } := by
  unfold Device.withArbiter at hf
  simp only [State.act, hf, Nat.sub_self, Nat.add_zero, ← hg]

@[simp] theorem Device.captureRelease_arbiter (d : Device) : d.captureRelease.arbiter = d.arbiter := by
  unfold Device.captureRelease
  split
  case h_1 => rfl
  case h_2 => rw [Device.requestStatus_arbiter]

theorem Device.requestStatus_withArbiter (d : Device) (l : List WaitingAccess) :
    (d.withArbiter l).requestStatus = d.requestStatus.withArbiter l := by
  simp only [Device.requestStatus, Device.withArbiter]
  cases d.writer <;> rfl

/-- The release does not look at the arbiter. -/
theorem Device.captureRelease_withArbiter (d : Device) (l : List WaitingAccess) :
    (d.withArbiter l).captureRelease = d.captureRelease.withArbiter l := by
  cases h : d.capture with
  | none => rw [Device.captureRelease_of_empty h, Device.captureRelease_of_empty (show (d.withArbiter l).capture = none from h)]
  | some r =>
    rw [Device.captureRelease_of_filled h, Device.captureRelease_of_filled (show (d.withArbiter l).capture = some r from h)]
    exact Device.requestStatus_withArbiter { d with capture := none } l

/-- With no other action carried, and INIT not left, the command does the enables and the release, whatever waits at the arbiter. -/
theorem exec_captureRelease_alone {w : Word} {s : State} (h8 : wordBit w 8 = false) (h9 : wordBit w 9 = false)
    (h0 : wordBit w 0 = true → s.mode ≠ .init) :
    exec (.captureRelease w) s = .next { s with toDevice := (s.toDevice.withEnables w).captureRelease } := by
  rw [exec_captureRelease]
  refine State.act_of_noAccess (Device.captureRelease_arbiter (s.toDevice.withEnables w)) ?_
  exact (Device.controlWrite_release_alone (d := s.toDevice.withArbiter s.presented) h8 h9 h0).trans
    (Device.captureRelease_withArbiter (s.toDevice.withEnables w) s.presented)

/-- Settles O13: what the release leaves of the record, the whole effect of a write with no other action, and the next fault. -/
theorem captureRelease : Obligations.CaptureRelease := by
  refine ⟨fun w s h => ?_, fun w s h8 h9 h0 => ⟨fun r hfilled => ?_, fun hempty => ?_⟩, fun d k port slot hempty => ?_⟩
  · exact ⟨_, exec_captureRelease w s, Device.controlWrite_release_capture h⟩
  · rw [exec_captureRelease_alone h8 h9 h0, Device.captureRelease_of_filled (d := s.toDevice.withEnables w) hfilled]
    rfl
  · rw [exec_captureRelease_alone h8 h9 h0, Device.captureRelease_of_empty (d := s.toDevice.withEnables w) hempty]
    rfl
  · exact Device.captureFault_capture_of_empty hempty k port slot

end Sys2Proof.Machine
end

section
/-! PROOFS. What a command is to the part: its operation, what `State.act` makes of it, and what every step keeps: the invariants, device time, latched causes. -/
namespace Sys2Proof.Machine

/-! ## The operation of a command -/

/-- What a command does to the part, apart from the host accesses that `State.act` presents to it. -/
def operationOf : Instr → Device → Device
  | .powerOn, d => d.powerUp
  | .hardReset, d => d.powerUp
  | .hostSlotWrite size addr data, d => d.present size addr data
  | .statusProtect size addr data, d => d.present size addr data
  | .finishedMapWrite size addr data, d => d.present size addr data
  | .runEnable control, d => d.controlWrite control
  | .attnEnable control, d => d.controlWrite control
  | .captureRelease control, d => d.controlWrite (control ||| 0x400)
  | .houseClear control, d => d.controlWrite (control ||| 0x200)
  | .restart control, d => d.controlWrite (control ||| 0x100)
  | .attnRead, d => d.attnRead
  | .service data, d => d.serviceWrite data
  | .nudge data, d => d.nudge data
  | .registerWriteDiscarded size offset data, d => d.registerWrite size offset data
  | .noticeDiscarded, d => d.discardNotice
  | .sweep visits, d => Device.visits visits d
  | .badKind, d => d.takeNext .badKind TakeRow.badKind.effect
  | .tempo, d => d.takeNext .tempo TakeRow.tempo.effect
  | .meter, d => d.takeNext .meter TakeRow.meter.effect
  | .transportStart, d => d.takeNext .transportStart TakeRow.transportStart.effect
  | .transportContinue, d => d.takeNext .transportContinue TakeRow.transportContinue.effect
  | .transportStop, d => d.takeNext .transportStop TakeRow.transportStop.effect
  | .send, d => d.takeNext .send TakeRow.send.effect
  | .portRun, d => d.takeNext .portRun TakeRow.portRun.effect
  | .scene, d => d.takeNext .scene TakeRow.scene.effect
  | .sceneHouse, d => d.takeNext .sceneHouse TakeRow.sceneHouse.effect
  | .cancelBySlot, d => d.takeNext .cancelBySlot TakeRow.cancelBySlot.effect
  | .cancelBySelector, d => d.takeNext .cancelBySelector TakeRow.cancelBySelector.effect
  | .amend, d => d.takeNext .amend TakeRow.amend.effect
  | .report, d => d.takeNext .report TakeRow.report.effect
  | .portSetup, d => d.takeNext .portSetup TakeRow.portSetup.effect
  | .followSetup, d => d.takeNext .followSetup TakeRow.followSetup.effect
  | .supervise, d => d.takeNext .supervise TakeRow.supervise.effect
  | .keep, d => d.takeNext .keep TakeRow.keep.effect
  | .planExtension, d => d.extend
  | .referenceCursorReach, d => d.tryCursorReach
  | .portReach port, d => d.tryReach port
  | .beatMark input, d => d.beatEdge input
  | .rawPresenceChange port level, d => d.rawChange port level
  | .presenceRecognized port, d => if d.presenceDue port then d.recognize port else d
  | .flapEntryAged port, d => if d.flapDue port then d.ageFlaps port else d
  | .serviceTimeout, d => d.serviceTimeout
  | .carryTimerExpiry, d => d.carryExpires
  | .levelFrameBegin port, d => if d.frameDue port then d.beginFrame port else d
  | .characterEnd port, d => if d.characterDue port then d.characterEnds port else if d.linkFree port then (d.choose port).waitingFrame port else d
  | .clockPhaseEnd port, d => if d.phaseDue port then d.modPort port fun x => { x with clock := x.clock.phaseEnd d.time x.settings.negative } else d
  | .clockLeadIn port, d => d.tryClockLeadIn port
  | .resetPulseEnd port, d => if d.pulseDue port then d.modPort port fun x => { x with clock := x.clock.pulseEnd d.time } else d
  | .stepLeadIn port, d => (d.tryStepLeadIn port).pump port
  | .stepResumeForm port, d => (d.tryResumeForm port).pump port
  | .statusWrite accesses, d => Device.statusRun accesses d
  | .lowGapEnd port, d => if d.gapDue port then d.modPort port fun x => { x with clock := x.clock.gapEnd d.time } else d
  | .closedPhaseEnd, d => d.closedEnds

/-- The commands between whose effects no host access falls. -/
def isAlone : Instr → Bool
  | .powerOn | .hardReset | .hostSlotWrite .. | .statusProtect .. | .finishedMapWrite .. => true
  | _ => false

theorem exec_eq (c : Instr) (s : State) : exec c s = if isAlone c then s.actAlone (operationOf c) else s.act (operationOf c) := by
  cases c <;> rfl

/-- The part with the host accesses presented together with the command now taken. -/
def State.presenting (s : State) : Device := s.toDevice.withArbiter s.presented

/-- What `State.act` leaves of an operation's result e: the accesses served are noted, and none waits any more. -/
def State.noted (s : State) (e : Device) : Device :=
  { e with
    arbiter := s.arbiter
    ahead := e.ahead + (s.presented.length - e.arbiter.length)
    turns := e.turns + (s.presented.length - e.arbiter.length) }

theorem State.act_eq (s : State) (f : Device → Device) : s.act f = .next { s with toDevice := s.noted (f s.presenting) } := rfl

/-- What any command leaves is its operation's result, but for the registers of the arbiter. -/
theorem exec_cases {c : Instr} {s t : State} (h : exec c s = .next t) :
    (isAlone c = true ∧ t = { s with toDevice := operationOf c s.toDevice }) ∨
      (isAlone c = false ∧ t = { s with toDevice := s.noted (operationOf c s.presenting) }) := by
  rw [exec_eq] at h
  split at h
  case isTrue hc => exact .inl ⟨hc, (Host.Outcome.next.inj h).symm⟩
  case isFalse hc => exact .inr ⟨by simpa using hc, (Host.Outcome.next.inj h).symm⟩

/-! ## While no host access is presented -/

theorem State.Quiet.presenting_eq {s : State} (h : s.Quiet) : s.presenting = s.toDevice := by
  obtain ⟨hpresented, hwaiting⟩ := h
  simp only [State.presenting, Device.withArbiter, hpresented, ← hwaiting]

theorem State.Quiet.noted_eq {s : State} (h : s.Quiet) {e : Device} (he : e.arbiter = []) : s.noted e = e := by
  obtain ⟨hpresented, hwaiting⟩ := h
  simp only [State.noted, hpresented, hwaiting, he, List.length_nil, Nat.sub_self, Nat.add_zero]
  rw [← he]

/-- With no access presented a command is its operation on the part as it stands. -/
theorem State.Quiet.act_eq {s : State} (h : s.Quiet) {f : Device → Device} (hf : (f s.toDevice).arbiter = []) :
    s.act f = .next { s with toDevice := f s.toDevice } := by
  rw [State.act_eq, h.presenting_eq, h.noted_eq hf]

theorem exec_noted {c : Instr} (hc : isAlone c = false) (s : State) :
    exec c s = .next { s with toDevice := s.noted (operationOf c s.presenting) } := by
  rw [exec_eq, hc]
  rfl

/-- A command whose operation does nothing leaves the state as it was, whatever is presented. -/
theorem exec_of_noEffect {c : Instr} {s : State} (hc : isAlone c = false) (h : operationOf c s.presenting = s.presenting) :
    exec c s = .next s := by
  rw [exec_noted hc, h]
  simp only [State.noted, State.presenting, Device.withArbiter, Nat.sub_self, Nat.add_zero]

theorem exec_of_quiet {c : Instr} {s : State} (hs : s.Quiet) (hc : isAlone c = false) (h : (operationOf c s.toDevice).arbiter = []) :
    exec c s = .next { s with toDevice := operationOf c s.toDevice } := by
  rw [exec_noted hc, hs.presenting_eq, hs.noted_eq h]

theorem State.Quiet.idle {s : State} (h : s.Quiet) : s.arbiter = [] := h.2

/-! ## Invariants (R159, R18, R24, R49) -/

theorem Safe.present (d : Device) (size : AccessSize) (addr data : Word) : Safe d (d.present size addr data) := by
  unfold Device.present
  exact Safe.ite (Safe.hostWrite d size addr data) { Safe.refl d with }

theorem Safe.operationOf (c : Instr) (d : Device) : Safe d (operationOf c d) := by
  cases c
  case powerOn | hardReset => exact Safe.powerUp d
  case hostSlotWrite | statusProtect | finishedMapWrite => exact Safe.present d _ _ _
  case runEnable | attnEnable | captureRelease | houseClear | restart => exact Safe.controlWrite d _
  case attnRead => exact Safe.attnRead d
  case service => exact (Keeps.serviceWrite d _).safe
  case nudge => exact (Keeps.nudge d _).safe
  case registerWriteDiscarded => exact Safe.registerWrite d _ _ _
  case noticeDiscarded => exact Safe.discardNotice d
  case sweep visits => exact Safe.visits visits d
  case planExtension => exact (Keeps.extend d).safe
  case referenceCursorReach => exact (Keeps.tryCursorReach d).safe
  case portReach => exact (Keeps.tryReach d _).safe
  case beatMark => exact (Keeps.beatEdge d _).safe
  case rawPresenceChange => exact (Keeps.rawChange (n := 0) d _ _).safe
  case presenceRecognized => exact Safe.ite (Keeps.recognize d _).safe (Safe.refl d)
  case flapEntryAged => exact Safe.ite (Keeps.ageFlaps (n := 0) d _).safe (Safe.refl d)
  case serviceTimeout => exact (Keeps.serviceTimeout d).safe
  case carryTimerExpiry => exact (Keeps.carryExpires d).safe
  case levelFrameBegin => exact Safe.ite (Keeps.beginFrame (n := 0) d _).safe (Safe.refl d)
  case characterEnd =>
    exact Safe.ite (Keeps.characterEnds (n := 0) d _).safe
      (Safe.ite ((Keeps.choose (n := 0) d _).trans (Keeps.waitingFrame _ _)).safe (Safe.refl d))
  case clockPhaseEnd => exact Safe.ite (Keeps.phaseEnd (n := 0) d _ _).safe (Safe.refl d)
  case clockLeadIn => exact (Keeps.tryClockLeadIn (n := 0) d _).safe
  case resetPulseEnd => exact Safe.ite (Keeps.pulseEnd (n := 0) d _ _).safe (Safe.refl d)
  case stepLeadIn => exact ((Keeps.tryStepLeadIn (n := 0) d _).trans (Keeps.pump _ _)).safe
  case stepResumeForm => exact ((Keeps.tryResumeForm (n := 0) d _).trans (Keeps.pump _ _)).safe
  case statusWrite accesses => exact (Keeps.statusRun (m := 0) accesses d).safe
  case lowGapEnd => exact Safe.ite (Keeps.gapEnd (n := 0) d _ _).safe (Safe.refl d)
  case closedPhaseEnd => exact (Keeps.closedEnds d).safe
  all_goals exact Safe.takeNext d _

/-- The registers of the arbiter are in no invariant. -/
theorem Safe.noted {s : State} {e : Device} (h : Safe s.presenting e) : Safe s.toDevice (s.noted e) :=
  ⟨h.mem, h.noticesOk, h.plan, h.balance, h.follow, h.settings, h.links⟩

theorem exec_safe {c : Instr} {s t : State} (h : exec c s = .next t) : Safe s.toDevice t.toDevice := by
  rcases exec_cases h with ⟨-, rfl⟩ | ⟨-, rfl⟩
  · exact Safe.operationOf c _
  · exact Safe.noted (Safe.operationOf c _)

/-! ## One step -/

/-- What a step can be: a command of the queue, an event of the part's own, or one microsecond (log 1). -/
theorem step_cases {s t : State} (h : step s = .next t) :
    (∃ c u, u.toDevice = s.toDevice ∧ exec c u = .next t) ∨ t.toDevice = s.toDevice.tick := by
  unfold step at h
  split at h
  case h_1 c q _ => exact .inl ⟨c, s.rest q, rfl, h⟩
  case h_2 =>
    split at h
    case h_1 c _ => exact .inl ⟨c, s.chosen, rfl, h⟩
    case h_2 => exact .inr (by rw [← Host.Outcome.next.inj h])

theorem step_safe {s t : State} (h : step s = .next t) : Safe s.toDevice t.toDevice := by
  rcases step_cases h with ⟨c, u, hu, hexec⟩ | ht
  · rw [← hu]
    exact exec_safe hexec
  · rw [ht]
    exact Safe.tick _

/-- Settles O59: every operation keeps the canonical form, and the tick leaves the memory alone. -/
theorem stepKeepsMemory : Obligations.StepKeepsMemory := fun _ _ hmem hstep => (step_safe hstep).mem hmem

/-! ## The arbiter between commands (log 38) -/

theorem Device.landSlot_arbiter (d : Device) (a : Nat) (l : List Byte) : (d.landSlot a l).arbiter = d.arbiter := by
  unfold Device.landSlot
  split
  · split <;> rfl
  · rfl

theorem Device.giveBack_arbiter (d : Device) (n : Nat) : (d.giveBack n).arbiter = d.arbiter := by
  unfold Device.giveBack
  repeat' split
  all_goals rfl

theorem Device.offer_arbiter (d : Device) (n : Nat) : (d.offer n).arbiter = d.arbiter := by
  unfold Device.offer Device.overflowNotice
  repeat' split
  all_goals simp

theorem Device.slotWrite_arbiter (d : Device) (a : Nat) (l : List Byte) : (d.slotWrite a l).arbiter = d.arbiter := by
  unfold Device.slotWrite
  dsimp only
  repeat' split
  all_goals simp [Device.offer_arbiter, Device.giveBack_arbiter, Device.landSlot_arbiter]

theorem Device.hostWrite_arbiter (d : Device) (size : AccessSize) (addr data : Word) : (d.hostWrite size addr data).arbiter = d.arbiter := by
  unfold Device.hostWrite
  split
  case h_1 => exact Device.captureFault_arbiter d _ _ _
  case h_2 => rfl
  case h_3 => exact Device.slotWrite_arbiter d _ _
  case h_4 => rfl

theorem Device.present_arbiter (d : Device) (size : AccessSize) (addr data : Word) : (d.present size addr data).arbiter = d.arbiter := by
  unfold Device.present
  split
  case isTrue => exact Device.hostWrite_arbiter d _ _ _
  case isFalse => rfl

theorem operationOf_arbiter {c : Instr} (hc : isAlone c = true) {d : Device} (h : d.arbiter = []) : (operationOf c d).arbiter = [] := by
  cases c
  case powerOn | hardReset => rfl
  case hostSlotWrite | statusProtect | finishedMapWrite => exact (Device.present_arbiter d _ _ _).trans h
  all_goals exact absurd hc Bool.false_ne_true

theorem exec_arbiter {c : Instr} {s t : State} (h : exec c s = .next t) (hs : s.arbiter = []) : t.arbiter = [] := by
  rcases exec_cases h with ⟨hc, rfl⟩ | ⟨-, rfl⟩
  · exact operationOf_arbiter hc hs
  · exact hs

theorem step_arbiter {s t : State} (h : step s = .next t) (hs : s.arbiter = []) : t.arbiter = [] := by
  rcases step_cases h with ⟨c, u, hu, hexec⟩ | ht
  · exact exec_arbiter hexec (by rw [hu]; exact hs)
  · rw [ht]
    exact hs

/-- Settles O60: every operation keeps each bound, by the relation `Safe`, and serves or puts back what waits at the arbiter. -/
theorem stepKeepsRecords : Obligations.StepKeepsRecords := by
  intro s t hstep
  have h := step_safe hstep
  exact ⟨h.noticesOk, h.plan, h.balance, h.follow, h.settings, h.links, step_arbiter hstep⟩

/-! ## The step and its choices (log 1, 2) -/

/-- Settles O2: the front command is taken off the queue and run. -/
theorem stepRunsFrontCommand : Obligations.StepRunsFrontCommand := fun _ _ _ => rfl

/-- Settles O4: an operation touches the part alone, alone in its turn or with host accesses presented. -/
theorem everyCommandCompletes : Obligations.EveryCommandCompletes := by
  intro c s
  rw [exec_eq]
  split
  case isTrue => exact ⟨_, rfl⟩
  case isFalse => exact ⟨_, rfl⟩

theorem pickIdle_mem {n : Nat} {l : List (Option Instr)} {c : Instr} (h : pickIdle n l = some c) : some c ∈ l := by
  unfold pickIdle at h
  split at h
  case h_1 x => rw [h]; exact List.mem_singleton_self _
  case h_2 =>
    split at h
    case h_1 x hget => rw [← h]; exact List.mem_of_getElem? hget
    case h_2 => cases h

/-- A choice among events that are all due is one of them. -/
theorem pickIdle_of_due {n : Nat} {l : List Instr} (hl : l ≠ []) : ∃ c ∈ l, pickIdle n (l.map some) = some c := by
  have hlen : 0 < l.length := List.length_pos_iff.mpr hl
  have hix : Config.idleOrder n % (l.map some).length < l.length := by
    rw [List.length_map]
    exact Nat.mod_lt _ hlen
  unfold pickIdle
  split
  case h_1 x hx =>
    obtain ⟨c, rfl, rfl⟩ := List.map_eq_singleton_iff.mp hx
    exact ⟨c, List.mem_singleton_self c, rfl⟩
  case h_2 =>
    rw [List.getElem?_map, List.getElem?_eq_getElem hix]
    exact ⟨_, List.getElem_mem hix, rfl⟩

theorem Device.idleChoices_of_due {d : Device} (h : d.timedDue ≠ []) : d.idleChoices = d.timedDue.map some := by
  unfold Device.idleChoices
  split
  case h_1 hnil => exact absurd hnil h
  case h_2 => rfl

theorem Device.idleChoices_of_none {d : Device} (h : d.timedDue = []) : d.idleChoices = none :: (d.intakeWork ++ d.writerWork).map some := by
  rw [Device.idleChoices, h]

/-- An idle step takes a due event before any work of the intake unit or the status writer. -/
theorem State.idlePick_mem {s : State} {c : Instr} (h : s.idlePick = some c) :
    c ∈ s.timedDue ∨ s.timedDue = [] ∧ c ∈ s.intakeWork ++ s.writerWork := by
  have hmem := pickIdle_mem h
  by_cases hdue : s.timedDue = []
  · rw [Device.idleChoices_of_none hdue] at hmem
    exact .inr ⟨hdue, by simpa using hmem⟩
  · rw [Device.idleChoices_of_due hdue] at hmem
    exact .inl (by simpa using hmem)

theorem State.timedDue_of_idlePick_none {s : State} (h : s.idlePick = none) : s.timedDue = [] := by
  refine Classical.byContradiction fun hdue => ?_
  obtain ⟨c, -, hc⟩ := pickIdle_of_due (n := s.choices) hdue
  rw [State.idlePick, Device.idleChoices_of_due hdue, hc] at h
  cases h

/-- Settles O3: the two branches of a step with an empty queue, and what a choice can be. -/
theorem idleStep : Obligations.IdleStep := by
  intro s hpending
  refine ⟨fun c hc => ⟨?_, State.idlePick_mem hc⟩, fun hnone => ⟨State.timedDue_of_idlePick_none hnone, ?_⟩⟩
  · simp only [step, hpending, hc, State.chosen]
  · simp only [step, hpending, hnone, State.chosen, Device.tick]

/-! ## Device time and latched causes (R166, log 21) -/

/-- Device time stands still, and causes are only added. -/
structure Passing (d e : Device) : Prop where
  time : e.time = d.time
  attn : ∃ x, e.attn = d.attn ||| x

theorem Passing.refl (d : Device) : Passing d d := ⟨rfl, 0, by simp⟩

theorem Passing.trans {d e f : Device} (a : Passing d e) (b : Passing e f) : Passing d f := by
  obtain ⟨x, hx⟩ := a.attn
  obtain ⟨y, hy⟩ := b.attn
  exact ⟨b.time.trans a.time, x ||| y, by rw [hy, hx, BitVec.or_assoc]⟩

theorem Passing.ite {d a b : Device} {c : Prop} [Decidable c] (ha : Passing d a) (hb : Passing d b) : Passing d (if c then a else b) := by
  split <;> assumption

/-- An update of other registers. -/
theorem Passing.of_eq {d e : Device} (ht : e.time = d.time) (ha : e.attn = d.attn) : Passing d e := ⟨ht, 0, by simp [ha]⟩

theorem Keeps.passing {n : Nat} {d e : Device} (h : Keeps n d e) : Passing d e := ⟨h.time, h.attn⟩

theorem Passing.attn_or {d e : Device} (h : Passing d e) : e.attn ||| d.attn = e.attn := by
  obtain ⟨x, hx⟩ := h.attn
  rw [hx, BitVec.or_comm, ← BitVec.or_assoc, BitVec.or_self]

theorem Passing.present (d : Device) (size : AccessSize) (addr data : Word) : Passing d (d.present size addr data) := by
  have htime : (d.hostWrite size addr data).time = d.time := Device.serve_time d ⟨0, size, addr, data⟩
  unfold Device.present
  exact Passing.ite ⟨htime, (Adds.hostWrite d size addr data).attn⟩ (Passing.of_eq rfl rfl)

theorem Passing.restartIntake (d : Device) : Passing d d.restartIntake := by
  have h : Passing d { d with notices := [], overflow := false, sweep := .visiting 0 } := Passing.of_eq rfl rfl
  unfold Device.restartIntake
  exact Passing.ite (h.trans (Keeps.requestStatus (n := 0) _).passing) h

/-- The registers that a soft restart sets at once, before MODE is latched. -/
def Device.restartRegisters (d : Device) : Device :=
  { d with
    runEnable := false, service := d.service.restarted d.keep, keepPending := none
    house := if d.keep then d.house else Vector.replicate 192 255 }

/-- A soft restart up to the end of its cancels. -/
def Device.restartCancels (d : Device) : Device :=
  (d.restartRegisters.setMode .init).cancelSlots .restart (d.restartRegisters.setMode .init).heldSlots

theorem Device.restart_eq (d : Device) : d.restart =
    ((d.finishWrite.restartCancels.restartTransport.eachPort (Device.restartPort d.finishWrite.runUnderWay)).restartFollower).restartIntake := rfl

theorem Passing.restart (d : Device) : Passing d d.restart := by
  have hwrite : Passing d d.finishWrite := (Keeps.finishWrite (n := 0) d).passing
  have hregisters : Passing d.finishWrite d.finishWrite.restartRegisters := Passing.of_eq rfl rfl
  have hmode := hregisters.trans (Keeps.setMode _ .init).passing
  have hcancels : Passing _ d.finishWrite.restartCancels := (Keeps.cancelSlots (n := 0) _ .restart _).passing
  have hports := (Keeps.eachPort (Keeps.restartPort d.finishWrite.runUnderWay) d.finishWrite.restartCancels.restartTransport).passing
  rw [Device.restart_eq]
  exact hwrite.trans (hmode.trans (hcancels.trans ((Keeps.restartTransport _).passing.trans
    (hports.trans ((Keeps.restartFollower _).passing.trans (Passing.restartIntake _))))))

theorem Passing.controlWrite (d : Device) (w : Word) : Passing d (d.controlWrite w) := by
  have hregisters : Passing d { d with runEnable := wordBit w 0, attnEnable := w.extractLsb' 1 6 } := Passing.of_eq rfl rfl
  have henables : Passing d (d.controlEnables w) := by
    unfold Device.controlEnables
    exact Passing.ite (hregisters.trans (Keeps.leaveInit _).passing) hregisters
  have hrelease := Passing.ite (c := wordBit w 10 = true) (henables.trans (Keeps.captureRelease (n := 0) _).passing) henables
  have hclear := Passing.ite (c := wordBit w 9 = true) (hrelease.trans (Keeps.houseClear _).passing) hrelease
  exact Passing.ite (hclear.trans (Passing.restart _)) hclear

theorem Passing.registerWrite (d : Device) (size : AccessSize) (off data : Word) : Passing d (d.registerWrite size off data) := by
  unfold Device.registerWrite
  split
  case isFalse => exact Passing.refl d
  case isTrue =>
    split
    case h_1 => exact Passing.controlWrite d _
    case h_2 => exact (Keeps.serviceWrite d _).passing
    case h_3 => exact (Keeps.nudge d _).passing
    case h_4 => exact Passing.refl d

theorem Passing.checkOverflow (d : Device) : Passing d d.checkOverflow := by
  have h : Passing d { d with sweep := .visiting 0, overflow := false } := Passing.of_eq rfl rfl
  unfold Device.checkOverflow
  exact Passing.ite (h.trans (Keeps.requestStatus (n := 0) _).passing) (Passing.refl d)

theorem Passing.advance (d : Device) : Passing d d.advance := by
  unfold Device.advance
  split
  case h_1 =>
    have h : Passing d { d with sweep := .none } := Passing.of_eq rfl rfl
    exact Passing.ite (Passing.of_eq rfl rfl) (h.trans (Passing.checkOverflow _))
  case h_2 =>
    have h : Passing d { d with notices := d.notices.tail } := Passing.of_eq rfl rfl
    exact h.trans (Passing.checkOverflow _)

theorem Passing.readRecord (d : Device) (n : Nat) : Passing d (d.readRecord n) := by
  have hbegin : Passing d (d.beginTake n) := (Passing.advance d).trans (Passing.of_eq rfl rfl)
  exact hbegin.trans ((Keeps.pass (n := 0) _).trans (Keeps.pass _)).passing

theorem Passing.takeKeep (k : Nat) (q : BitVec 32) (d : Device) : Passing d (Device.takeKeep k q d) := by
  have hpending : Passing d { d with keepPending := some (d.field k 16 1 == 1, k) } := Passing.of_eq rfl rfl
  unfold Device.takeKeep
  exact hpending.trans (Keeps.done (n := 0) _ _ _).passing

/-- The effect of an accepted cue, by its row. -/
theorem Passing.effect (row : TakeRow) (k : Nat) (q : BitVec 32) (d : Device) : Passing d (row.effect k q d) := by
  cases row
  case badKind => exact (Keeps.takeBadKind (n := 0) k q d).passing
  case tempo => exact (Keeps.takeTempo k q d).passing
  case meter => exact (Keeps.takeMeter k q d).passing
  case transportStart => exact (Keeps.takeStart k q d).passing
  case transportContinue => exact (Keeps.takeContinue k q d).passing
  case transportStop => exact (Keeps.takeStop k q d).passing
  case send | portRun | scene => exact (Keeps.takePortCue (n := 0) _ k q d).passing
  case sceneHouse => exact (Keeps.takeSceneHouse k q d).passing
  case cancelBySlot => exact (Keeps.takeCancelSlot k q d).passing
  case cancelBySelector => exact (Keeps.takeCancelSelector k q d).passing
  case amend => exact (Keeps.takeAmend k q d).passing
  case report => exact (Keeps.takeReport (n := 0) k q d).passing
  case portSetup => exact (Keeps.takePortSetup k q d).passing
  case followSetup => exact (Keeps.takeFollowSetup k q d).passing
  case supervise => exact (Keeps.takeSupervise k q d).passing
  case keep => exact Passing.takeKeep k q d

theorem Passing.runTake (d : Device) (k : Nat) (row : TakeRow) (q : BitVec 32) : Passing d (d.runTake k (row.effect k q)) := by
  unfold Device.runTake
  split
  case h_1 => exact (Passing.readRecord d k).trans (Keeps.refuse (n := 0) _ _ _).passing
  case h_2 => exact (Passing.readRecord d k).trans (Passing.effect row k q _)

theorem Passing.takeNext (d : Device) (row : TakeRow) : Passing d (d.takeNext row row.effect) := by
  unfold Device.takeNext
  split
  case h_1 => exact Passing.runTake d _ row _
  case h_2 => exact Passing.refl d

theorem Passing.discardNotice (d : Device) : Passing d d.discardNotice := by
  unfold Device.discardNotice
  split
  case h_1 => exact Passing.ite (Passing.refl d) (Passing.advance d)
  case h_2 => exact Passing.refl d

theorem Passing.visit (d : Device) : Passing d d.visit := by
  unfold Device.visit
  split
  case h_1 => exact Passing.ite (Passing.runTake d _ _ _) (Passing.advance d)
  case h_2 => exact Passing.refl d

theorem Passing.visits : ∀ (n : Nat) (d : Device), Passing d (Device.visits n d)
  | 0, d => Passing.refl d
  | n + 1, d => (Passing.visit d).trans (Passing.visits n _)

/-- Of all operations only the start points and a read of ATTN take a cause away. -/
theorem Passing.operationOf (c : Instr) (d : Device) (h1 : c ≠ .powerOn) (h2 : c ≠ .hardReset) (h3 : c ≠ .attnRead) :
    Passing d (operationOf c d) := by
  cases c
  case powerOn => exact absurd rfl h1
  case hardReset => exact absurd rfl h2
  case attnRead => exact absurd rfl h3
  case hostSlotWrite | statusProtect | finishedMapWrite => exact Passing.present d _ _ _
  case runEnable | attnEnable | captureRelease | houseClear | restart => exact Passing.controlWrite d _
  case service => exact (Keeps.serviceWrite d _).passing
  case nudge => exact (Keeps.nudge d _).passing
  case registerWriteDiscarded => exact Passing.registerWrite d _ _ _
  case noticeDiscarded => exact Passing.discardNotice d
  case sweep visits => exact Passing.visits visits d
  case planExtension => exact (Keeps.extend d).passing
  case referenceCursorReach => exact (Keeps.tryCursorReach d).passing
  case portReach => exact (Keeps.tryReach d _).passing
  case beatMark => exact (Keeps.beatEdge d _).passing
  case rawPresenceChange => exact (Keeps.rawChange (n := 0) d _ _).passing
  case presenceRecognized => exact Passing.ite (Keeps.recognize d _).passing (Passing.refl d)
  case flapEntryAged => exact Passing.ite (Keeps.ageFlaps (n := 0) d _).passing (Passing.refl d)
  case serviceTimeout => exact (Keeps.serviceTimeout d).passing
  case carryTimerExpiry => exact (Keeps.carryExpires d).passing
  case levelFrameBegin => exact Passing.ite (Keeps.beginFrame (n := 0) d _).passing (Passing.refl d)
  case characterEnd =>
    exact Passing.ite (Keeps.characterEnds (n := 0) d _).passing
      (Passing.ite ((Keeps.choose (n := 0) d _).trans (Keeps.waitingFrame _ _)).passing (Passing.refl d))
  case clockPhaseEnd => exact Passing.ite (Keeps.phaseEnd (n := 0) d _ _).passing (Passing.refl d)
  case clockLeadIn => exact (Keeps.tryClockLeadIn (n := 0) d _).passing
  case resetPulseEnd => exact Passing.ite (Keeps.pulseEnd (n := 0) d _ _).passing (Passing.refl d)
  case stepLeadIn => exact ((Keeps.tryStepLeadIn (n := 0) d _).trans (Keeps.pump _ _)).passing
  case stepResumeForm => exact ((Keeps.tryResumeForm (n := 0) d _).trans (Keeps.pump _ _)).passing
  case statusWrite accesses => exact (Keeps.statusRun (m := 0) accesses d).passing
  case lowGapEnd => exact Passing.ite (Keeps.gapEnd (n := 0) d _ _).passing (Passing.refl d)
  case closedPhaseEnd => exact (Keeps.closedEnds d).passing
  all_goals exact Passing.takeNext d _

theorem exec_passing {c : Instr} {s t : State} (h : exec c s = .next t) (h1 : c ≠ .powerOn) (h2 : c ≠ .hardReset) (h3 : c ≠ .attnRead) :
    Passing s.toDevice t.toDevice := by
  rcases exec_cases h with ⟨-, rfl⟩ | ⟨-, rfl⟩
  · exact Passing.operationOf c _ h1 h2 h3
  · exact ⟨(Passing.operationOf c s.presenting h1 h2 h3).time, (Passing.operationOf c s.presenting h1 h2 h3).attn⟩

/-- Settles O5: every operation but a start point passes no time, and only a read of ATTN clears causes. -/
theorem timeAndCausesKept : Obligations.TimeAndCausesKept := by
  intro c s t hexec h1 h2
  by_cases h3 : c = .attnRead
  · subst h3
    refine ⟨?_, fun h => absurd rfl h⟩
    rw [← Host.Outcome.next.inj hexec]
    rfl
  · have h := exec_passing hexec h1 h2 h3
    exact ⟨h.time, fun _ => h.attn_or⟩

end Sys2Proof.Machine
end

section
/-! PROOFS. The start points, the fault capture, and the host port: writes to the exchange memory by region, writes to the register window, the service monitor. -/
namespace Sys2Proof.Machine

/-! ## Power-on values (R17, R157) -/

@[simp] theorem Device.reset_port (p : PortIx) : Device.reset.port p = Port.reset false := by
  show (Vector.replicate 24 (Port.reset false))[p.val] = Port.reset false
  rw [Vector.getElem_replicate]

theorem Mixer.zero_output : Mixer.zero.output = Vector.replicate 192 0 := by
  have hfade : Mixer.zero.fade = Mixer.zero.toL := Mixer.fade_of_cut rfl
  refine Vector.ext fun c hc => ?_
  rw [Mixer.getElem_output, hfade]
  split
  case isTrue => rw [Vector.getElem_replicate]
  case isFalse => rfl

/-- Settles O1: the reset values, the invariants they satisfy, and that both start points give them. -/
theorem resetState : Obligations.ResetState := by
  have hport : ∀ p, State.reset.port p = Port.reset false := Device.reset_port
  refine ⟨rfl, fun _ => rfl, rfl, rfl, rfl, rfl, rfl, rfl, rfl, rfl, rfl, rfl, rfl, rfl, rfl, rfl, rfl, rfl, rfl, rfl, rfl, rfl, rfl, rfl, rfl, rfl,
    fun p => ?_, rfl, rfl, rfl, rfl, rfl, rfl, rfl, rfl, rfl, rfl, rfl, by decide, ?_⟩
  · rw [hport]
    exact ⟨rfl, rfl, rfl, rfl, rfl, rfl, rfl, rfl, rfl, Mixer.zero_output⟩
  · refine ⟨rfl, ⟨Nat.zero_le _, List.nodup_nil, fun _ hn => (List.not_mem_nil hn).elim, fun _ hn => nomatch hn⟩, trivial,
      ⟨fun _ he => (List.not_mem_nil he).elim, fun _ he => (nomatch he), fun _ he => (nomatch he)⟩, Follower.reset_ok, fun p => ?_, fun p => ?_, rfl,
      fun s => ⟨s.toDevice.powerUp, rfl, rfl, rfl, Device.powerUp_port s.toDevice⟩⟩
    · rw [hport]
      exact Port.reset_settings false
    · rw [hport]
      exact Port.reset_links false

/-! ## The fault capture (R175) and the current PI (R36) -/

theorem Device.captureFault_of_empty {d : Device} (h : d.capture = none) (k : FaultKind) (port slot : Option Nat) :
    d.captureFault k port slot = ({ d with
      capture := some { kind := k, port := port, slot := slot, pi := d.currentPI, time := d.time, more := 0 }, attn := d.attn ||| 16 } : Device).requestStatus := by
  rw [Device.captureFault, h]
  rfl

theorem Device.captureFault_of_filled {d : Device} {r : FaultRecord} (h : d.capture = some r) (hmore : r.more < 255) (k : FaultKind) (port slot : Option Nat) :
    d.captureFault k port slot = ({ d with capture := some { r with more := r.more + 1 }, attn := d.attn ||| 16 } : Device).requestStatus := by
  simp only [Device.captureFault, h, hmore, if_true]
  rfl

theorem Device.captureFault_of_full {d : Device} {r : FaultRecord} (h : d.capture = some r) (hmore : ¬ r.more < 255) (k : FaultKind) (port slot : Option Nat) :
    d.captureFault k port slot = { d with attn := d.attn ||| 16 } := by
  have hlatch : d.captureFault k port slot = d.latch .fault := by simp only [Device.captureFault, h, hmore, if_false]
  exact hlatch

theorem Device.requestStatus_idle {d : Device} (h : d.writer = none) : d.requestStatus = { d with writer := some { made := 0, since := d.time } } := by
  rw [Device.requestStatus, h]

theorem Device.requestStatus_busy {d : Device} {w : Writer} (h : d.writer = some w) : d.requestStatus = { d with writerAgain := true } := by
  rw [Device.requestStatus, h]

theorem Device.currentPI_stopped {d : Device} (h : d.planner.transport = .stopped) :
    d.currentPI = match d.planner.stopped with | some r => r.pi | none => 0 := by
  simp only [Device.currentPI, h] <;> rfl

theorem Device.currentPI_running {d : Device} {k : Nat} (h : d.planner.transport ≠ .stopped) (hk : d.planner.cursor = some k) :
    d.currentPI = Nat.max d.runFirst (k - 1) := by
  unfold Device.currentPI
  split
  case h_1 hstopped => exact absurd hstopped h
  case h_2 => rw [hk]

/-- Settles O6: the three cases of the record, the request, and the current PI by transport state. -/
theorem faultCapture : Obligations.FaultCapture := by
  intro d k port slot
  refine ⟨fun h => Device.captureFault_of_empty h _ _ _, fun r h hmore => Device.captureFault_of_filled h hmore _ _ _,
    fun r h hmore => Device.captureFault_of_full h hmore _ _ _, Device.requestStatus_idle, fun w hw => Device.requestStatus_busy hw,
    fun hstopped => ⟨fun r hr => ?_, fun hnone => ?_⟩, fun o hrun hopening => ⟨fun hcursor => ?_, fun c hle hcursor => ?_⟩⟩
  · rw [Device.currentPI_stopped hstopped, hr]
  · rw [Device.currentPI_stopped hstopped, hnone]
  · rw [Device.currentPI_running hrun hcursor, Device.runFirst, hopening]
    exact Nat.max_eq_left (Nat.sub_le _ _)
  · rw [Device.currentPI_running hrun hcursor, Device.runFirst, hopening]
    exact Nat.max_eq_right hle

/-! ## Host accesses as commands (R155, R156) -/

section
variable (size : AccessSize) (addr data : Word) {s : State}

theorem Device.present_own {d : Device} (h : d.ahead = 0) : d.present size addr data = d.hostWrite size addr data := if_pos h

theorem Device.present_served {d : Device} (h : d.ahead ≠ 0) : d.present size addr data = { d with ahead := d.ahead - 1 } := if_neg h

theorem exec_hostSlotWrite (h : s.ahead = 0) :
    exec (.hostSlotWrite size addr data) s = .next { s with toDevice := s.hostWrite size addr data } := by
  rw [← Device.present_own size addr data h]
  rfl

theorem exec_statusProtect (h : s.ahead = 0) :
    exec (.statusProtect size addr data) s = .next { s with toDevice := s.hostWrite size addr data } := by
  rw [← Device.present_own size addr data h]
  rfl

theorem exec_finishedMapWrite (h : s.ahead = 0) :
    exec (.finishedMapWrite size addr data) s = .next { s with toDevice := s.hostWrite size addr data } := by
  rw [← Device.present_own size addr data h]
  rfl

theorem Device.hostWrite_cueSlots {d : Device} (h : regionOf (hostOffset size addr) = .cueSlots) :
    d.hostWrite size addr data = d.slotWrite (hostOffset size addr) (accessBytes size data) := by
  rw [Device.hostWrite, h]

theorem Device.hostWrite_plain {d : Device} (h : regionOf (hostOffset size addr) = .plain) :
    d.hostWrite size addr data = d.landBytes (hostOffset size addr) (accessBytes size data) := by
  rw [Device.hostWrite, h]

theorem Device.hostWrite_statusPage {d : Device} (h : regionOf (hostOffset size addr) = .statusPage) :
    d.hostWrite size addr data = d.captureFault .statusProtect none none := by
  rw [Device.hostWrite, h]

theorem Device.hostWrite_finishedMap {d : Device} (h : regionOf (hostOffset size addr) = .finishedMap) :
    d.hostWrite size addr data = d.clearBits (hostOffset size addr) (accessBytes size data) := by
  rw [Device.hostWrite, h]

/-- R158: a write to a protected slot is discarded whole. -/
theorem Device.hostWrite_owned {d : Device} (h : regionOf (hostOffset size addr) = .cueSlots) (hown : slotOf (hostOffset size addr) ∈ d.prot) :
    d.hostWrite size addr data = d.captureFault .ownedWrite none (some (slotOf (hostOffset size addr))) := by
  rw [Device.hostWrite_cueSlots size addr data h, Device.slotWrite, if_pos (List.contains_iff_mem.mpr hown)]

/-- A lone access that waits for at most one more engine access is served behind it. -/
theorem Device.pass_lone {d : Device} {w : WaitingAccess} (h : d.arbiter = [w]) (hafter : w.after ≤ 1) :
    d.pass = ({ d with arbiter := [] } : Device).hostWrite w.size w.addr w.data := by
  have hturn : w.after - 1 = 0 := by omega
  simp only [Device.pass, h, List.length_singleton, countedDown, Device.letIn, hturn, if_true, Device.serve]

end

/-- Settles O7: the slot's flag discards the write, inside a take as between commands; an access served before is done with. -/
theorem ownedSlotWrite : Obligations.OwnedSlotWrite := by
  refine ⟨fun size addr data s hregion hown hahead => ⟨?_, Device.captureFault_mem _ _ _ _, Device.captureFault_notices _ _ _ _⟩,
    fun d n w hwaits hafter hregion hslot => ?_, fun size addr data s hahead => ?_⟩
  · rw [exec_hostSlotWrite size addr data hahead, Device.hostWrite_owned size addr data hregion hown]
  · subst hslot
    rw [Device.pass_lone ((Device.beginTake_arbiter d _).trans hwaits) hafter]
    exact Device.hostWrite_owned w.size w.addr w.data hregion (mem_insertNat.mpr (.inl rfl))
  · have h := Device.present_served size addr data (d := s.toDevice) hahead
    refine ⟨?_, ?_, ?_⟩ <;> rw [← h] <;> rfl

/-! ## The bytes of an access -/

theorem AccessSize.bytes_pos (size : AccessSize) : 0 < AccessSize.bytes size := by cases size <;> decide

theorem accessBytes_getElem (size : AccessSize) (w : Word) {i : Nat} (h : i < (accessBytes size w).length) : (accessBytes size w)[i] = wordByte w i := by
  simp [accessBytes]

theorem hostOffset_dvd (size : AccessSize) (addr : Word) : AccessSize.bytes size ∣ hostOffset size addr := ⟨_, Nat.mul_comm _ _⟩

/-- An access is aligned, so that only its first byte can be a slot's first. -/
theorem hostOffset_slotStart (size : AccessSize) (addr : Word) {i : Nat} (h : i < AccessSize.bytes size) :
    (hostOffset size addr + i) % 64 = 0 ↔ hostOffset size addr % 64 = 0 ∧ i = 0 := by
  obtain ⟨k, hk⟩ := hostOffset_dvd size addr
  rw [hk]
  cases size <;> simp only [AccessSize.bytes] at h ⊢ <;> omega

/-! ## A landing write (R157, R161) -/

theorem Device.read_landBytes {d : Device} (hm : d.MemOk) (size : AccessSize) (data : Word) (a : Nat) {i : Nat} (h : i < AccessSize.bytes size) :
    Memory.read (d.landBytes a (accessBytes size data)).mem (a + i) = wordByte data i := by
  have hlen : i < (accessBytes size data).length := by rw [accessBytes_length]; exact h
  rw [Device.landBytes, Memory.read_writeBytes_inside _ a hlen hm, accessBytes_getElem]

theorem Device.read_landBytes_outside (d : Device) (size : AccessSize) (data : Word) {a b : Nat} (h : b < a ∨ a + AccessSize.bytes size ≤ b) :
    Memory.read (d.landBytes a (accessBytes size data)).mem b = Memory.read d.mem b := by
  rw [Device.landBytes, Memory.read_writeBytes_outside _ _ (by rw [accessBytes_length]; exact h)]

theorem Device.read_clearBits {d : Device} (hm : d.MemOk) (size : AccessSize) (data : Word) (a : Nat) {i : Nat} (h : i < AccessSize.bytes size) :
    Memory.read (d.clearBits a (accessBytes size data)).mem (a + i) = Memory.read d.mem (a + i) &&& ~~~(wordByte data i) := by
  have hlen : i < (((accessBytes size data).zipIdx).map fun x => Memory.read d.mem (a + x.2) &&& ~~~x.1).length := by
    simpa [accessBytes_length] using h
  rw [Device.clearBits, Device.landBytes, Memory.read_writeBytes_inside _ a hlen hm]
  simp [accessBytes]

theorem Device.read_clearBits_outside (d : Device) (size : AccessSize) (data : Word) {a b : Nat} (h : b < a ∨ a + AccessSize.bytes size ≤ b) :
    Memory.read (d.clearBits a (accessBytes size data)).mem b = Memory.read d.mem b := by
  rw [Device.clearBits, Device.landBytes, Memory.read_writeBytes_outside _ _ (by simpa [accessBytes_length] using h)]

/-- Settles O10: each region's rule for a host write, with the bytes it leaves. -/
theorem regionWrites : Obligations.RegionWrites := by
  intro size addr data s hm hahead
  refine ⟨fun h => ?_, fun h => ?_, fun h => ?_⟩
  · refine ⟨(s.landBytes (hostOffset size addr) (accessBytes size data)).mem, ?_, fun i hi => Device.read_landBytes hm size data _ hi,
      fun b hb => Device.read_landBytes_outside _ size data hb⟩
    rw [exec_hostSlotWrite size addr data hahead, Device.hostWrite_plain size addr data h]
    rfl
  · rw [exec_statusProtect size addr data hahead, Device.hostWrite_statusPage size addr data h]
    exact ⟨rfl, Device.captureFault_mem _ _ _ _⟩
  · refine ⟨(s.clearBits (hostOffset size addr) (accessBytes size data)).mem, ?_, fun i hi => Device.read_clearBits hm size data _ hi,
      fun b hb => Device.read_clearBits_outside _ size data hb⟩
    rw [exec_finishedMapWrite size addr data hahead, Device.hostWrite_finishedMap size addr data h]
    rfl

/-! ## Writes to a slot (R69, R71, R159, R173) -/

theorem accessBytes_cons (size : AccessSize) (w : Word) : ∃ rest, accessBytes size w = wordByte w 0 :: rest := by
  cases size <;> exact ⟨_, rfl⟩

/-- The state byte that a write would set to a code of the part's own does not land. -/
def dropsState (a : Nat) (w : Word) : Prop := a % 64 = 0 ∧ wordByte w 0 ≠ 0 ∧ wordByte w 0 ≠ 1

theorem Device.landSlot_whole {d : Device} {a : Nat} {size : AccessSize} {w : Word} (h : ¬ dropsState a w) :
    d.landSlot a (accessBytes size w) = d.landBytes a (accessBytes size w) := by
  obtain ⟨rest, hrest⟩ := accessBytes_cons size w
  rw [hrest]
  exact if_neg h

theorem Device.landSlot_dropped {d : Device} {a : Nat} {size : AccessSize} {w : Word} (h : dropsState a w) :
    d.landSlot a (accessBytes size w) = d.landBytes (a + 1) (accessBytes size w).tail := by
  obtain ⟨rest, hrest⟩ := accessBytes_cons size w
  rw [hrest]
  exact if_pos h

/-- R69: what reads back inside a write to a slot. -/
theorem Device.read_landSlot {d : Device} (hm : d.MemOk) (size : AccessSize) (addr w : Word) {i : Nat} (h : i < AccessSize.bytes size) :
    Memory.read (d.landSlot (hostOffset size addr) (accessBytes size w)).mem (hostOffset size addr + i) =
      if (hostOffset size addr + i) % 64 = 0 ∧ wordByte w i ≠ 0 ∧ wordByte w i ≠ 1 then Memory.read d.mem (hostOffset size addr + i) else wordByte w i := by
  by_cases hdrop : dropsState (hostOffset size addr) w
  · rw [Device.landSlot_dropped hdrop]
    obtain ⟨hstart, hcode⟩ := hdrop
    cases i with
    | zero =>
      rw [if_pos ⟨hstart, hcode⟩, Device.landBytes, Memory.read_writeBytes_outside _ _ (by omega)]
    | succ j =>
      have hlen : j < (accessBytes size w).tail.length := by rw [List.length_tail, accessBytes_length]; omega
      have hinside : ¬ (hostOffset size addr + (j + 1)) % 64 = 0 := fun h0 => absurd ((hostOffset_slotStart size addr h).mp h0).2 (by omega)
      have hplace : hostOffset size addr + (j + 1) = hostOffset size addr + 1 + j := by omega
      rw [if_neg fun hc => hinside hc.1, Device.landBytes, hplace, Memory.read_writeBytes_inside _ _ hlen hm, List.getElem_tail, accessBytes_getElem]
  · rw [Device.landSlot_whole hdrop, Device.read_landBytes hm size w _ h]
    refine (if_neg fun hc => hdrop ?_).symm
    obtain ⟨h0, hi0⟩ := (hostOffset_slotStart size addr h).mp hc.1
    subst hi0
    exact ⟨h0, hc.2⟩

theorem Device.read_landSlot_outside (d : Device) (size : AccessSize) (w : Word) {a b : Nat} (h : ¬ (a ≤ b ∧ b < a + AccessSize.bytes size)) :
    Memory.read (d.landSlot a (accessBytes size w)).mem b = Memory.read d.mem b := by
  have hpos := AccessSize.bytes_pos size
  by_cases hdrop : dropsState a w
  · rw [Device.landSlot_dropped hdrop, Device.landBytes, Memory.read_writeBytes_outside _ _ (by rw [List.length_tail, accessBytes_length]; omega)]
  · rw [Device.landSlot_whole hdrop, Device.read_landBytes_outside d size w (by omega)]

theorem Device.landSlot_eq (d : Device) (a : Nat) (l : List Byte) : d.landSlot a l = { d with mem := (d.landSlot a l).mem } := by
  unfold Device.landSlot
  repeat' split
  all_goals rfl

/-- What a give-back may change. -/
theorem Device.giveBack_eq (d : Device) (n : Nat) : d.giveBack n = { d with keep := (d.giveBack n).keep, keepPending := (d.giveBack n).keepPending } := by
  unfold Device.giveBack
  repeat' split
  all_goals rfl

theorem Device.giveBack_none {d : Device} (h : d.keepPending = none) (n : Nat) : d.giveBack n = d := by
  rw [Device.giveBack, h]

theorem Device.giveBack_free {d : Device} {v : Bool} {n : Nat} (h : d.keepPending = some (v, n)) (hfree : d.slotState n = stFree) :
    d.giveBack n = { d with keep := v, keepPending := none } := by
  simp only [Device.giveBack, h, hfree, if_true]

theorem Device.giveBack_posted {d : Device} {v : Bool} {n : Nat} (h : d.keepPending = some (v, n)) (hposted : d.slotState n = stPosted) :
    d.giveBack n = { d with keepPending := none } := by
  simp only [Device.giveBack, h, hposted, if_true]
  rfl

theorem Device.offer_listed {d : Device} {n : Nat} (h : n ∈ d.notices) : d.offer n = d := if_pos (List.contains_iff_mem.mpr h)

theorem Device.offer_room {d : Device} {n : Nat} (h : n ∉ d.notices) (hroom : d.notices.length < 32) :
    d.offer n = { d with notices := d.notices ++ [n] } := by
  rw [Device.offer, if_neg (by simpa using h), if_pos hroom]

theorem Device.offer_full {d : Device} {n : Nat} (h : n ∉ d.notices) (hfull : 32 ≤ d.notices.length) : d.offer n = d.overflowNotice n := by
  rw [Device.offer, if_neg (by simpa using h), if_neg (by omega)]

/-- A write to a slot that is not protected, before its offer to the notice list. -/
def Device.landed (d : Device) (size : AccessSize) (addr data : Word) : Device :=
  (d.landSlot (hostOffset size addr) (accessBytes size data)).giveBack (slotOf (hostOffset size addr))

theorem Device.landed_mem (d : Device) (size : AccessSize) (addr data : Word) :
    (d.landed size addr data).mem = (d.landSlot (hostOffset size addr) (accessBytes size data)).mem := Device.giveBack_mem _ _

theorem Device.landed_eq (d : Device) (size : AccessSize) (addr data : Word) : d.landed size addr data =
    { d with
      mem := (d.landed size addr data).mem, keep := (d.landed size addr data).keep, keepPending := (d.landed size addr data).keepPending } := by
  have hgive := Device.giveBack_eq (d.landSlot (hostOffset size addr) (accessBytes size data)) (slotOf (hostOffset size addr))
  have hland := Device.landSlot_eq d (hostOffset size addr) (accessBytes size data)
  rw [Device.landed_mem]
  unfold Device.landed
  rw [hgive, hland]

theorem Device.landed_notices (d : Device) (size : AccessSize) (addr data : Word) : (d.landed size addr data).notices = d.notices := by
  rw [Device.landed_eq]

/-- The write leaves its slot POSTED by its state byte. -/
def Device.leavesPosted (d : Device) (size : AccessSize) (addr data : Word) : Prop :=
  hostOffset size addr % 64 = 0 ∧ (d.landed size addr data).slotState (slotOf (hostOffset size addr)) = 1

section
variable {size : AccessSize} {addr data : Word} {d : Device}

theorem Device.hostWrite_offered (hregion : regionOf (hostOffset size addr) = .cueSlots) (hfree : slotOf (hostOffset size addr) ∉ d.prot)
    (h : d.leavesPosted size addr data) : d.hostWrite size addr data = (d.landed size addr data).offer (slotOf (hostOffset size addr)) := by
  rw [Device.hostWrite_cueSlots size addr data hregion, Device.slotWrite, if_neg (by simpa using hfree)]
  exact if_pos h

theorem Device.hostWrite_unoffered (hregion : regionOf (hostOffset size addr) = .cueSlots) (hfree : slotOf (hostOffset size addr) ∉ d.prot)
    (h : ¬ d.leavesPosted size addr data) : d.hostWrite size addr data = d.landed size addr data := by
  rw [Device.hostWrite_cueSlots size addr data hregion, Device.slotWrite, if_neg (by simpa using hfree)]
  exact if_neg h

/-- A write to a slot that is not protected: the offer is the only thing that can follow its landing. -/
theorem Device.hostWrite_slot_mem (hregion : regionOf (hostOffset size addr) = .cueSlots) (hfree : slotOf (hostOffset size addr) ∉ d.prot) :
    (d.hostWrite size addr data).mem = (d.landSlot (hostOffset size addr) (accessBytes size data)).mem := by
  by_cases h : d.leavesPosted size addr data
  · rw [Device.hostWrite_offered hregion hfree h, Device.offer_mem, Device.landed_mem]
  · rw [Device.hostWrite_unoffered hregion hfree h, Device.landed_mem]

theorem Device.hostWrite_slot_state (hregion : regionOf (hostOffset size addr) = .cueSlots) (hfree : slotOf (hostOffset size addr) ∉ d.prot) (n : Nat) :
    (d.hostWrite size addr data).slotState n = (d.landed size addr data).slotState n := by
  rw [Device.slotState, Device.slotState, Device.peek, Device.peek, Device.hostWrite_slot_mem hregion hfree, Device.landed_mem]

/-- With room in the notice list, or with nothing to offer, only memory, notices and KEEP change. -/
theorem Device.hostWrite_slot_eq (hregion : regionOf (hostOffset size addr) = .cueSlots) (hfree : slotOf (hostOffset size addr) ∉ d.prot)
    (hroom : d.notices.length < 32) : d.hostWrite size addr data = { d with
      mem := (d.hostWrite size addr data).mem, notices := (d.hostWrite size addr data).notices, keep := (d.hostWrite size addr data).keep
      keepPending := (d.hostWrite size addr data).keepPending } := by
  have hnotices := Device.landed_notices d size addr data
  by_cases h : d.leavesPosted size addr data
  · rw [Device.hostWrite_offered hregion hfree h]
    by_cases hmem : slotOf (hostOffset size addr) ∈ d.notices
    · rw [Device.offer_listed (by rw [hnotices]; exact hmem), Device.landed_eq]
    · rw [Device.offer_room (by rw [hnotices]; exact hmem) (by rw [hnotices]; exact hroom), Device.landed_eq]
  · rw [Device.hostWrite_unoffered hregion hfree h, Device.landed_eq]

end

/-- No offer touches KEEP. -/
theorem Device.offer_keep (d : Device) (n : Nat) : (d.offer n).keep = d.keep ∧ (d.offer n).keepPending = d.keepPending := by
  unfold Device.offer Device.overflowNotice
  repeat' split
  all_goals simp

theorem Device.hostWrite_slot_keep {size : AccessSize} {addr data : Word} {d : Device} (hregion : regionOf (hostOffset size addr) = .cueSlots)
    (hfree : slotOf (hostOffset size addr) ∉ d.prot) :
    (d.hostWrite size addr data).keep = (d.landed size addr data).keep ∧ (d.hostWrite size addr data).keepPending = (d.landed size addr data).keepPending := by
  by_cases h : d.leavesPosted size addr data
  · rw [Device.hostWrite_offered hregion hfree h]
    exact Device.offer_keep _ _
  · rw [Device.hostWrite_unoffered hregion hfree h]
    exact ⟨rfl, rfl⟩

theorem Device.landed_keep_of_none {d : Device} (h : d.keepPending = none) (size : AccessSize) (addr data : Word) :
    (d.landed size addr data).keep = d.keep ∧ (d.landed size addr data).keepPending = none := by
  have hland := Device.landSlot_eq d (hostOffset size addr) (accessBytes size data)
  have hpending : (d.landSlot (hostOffset size addr) (accessBytes size data)).keepPending = none := by rw [hland]; exact h
  rw [Device.landed, Device.giveBack_none hpending, hland]
  exact ⟨rfl, h⟩

/-- Settles O8: the bytes by R69, the offer by R159, and the frame. -/
theorem slotWriteLands : Obligations.SlotWriteLands := by
  intro size addr data s hregion hfree hm hahead
  have hmem := Device.hostWrite_slot_mem (d := s.toDevice) (data := data) hregion hfree
  have hstate := Device.hostWrite_slot_state (d := s.toDevice) (data := data) hregion hfree (slotOf (hostOffset size addr))
  have hkept := Device.landed_notices s.toDevice size addr data
  refine ⟨s.hostWrite size addr data, exec_hostSlotWrite size addr data hahead, fun i hi => ?_, fun b hb => ?_, fun h => ?_,
    fun hstart hposted hnew hroom => ?_, fun hlisted => ?_, fun hroom => Device.hostWrite_slot_eq hregion hfree hroom, fun hnone => ?_⟩
  · rw [hmem]
    exact Device.read_landSlot hm size addr data hi
  · rw [hmem]
    exact Device.read_landSlot_outside _ size data hb
  · rw [hstate] at h
    rw [Device.hostWrite_unoffered hregion hfree h, hkept]
  · rw [hstate] at hposted
    rw [Device.hostWrite_offered hregion hfree ⟨hstart, hposted⟩, Device.offer_room (by rw [hkept]; exact hnew) (by rw [hkept]; exact hroom), hkept]
  · by_cases h : s.leavesPosted size addr data
    · rw [Device.hostWrite_offered hregion hfree h, Device.offer_listed (by rw [hkept]; exact hlisted), hkept]
    · rw [Device.hostWrite_unoffered hregion hfree h, hkept]
  · obtain ⟨hkeep, hpending⟩ := Device.hostWrite_slot_keep (d := s.toDevice) (data := data) hregion hfree
    rw [hkeep, hpending]
    exact Device.landed_keep_of_none hnone size addr data

/-- A write of FREE or POSTED to a slot's state byte lands. -/
theorem Device.slotState_landed {d : Device} (hm : d.MemOk) {size : AccessSize} {addr data : Word} (hregion : regionOf (hostOffset size addr) = .cueSlots)
    (hstart : hostOffset size addr % 64 = 0) (hcode : wordByte data 0 = 0 ∨ wordByte data 0 = 1) :
    (d.landSlot (hostOffset size addr) (accessBytes size data)).slotState (slotOf (hostOffset size addr)) = (wordByte data 0).toNat := by
  have hbase : slotBase (slotOf (hostOffset size addr)) = hostOffset size addr := by
    obtain ⟨hlo, -⟩ := regionOf_cueSlots hregion
    simp only [slotBase, slotOf]
    omega
  have hread := Device.read_landSlot hm size addr data (AccessSize.bytes_pos size)
  rw [if_neg fun h => hcode.elim h.2.1 h.2.2, Nat.add_zero] at hread
  simp only [Device.slotState, Device.peek, Memory.readLE, hbase, hread]
  omega

theorem Device.landed_slotState (d : Device) (size : AccessSize) (addr data : Word) (n : Nat) : (d.landed size addr data).slotState n =
    (d.landSlot (hostOffset size addr) (accessBytes size data)).slotState n := by
  simp only [Device.slotState, Device.peek, Device.landed_mem]

theorem Device.overflowNotice_notices (d : Device) (n : Nat) : (d.overflowNotice n).notices = d.notices := by
  unfold Device.overflowNotice
  split <;> simp

theorem Device.overflowNotice_overflow (d : Device) (n : Nat) : (d.overflowNotice n).overflow = true := by
  unfold Device.overflowNotice
  split <;> simp_all

theorem Device.overflowNotice_attn (d : Device) (n : Nat) : (d.overflowNotice n).attn = d.attn ||| 16 := by
  unfold Device.overflowNotice
  split <;> simp [Cause.bit]

theorem Device.captureFault_writer {d : Device} (h : d.writer.isSome = true) (k : FaultKind) (p n : Option Nat) : (d.captureFault k p n).writer.isSome = true := by
  unfold Device.captureFault
  repeat' split
  all_goals first | exact Device.requestStatus_writer _ | exact h

theorem Device.overflowNotice_writer {d : Device} (h : d.overflow = false) (n : Nat) : (d.overflowNotice n).writer.isSome = true := by
  rw [Device.overflowNotice, h]
  exact Device.captureFault_writer (Device.requestStatus_writer _) _ _ _

theorem Device.currentPI_congr {d e : Device} (h : e.planner = d.planner) : e.currentPI = d.currentPI := by
  simp only [Device.currentPI, Device.runFirst, h]

theorem Device.overflowNotice_capture {d : Device} (h : d.capture = none) (n : Nat) : (d.overflowNotice n).capture =
    some { kind := .noticeOverflow, port := none, slot := some n, pi := d.currentPI, time := d.time, more := 0 } := by
  unfold Device.overflowNotice
  split
  case isTrue => exact Device.captureFault_capture_of_empty h _ _ _
  case isFalse =>
    rw [Device.captureFault_capture_of_empty (by simpa using h), Device.requestStatus_time, Device.currentPI_congr (e := Device.requestStatus _) (d := d) (by simp)]

/-- Settles O9: the write lands POSTED, its offer finds the list full, and the overflow is captured. -/
theorem noticeOverflow : Obligations.NoticeOverflow := by
  intro size addr data s hregion hfree hm hahead hstart hcode hnew hfull
  have hnotices := Device.landed_notices s.toDevice size addr data
  have hposted : (s.landed size addr data).slotState (slotOf (hostOffset size addr)) = 1 := by
    rw [Device.landed_slotState, Device.slotState_landed hm hregion hstart (.inr hcode), hcode]
    rfl
  have hwrite : s.hostWrite size addr data = (s.landed size addr data).overflowNotice (slotOf (hostOffset size addr)) := by
    rw [Device.hostWrite_offered hregion hfree ⟨hstart, hposted⟩, Device.offer_full (by rw [hnotices]; exact hnew) (by rw [hnotices]; exact hfull)]
  refine ⟨s.hostWrite size addr data, exec_hostSlotWrite size addr data hahead, ?_, ?_, ?_, ?_, fun hclear => ?_, fun hempty => ?_⟩
  · rw [hwrite, Device.overflowNotice_notices, hnotices]
  · rw [hwrite, Device.overflowNotice_overflow]
  · rw [Device.hostWrite_slot_state hregion hfree, hposted]
  · rw [hwrite, Device.overflowNotice_attn, Device.landed_eq]
  · rw [hwrite]
    exact Device.overflowNotice_writer (by rw [Device.landed_eq]; exact hclear) _
  · rw [hwrite, Device.overflowNotice_capture (by rw [Device.landed_eq]; exact hempty), Device.landed_eq]
    rfl

end Sys2Proof.Machine
end

section
/-! PROOFS. Operations that make no access to the exchange memory, whatever waits at the arbiter; the register window, the service monitor, and KEEP's give-back. -/
namespace Sys2Proof.Machine

/-! ## Operations without an access (R156) -/

/-- The operation neither looks at the arbiter nor lets anything in. -/
def NoAccess (f : Device → Device) : Prop := ∀ d l, f (d.withArbiter l) = (f d).withArbiter l

theorem Device.withArbiter_self (d : Device) : d.withArbiter d.arbiter = d := rfl

theorem NoAccess.arbiter {f : Device → Device} (h : NoAccess f) (d : Device) : (f d).arbiter = d.arbiter := by
  have hself : f d = (f d).withArbiter d.arbiter := h d d.arbiter
  rw [hself]
  rfl

/-- Such an operation is the whole command. -/
theorem NoAccess.act {f : Device → Device} (h : NoAccess f) (s : State) : s.act f = .next { s with toDevice := f s.toDevice } :=
  State.act_of_noAccess (h.arbiter s.toDevice) (h s.toDevice s.presented)

theorem NoAccess.exec {c : Instr} (h : NoAccess (operationOf c)) (hc : isAlone c = false) (s : State) :
    exec c s = .next { s with toDevice := operationOf c s.toDevice } := by
  rw [exec_eq, hc]
  exact h.act s

theorem NoAccess.comp {f g : Device → Device} (hg : NoAccess g) (hf : NoAccess f) : NoAccess fun d => g (f d) := fun d l => by
  show g (f (d.withArbiter l)) = _
  rw [hf, hg]

/-- A choice between two such operations that does not look at the arbiter. -/
theorem NoAccess.ite {c : Device → Prop} [DecidablePred c] {f g : Device → Device} (hf : NoAccess f) (hg : NoAccess g)
    (hc : ∀ d l, c (d.withArbiter l) ↔ c d := by exact fun _ _ => Iff.rfl) : NoAccess fun d => if c d then f d else g d := fun d l => by
  show (if c (d.withArbiter l) then f (d.withArbiter l) else g (d.withArbiter l)) = (if c d then f d else g d).withArbiter l
  by_cases h : c d
  · rw [if_pos h, if_pos ((hc d l).mpr h), hf]
  · rw [if_neg h, if_neg fun h' => h ((hc d l).mp h'), hg]

theorem NoAccess.id : NoAccess fun d => d := fun _ _ => rfl

theorem NoAccess.latch (c : Cause) : NoAccess fun d => d.latch c := fun _ _ => rfl

theorem NoAccess.requestStatus : NoAccess Device.requestStatus := Device.requestStatus_withArbiter

theorem NoAccess.setMode (m : DeviceMode) : NoAccess fun d => d.setMode m := fun d l =>
  Device.requestStatus_withArbiter (Device.latch { d with mode := m } .mode) l

theorem NoAccess.setPort (p : PortIx) (f : Device → Port) (hf : ∀ d l, f (d.withArbiter l) = f d := by exact fun _ _ => rfl) :
    NoAccess fun d => d.setPort p (f d) := fun d l => by
  show (d.withArbiter l).setPort p (f (d.withArbiter l)) = _
  rw [hf]
  rfl

theorem NoAccess.captureFault (k : FaultKind) (p n : Option Nat) : NoAccess fun d => d.captureFault k p n := fun d l => by
  show (d.withArbiter l).captureFault k p n = (d.captureFault k p n).withArbiter l
  have hpi : (d.withArbiter l).currentPI = d.currentPI := Device.currentPI_congr rfl
  cases h : d.capture with
  | none =>
    rw [Device.captureFault_of_empty h, Device.captureFault_of_empty (d := d.withArbiter l) h, hpi, ← Device.requestStatus_withArbiter]
    rfl
  | some r =>
    by_cases hmore : r.more < 255
    · rw [Device.captureFault_of_filled h hmore, Device.captureFault_of_filled (d := d.withArbiter l) h hmore, ← Device.requestStatus_withArbiter]
      rfl
    · rw [Device.captureFault_of_full h hmore, Device.captureFault_of_full (d := d.withArbiter l) h hmore]
      rfl

/-! ## CONTROL writes (R165, R169) -/

theorem Device.controlEnables_withArbiter {d : Device} {w : Word} (h : wordBit w 0 = true → d.mode ≠ .init) (l : List WaitingAccess) :
    (d.withArbiter l).controlEnables w = (d.controlEnables w).withArbiter l := by
  rw [Device.controlEnables_of_stays h, Device.controlEnables_of_stays (d := d.withArbiter l) h]
  rfl

theorem Device.controlWrite_plain {w : Word} (h8 : wordBit w 8 = false) (h9 : wordBit w 9 = false) (h10 : wordBit w 10 = false) (d : Device) :
    d.controlWrite w = d.controlEnables w := by
  simp only [Device.controlWrite, h8, h9, h10, Bool.false_eq_true, if_false]

/-- A CONTROL write without action bits that leaves the mode alone. -/
theorem act_controlWrite_plain {w : Word} {s : State} (h8 : wordBit w 8 = false) (h9 : wordBit w 9 = false) (h10 : wordBit w 10 = false)
    (h0 : wordBit w 0 = true → s.mode ≠ .init) :
    s.act (fun d => d.controlWrite w) = .next { s with toDevice := s.withEnables w } := by
  refine State.act_of_noAccess rfl ?_
  show (s.toDevice.withArbiter s.presented).controlWrite w = _
  rw [Device.controlWrite_plain h8 h9 h10, Device.controlEnables_of_stays (d := s.toDevice.withArbiter s.presented) h0]
  rfl

/-- R164: an access that fits the row is discarded. -/
theorem Device.registerWrite_discarded {size : AccessSize} {offset data : Word} (h : Instr.wf (.registerWriteDiscarded size offset data) = true) (d : Device) :
    d.registerWrite size offset data = d := by
  unfold Device.registerWrite
  split
  case isFalse => rfl
  case isTrue hword =>
    have hother : registerOffset offset ≠ 0x04 ∧ registerOffset offset ≠ 0x0C ∧ registerOffset offset ≠ 0x10 := by
      simpa [Instr.wf, hword] using h
    obtain ⟨h4, hC, h10⟩ := hother
    split
    case h_1 heq => exact absurd heq h4
    case h_2 heq => exact absurd heq hC
    case h_3 heq => exact absurd heq h10
    case h_4 => rfl

/-- Settles O11: discarded accesses, and a CONTROL write of the enables alone. -/
theorem registerWrites : Obligations.RegisterWrites := by
  refine ⟨fun size offset data s hwf => ?_, fun w s h8 h9 h10 h0 => ⟨act_controlWrite_plain h8 h9 h10 h0, act_controlWrite_plain h8 h9 h10 h0⟩⟩
  exact exec_of_noEffect rfl (Device.registerWrite_discarded hwf _)

theorem Device.houseClear_done {d : Device} (hmode : d.mode = .house) (hgood : d.service.recent = .good) : d.houseClear = d.setMode .attended :=
  if_pos ⟨hmode, hgood⟩

theorem Device.houseClear_none {d : Device} (h : ¬ (d.mode = .house ∧ d.service.recent = .good)) : d.houseClear = d := if_neg h

theorem NoAccess.houseClear : NoAccess Device.houseClear := NoAccess.ite (c := fun d => d.mode = .house ∧ d.service.recent = .good) (NoAccess.setMode .attended) NoAccess.id

/-- The bit of HOUSE_CLEAR changes nothing of the enables and the other actions that a word carries. -/
theorem Device.controlWrite_clear {w : Word} (h8 : wordBit w 8 = false) (h10 : wordBit w 10 = false) (d : Device) :
    d.controlWrite (w ||| 0x200) = (d.controlEnables w).houseClear := by
  have hactions : wordBit (w ||| 0x200) 10 = wordBit w 10 ∧ wordBit (w ||| 0x200) 9 = true ∧ wordBit (w ||| 0x200) 8 = wordBit w 8 := by
    simp [wordBit]
  have henables : d.controlEnables (w ||| 0x200) = d.controlEnables w := by
    simp [Device.controlEnables, wordBit, BitVec.extractLsb'_or]
  obtain ⟨hrelease, hclear, hrestart⟩ := hactions
  simp only [Device.controlWrite, henables, hrelease, hclear, hrestart, h8, h10, Bool.false_eq_true, if_true, if_false]

theorem exec_houseClear {w : Word} {s : State} (h8 : wordBit w 8 = false) (h10 : wordBit w 10 = false) (h0 : wordBit w 0 = true → s.mode ≠ .init) :
    exec (.houseClear w) s = .next { s with toDevice := (s.withEnables w).houseClear } := by
  refine State.act_of_noAccess (f := fun d => d.controlWrite (w ||| 0x200)) (NoAccess.houseClear.arbiter (s.withEnables w)) ?_
  show (s.toDevice.withArbiter s.presented).controlWrite (w ||| 0x200) = _
  rw [Device.controlWrite_clear h8 h10, Device.controlEnables_of_stays (d := s.toDevice.withArbiter s.presented) h0]
  exact NoAccess.houseClear (s.withEnables w) s.presented

/-- Settles O14: the condition of R169 decides. -/
theorem houseClear : Obligations.HouseClear := by
  intro w s h8 h10 h0
  refine ⟨fun hmode hgood => ?_, fun hnot => ?_⟩
  · rw [exec_houseClear h8 h10 h0, Device.houseClear_done (d := s.withEnables w) hmode hgood]
    rfl
  · rw [exec_houseClear h8 h10 h0, Device.houseClear_none (d := s.withEnables w) hnot]
    rfl

/-! ## ATTN (R166) -/

theorem BitVec.and_ne_zero_iff {n : Nat} (a b : BitVec n) : a &&& b ≠ 0#n ↔ ∃ i, i < n ∧ a.getLsbD i = true ∧ b.getLsbD i = true := by
  constructor
  · intro h
    refine Classical.byContradiction fun hnone => ?_
    refine h (BitVec.eq_of_getLsbD_eq fun i hi => ?_)
    rw [BitVec.getLsbD_and, BitVec.getLsbD_zero]
    refine Classical.byContradiction fun hbit => ?_
    exact hnone ⟨i, hi, by simpa using hbit⟩
  · rintro ⟨i, -, ha, hb⟩ h
    have hbit := congrArg (BitVec.getLsbD · i) h
    simp [ha, hb] at hbit

/-- Settles O16: the read's effect, and the line by its bits. -/
theorem attnReadAndInterruptLine : Obligations.AttnReadAndInterruptLine := by
  refine ⟨fun s => NoAccess.exec (c := .attnRead) (fun _ _ => rfl) rfl s, fun d => ?_⟩
  rw [Device.interruptLine, bne_iff_ne]
  exact BitVec.and_ne_zero_iff d.attn d.attnEnable

/-! ## The service monitor (R171, R172) -/

theorem NoAccess.enterCarry : NoAccess Device.enterCarry := fun d l =>
  NoAccess.setMode .carry { d with service := { d.service with carry := some (timePlus d.time (d.service.carryLimit * 1000000)) } } l

theorem NoAccess.serviceFailure (e : ServiceEvent) : NoAccess fun d => d.serviceFailure e := fun d l => by
  have hcapture : (Device.withArbiter { d with service := { d.service with recent := e } } l).captureFault .serviceLost none none =
      (Device.captureFault { d with service := { d.service with recent := e } } .serviceLost none none).withArbiter l :=
    NoAccess.captureFault .serviceLost none none _ l
  show (if d.mode = .attended then ((Device.withArbiter { d with service := { d.service with recent := e } } l).captureFault .serviceLost none none).enterCarry
    else (Device.withArbiter { d with service := { d.service with recent := e } } l).captureFault .serviceLost none none) = (d.serviceFailure e).withArbiter l
  rw [hcapture, Device.serviceFailure]
  split
  case isTrue => exact NoAccess.enterCarry _ l
  case isFalse => rfl

theorem NoAccess.goodService : NoAccess Device.goodService := by
  have hreturn : NoAccess fun d : Device =>
      ({ d with service := { ({ d.service with recent := .good } : Service).begin d.time with carry := none } } : Device).setMode .attended :=
    NoAccess.comp (f := fun d => { d with service := { ({ d.service with recent := .good } : Service).begin d.time with carry := none } })
      (NoAccess.setMode .attended) fun _ _ => rfl
  exact NoAccess.ite (c := fun d => d.mode = .carry) hreturn
    (g := fun d => { d with service := ({ d.service with recent := .good } : Service).begin d.time }) fun _ _ => rfl

theorem NoAccess.serviceWrite (w : Word) : NoAccess fun d => d.serviceWrite w := by
  have hearly : NoAccess fun d => ({ d with service := d.service.begin d.time } : Device).serviceFailure .early :=
    NoAccess.comp (f := fun d => { d with service := d.service.begin d.time }) (NoAccess.serviceFailure .early) fun _ _ => rfl
  exact NoAccess.ite (c := fun d => d.mode = .init) NoAccess.id
    (NoAccess.ite (c := fun _ => oddParity w = true) (NoAccess.serviceFailure .parity)
      (NoAccess.ite (c := fun d => d.service.isEarly d.time = true) hearly NoAccess.goodService))

theorem NoAccess.serviceTimeout : NoAccess Device.serviceTimeout := by
  have hlate : NoAccess fun d => ({ d with service := d.service.begin d.time } : Device).serviceFailure .timeout :=
    NoAccess.comp (f := fun d => { d with service := d.service.begin d.time }) (NoAccess.serviceFailure .timeout) fun _ _ => rfl
  exact NoAccess.ite (c := fun d => d.service.expired d.time = true) hlate NoAccess.id

theorem NoAccess.closedEnds : NoAccess Device.closedEnds :=
  NoAccess.ite (c := fun d => d.closedDue = true) (f := fun d => { d with service := { d.service with phase := .openPhase } }) (fun _ _ => rfl) NoAccess.id

/-- R172: what a failure leaves of the monitor and the mode. -/
theorem Device.serviceFailure_service (d : Device) (e : ServiceEvent) : (d.serviceFailure e).service =
    { d.service with
      recent := e, carry := if d.mode = .attended then some (timePlus d.time (d.service.carryLimit * 1000000)) else d.service.carry } := by
  unfold Device.serviceFailure
  split <;> simp [Device.enterCarry, Device.setMode, *]

theorem Device.serviceFailure_mode (d : Device) (e : ServiceEvent) : (d.serviceFailure e).mode = if d.mode = .attended then .carry else d.mode := by
  unfold Device.serviceFailure
  split <;> simp [Device.enterCarry, Device.setMode]

theorem Device.serviceFailure_attn (d : Device) (e : ServiceEvent) : (d.serviceFailure e).attn = if d.mode = .attended then d.attn ||| 16 ||| 8 else d.attn ||| 16 := by
  unfold Device.serviceFailure
  split <;> simp [Device.enterCarry, Device.setMode, Cause.bit]

theorem Device.serviceFailure_fault (d : Device) (e : ServiceEvent) : (d.serviceFailure e).attn.getLsbD 4 = true := by
  rw [Device.serviceFailure_attn]
  split <;> simp

theorem Device.serviceFailure_modeCause {d : Device} (h : d.mode = .attended) (e : ServiceEvent) : (d.serviceFailure e).attn.getLsbD 3 = true := by
  rw [Device.serviceFailure_attn, if_pos h]
  simp

theorem Device.serviceFailure_capture {d : Device} (h : d.capture = none) (e : ServiceEvent) : (d.serviceFailure e).capture =
    some { kind := .serviceLost, port := none, slot := none, pi := d.currentPI, time := d.time, more := 0 } := by
  have hcapture := Device.captureFault_capture_of_empty (d := { d with service := { d.service with recent := e } }) h .serviceLost none none
  unfold Device.serviceFailure
  split
  case isTrue => exact (by simp [Device.enterCarry] : _ = _).trans hcapture
  case isFalse => exact hcapture

/-- A failure touches neither memory nor the timeline, the follower or the house scene. -/
theorem Device.serviceFailure_frame (d : Device) (e : ServiceEvent) : (d.serviceFailure e).time = d.time ∧ (d.serviceFailure e).mem = d.mem ∧
    (d.serviceFailure e).planner = d.planner ∧ (d.serviceFailure e).globals = d.globals ∧ (d.serviceFailure e).ports = d.ports ∧
    (d.serviceFailure e).follower = d.follower ∧ (d.serviceFailure e).house = d.house := by
  unfold Device.serviceFailure
  split <;> simp [Device.enterCarry, Device.setMode]

theorem Device.goodService_service (d : Device) : d.goodService.service = { d.service with
    recent := .good, phase := if d.service.window then .closed else .openPhase, start := d.time, length := d.service.period
    carry := if d.mode = .carry then none else d.service.carry } := by
  unfold Device.goodService
  split <;> simp [Device.setMode, Service.begin, *]

theorem Device.goodService_mode (d : Device) : d.goodService.mode = if d.mode = .carry then .attended else d.mode := by
  unfold Device.goodService
  split <;> simp [Device.setMode]

theorem Device.goodService_attn {d : Device} (h : d.mode = .carry) : d.goodService.attn.getLsbD 3 = true := by
  unfold Device.goodService
  rw [if_pos h]
  simp [Device.setMode, Cause.bit]

theorem Device.goodService_capture (d : Device) : d.goodService.capture = d.capture := by
  unfold Device.goodService
  split <;> simp [Device.setMode]

theorem exec_service (w : Word) (s : State) : exec (.service w) s = .next { s with toDevice := s.serviceWrite w } :=
  NoAccess.exec (c := .service w) (NoAccess.serviceWrite w) rfl s

/-- Settles O17: the four judgements of R171 and R172 with the effects of each. -/
theorem serviceJudged : Obligations.ServiceJudged := by
  intro w s
  refine ⟨fun hinit => ?_, fun hmode hodd => ?_, fun hmode hodd hearly => ?_, fun hmode hodd hearly => ?_⟩
  · rw [exec_service, Device.serviceWrite, if_pos hinit]
  · have hwrite : s.serviceWrite w = s.serviceFailure .parity := by rw [Device.serviceWrite, if_neg hmode, if_pos hodd]
    refine ⟨_, exec_service w s, ?_⟩
    rw [hwrite, Device.serviceFailure_service, Device.serviceFailure_mode]
    exact ⟨rfl, rfl, Device.serviceFailure_fault _ _, fun h => Device.serviceFailure_modeCause h _⟩
  · have hwrite : s.serviceWrite w = ({ s.toDevice with service := s.service.begin s.time } : Device).serviceFailure .early := by
      rw [Device.serviceWrite, if_neg hmode, if_neg (by simp [hodd]), if_pos hearly]
    refine ⟨_, exec_service w s, ?_⟩
    rw [hwrite, Device.serviceFailure_service, Device.serviceFailure_mode]
    exact ⟨rfl, rfl, Device.serviceFailure_fault _ _, fun h => Device.serviceFailure_modeCause (d := { s.toDevice with service := s.service.begin s.time }) h _⟩
  · have hwrite : s.serviceWrite w = s.goodService := by
      rw [Device.serviceWrite, if_neg hmode, if_neg (by simp [hodd]), if_neg (by simp [hearly])]
    refine ⟨_, exec_service w s, ?_⟩
    rw [hwrite, Device.goodService_service, Device.goodService_mode, Device.goodService_capture]
    exact ⟨rfl, rfl, fun h => Device.goodService_attn h, rfl⟩

theorem timeReached_iff (a b : Time) : timeReached a b = true ↔ 0 ≤ timeDiff a b := decide_eq_true_iff

theorem Service.expired_iff (x : Service) (now : Time) : x.expired now = true ↔ x.phase ≠ .stopped ∧ 0 ≤ timeDiff now (timePlus x.start x.length) := by
  simp [Service.expired, timeReached_iff]

theorem Device.closedDue_iff (d : Device) : d.closedDue = true ↔
    d.service.phase = .closed ∧ 0 ≤ timeDiff d.time (timePlus d.service.start (d.service.length / 2)) := by
  simp [Device.closedDue, Service.halfReached, timeReached_iff]

/-- Settles O51: the two ends of R171, each at its time and not before. -/
theorem servicePeriods : Obligations.ServicePeriods := by
  intro s
  have htimeout : exec .serviceTimeout s = .next { s with toDevice := s.serviceTimeout } :=
    NoAccess.exec (c := .serviceTimeout) NoAccess.serviceTimeout rfl s
  have hclosed : exec .closedPhaseEnd s = .next { s with toDevice := s.closedEnds } :=
    NoAccess.exec (c := .closedPhaseEnd) NoAccess.closedEnds rfl s
  refine ⟨fun hnot => ?_, fun hphase hdue => ?_, fun hphase hdue => ?_, fun hnot => ?_⟩
  · have hearly : ¬ s.service.expired s.time = true := fun h => by
      obtain ⟨hphase, hdue⟩ := (Service.expired_iff _ _).mp h
      exact hnot.elim hphase fun h => h hdue
    rw [htimeout, Device.serviceTimeout, if_neg hearly]
  · have hexpired : s.serviceTimeout = ({ s.toDevice with service := s.service.begin s.time } : Device).serviceFailure .timeout :=
      if_pos ((Service.expired_iff _ _).mpr ⟨hphase, hdue⟩)
    refine ⟨_, htimeout, ?_⟩
    rw [hexpired, Device.serviceFailure_service, Device.serviceFailure_mode]
    exact ⟨rfl, rfl, Device.serviceFailure_fault _ _, fun h => Device.serviceFailure_modeCause (d := { s.toDevice with service := s.service.begin s.time }) h _,
      fun h => Device.serviceFailure_capture (d := { s.toDevice with service := s.service.begin s.time }) h _, Device.serviceFailure_frame _ _⟩
  · rw [hclosed, Device.closedEnds, if_pos ((Device.closedDue_iff _).mpr ⟨hphase, hdue⟩)]
  · rw [hclosed, Device.closedEnds, if_neg fun h => hnot ((Device.closedDue_iff _).mp h)]

end Sys2Proof.Machine
end

section
/-! PROOFS. The take of a slot (R83, R85): what a take's beginning leaves alone, the command of a take, and the takes that end at once. -/
namespace Sys2Proof.Machine

/-! ## What the beginning of a take leaves alone -/

section
variable (d : Device) (n : Nat)

theorem Device.beginTake_all : d.beginTake n = { d with
    notices := d.advance.notices, sweep := d.advance.sweep, overflow := d.advance.overflow, writer := d.advance.writer
    writerAgain := d.advance.writerAgain, prot := insertNat n d.prot, seq := d.seq + 1 } := by
  rw [Device.beginTake_frame, Device.advance_frame]

@[simp] theorem Device.beginTake_time : (d.beginTake n).time = d.time := (congrArg Device.time (d.beginTake_all n) :)
@[simp] theorem Device.beginTake_planner : (d.beginTake n).planner = d.planner := (congrArg Device.planner (d.beginTake_all n) :)
@[simp] theorem Device.beginTake_globals : (d.beginTake n).globals = d.globals := (congrArg Device.globals (d.beginTake_all n) :)
@[simp] theorem Device.beginTake_follower : (d.beginTake n).follower = d.follower := (congrArg Device.follower (d.beginTake_all n) :)
@[simp] theorem Device.beginTake_ports : (d.beginTake n).ports = d.ports := (congrArg Device.ports (d.beginTake_all n) :)
@[simp] theorem Device.beginTake_house : (d.beginTake n).house = d.house := (congrArg Device.house (d.beginTake_all n) :)
@[simp] theorem Device.beginTake_mode : (d.beginTake n).mode = d.mode := (congrArg Device.mode (d.beginTake_all n) :)
@[simp] theorem Device.beginTake_service : (d.beginTake n).service = d.service := (congrArg Device.service (d.beginTake_all n) :)
@[simp] theorem Device.beginTake_attn : (d.beginTake n).attn = d.attn := (congrArg Device.attn (d.beginTake_all n) :)
@[simp] theorem Device.beginTake_capture : (d.beginTake n).capture = d.capture := (congrArg Device.capture (d.beginTake_all n) :)
@[simp] theorem Device.beginTake_port (p : PortIx) : (d.beginTake n).port p = d.port p := by
  rw [Device.port, Device.port, Device.beginTake_ports]
@[simp] theorem Device.beginTake_field (k off size : Nat) : (d.beginTake n).field k off size = d.field k off size := by
  simp only [Device.field, Device.peek, Device.beginTake_mem]
@[simp] theorem Device.beginTake_currentPI : (d.beginTake n).currentPI = d.currentPI := Device.currentPI_congr (d.beginTake_planner n)

end

/-! ## The checks read the slot, the mode, the port kinds, the transport and the follower -/

/-- The two devices agree on all that the checks of slot n read. -/
structure SameChecked (n : Nat) (d e : Device) : Prop where
  slot : SameSlot n d e
  mode : e.mode = d.mode
  ports : e.ports = d.ports
  planner : e.planner = d.planner
  follower : e.follower = d.follower

namespace SameChecked
variable {n : Nat} {d e : Device} (h : SameChecked n d e)
include h

theorem field (off size : Nat) (hf : off + size ≤ 64 := by decide) : e.field n off size = d.field n off size := h.slot.field off size hf
theorem kindOf : e.kindOf n = d.kindOf n := h.field 1 1
theorem portByte : e.portByte n = d.portByte n := h.field 4 1
theorem fireMode : e.fireMode n = d.fireMode n := h.field 5 1
theorem latenessOf : e.latenessOf n = d.latenessOf n := h.field 6 1
theorem optionsOf : e.optionsOf n = d.optionsOf n := h.field 7 1
theorem fireValue : e.fireValue n = d.fireValue n := h.field 8 4
theorem intervalOf : e.intervalOf n = d.intervalOf n := h.field 12 2
theorem countOf : e.countOf n = d.countOf n := h.field 14 2
theorem port (p : PortIx) : e.port p = d.port p := congrArg (fun l => l.get p) h.ports
theorem selects (i : Nat) : e.selects n i = d.selects n i := by rw [Device.selects, Device.selects, h.field 16 2]

theorem isPortCue : e.isPortCue n = d.isPortCue n := by rw [Device.isPortCue, Device.isPortCue, h.kindOf, h.portByte]
theorem isNowOnly : e.isNowOnly n = d.isNowOnly n := by rw [Device.isNowOnly, Device.isNowOnly, h.kindOf, h.portByte, h.field 16 1]
theorem mayRepeat : e.mayRepeat n = d.mayRepeat n := by rw [Device.mayRepeat, Device.mayRepeat, h.kindOf, h.portByte]
theorem modeAccepts : e.modeAccepts n = d.modeAccepts n := by rw [Device.modeAccepts, Device.modeAccepts, h.mode, h.kindOf, h.portByte]
theorem badPort : e.badPort n = d.badPort n := by
  rw [Device.badPort, Device.badPort, h.kindOf, h.portByte, h.optionsOf, h.field 16 1]
theorem namedKind : e.namedKind n = d.namedKind n := by
  simp only [Device.namedKind, h.portByte, h.port]
theorem wrongPortKind : e.wrongPortKind n = d.wrongPortKind n := by
  rw [Device.wrongPortKind, Device.wrongPortKind, h.kindOf, h.portByte, h.namedKind]
theorem badFire : e.badFire n = d.badFire n := by rw [Device.badFire, Device.badFire, h.fireMode, h.isNowOnly, h.fireValue]
theorem badRepeat : e.badRepeat n = d.badRepeat n := by rw [Device.badRepeat, Device.badRepeat, h.mayRepeat, h.intervalOf, h.countOf]
theorem badSend : e.badSend n = d.badSend n := by
  rw [Device.badSend, Device.badSend, h.optionsOf, h.field 16 1, h.field 20 2, h.field 22 1, h.field 23 1]
theorem badScene : e.badScene n = d.badScene n := by
  rw [Device.badScene, Device.badScene, h.portByte, h.field 16 1, h.field 20 1, h.field 21 1, h.field 22 1, h.field 23 1]
theorem badCancel : e.badCancel n = d.badCancel n := by rw [Device.badCancel, Device.badCancel, h.optionsOf, h.field 16 2, h.field 17 1]
theorem badAmend : e.badAmend n = d.badAmend n := by rw [Device.badAmend, Device.badAmend, h.field 16 2, h.field 20 1, h.field 24 4]
theorem badSetup : e.badSetup n = d.badSetup n := by
  simp only [Device.badSetup, h.selects, h.field 18 1, h.field 19 1, h.field 24 1, h.field 26 1, h.field 27 1, h.field 28 1]
theorem badPayload : e.badPayload n = d.badPayload n := by
  rw [Device.badPayload, Device.badPayload, h.kindOf, h.field 16 4, h.field 16 1, h.field 17 1, h.badSend, h.badScene, h.badCancel, h.badAmend, h.badSetup]
theorem badField : e.badField n = d.badField n := by
  rw [Device.badField, Device.badField, h.badFire, h.isPortCue, h.latenessOf, h.badRepeat, h.badPayload]
theorem badBulk : e.badBulk n = d.badBulk n := by
  rw [Device.badBulk, Device.badBulk, h.kindOf, h.optionsOf, h.field 16 4, h.field 20 2]
theorem wrongTransport : e.wrongTransport n = d.wrongTransport n := by
  simp only [Device.wrongTransport, Device.wrongAction, Device.runUnderWay, h.planner, h.kindOf, h.isPortCue, h.fireMode, h.field 16 1]
theorem whileFollowing : e.whileFollowing n = d.whileFollowing n := by
  rw [Device.whileFollowing, Device.whileFollowing, h.kindOf, h.follower]

theorem validate : e.validate n = d.validate n := by
  rw [Device.validate, Device.validate, h.kindOf, h.modeAccepts, h.badPort, h.wrongPortKind, h.badField, h.badBulk, h.wrongTransport, h.whileFollowing]

end SameChecked

theorem SameChecked.beginTake (d : Device) (n k : Nat) : SameChecked k d (d.beginTake n) where
  slot := SameSlot.ofMem (d.beginTake_mem n)
  mode := d.beginTake_mode n
  ports := d.beginTake_ports n
  planner := d.beginTake_planner n
  follower := d.beginTake_follower n

@[simp] theorem Device.beginTake_validate (d : Device) (n k : Nat) : (d.beginTake n).validate k = d.validate k := (SameChecked.beginTake d n k).validate

/-! ## The command of a take -/

theorem TakeRow.command_alone (row : TakeRow) : isAlone row.command = false := by cases row <;> rfl

theorem operationOf_command (row : TakeRow) (d : Device) : operationOf row.command d = d.takeNext row row.effect := by cases row <;> rfl

/-- The effect of an accepted cue lets no access wait where none did. -/
theorem TakeRow.effect_arbiter (row : TakeRow) (k : Nat) (q : BitVec 32) {d : Device} (h : d.arbiter = []) : (row.effect k q d).arbiter = [] := by
  cases row
  case badKind => exact (Keeps.takeBadKind (n := 0) k q d).arbiter h
  case tempo => exact (Keeps.takeTempo k q d).arbiter h
  case meter => exact (Keeps.takeMeter k q d).arbiter h
  case transportStart => exact (Keeps.takeStart k q d).arbiter h
  case transportContinue => exact (Keeps.takeContinue k q d).arbiter h
  case transportStop => exact (Keeps.takeStop k q d).arbiter h
  case send | portRun | scene => exact (Keeps.takePortCue (n := 0) _ k q d).arbiter h
  case sceneHouse => exact (Keeps.takeSceneHouse k q d).arbiter h
  case cancelBySlot => exact (Keeps.takeCancelSlot k q d).arbiter h
  case cancelBySelector => exact (Keeps.takeCancelSelector k q d).arbiter h
  case amend => exact (Keeps.takeAmend k q d).arbiter h
  case report => exact (Keeps.takeReport (n := 0) k q d).arbiter h
  case portSetup => exact (Keeps.takePortSetup k q d).arbiter h
  case followSetup => exact (Keeps.takeFollowSetup k q d).arbiter h
  case supervise => exact (Keeps.takeSupervise k q d).arbiter h
  case keep => simp only [TakeRow.effect, Device.takeKeep, Device.done, Device.finishSlot_arbiter, h]

theorem Device.takes_of {d : Device} {row : TakeRow} {n : Nat} (hnext : d.nextSlot = some n) (hposted : d.slotState n = stPosted) (hrow : d.takeRow n = row) :
    d.takes row = some n := by
  simp only [Device.takes, hnext, hposted, hrow, and_self, if_true]

section
variable {s : State} {row : TakeRow} {n : Nat} (h : s.NextTake row n)
include h

theorem State.NextTake.idle : s.arbiter = [] := h.quiet.idle

theorem State.NextTake.begun_idle : (s.beginTake n).arbiter = [] := (Device.beginTake_arbiter _ n).trans h.idle

theorem State.NextTake.takeNext_eq : s.takeNext row row.effect =
    match s.validate n with
    | some r => (s.beginTake n).refuse n r
    | none => row.effect n s.seq (s.beginTake n) := by
  simp only [Device.takeNext, Device.takes_of h.next h.posted h.row, Device.runTake, Device.readRecord_quiet h.idle, Device.beginTake_validate] <;> rfl

/-- R85: a take that a check fails. -/
theorem State.NextTake.exec_refused {r : Reason} (hv : s.validate n = some r) :
    exec row.command s = .next { s with toDevice := (s.beginTake n).refuse n r } := by
  have htake : operationOf row.command s.toDevice = (s.beginTake n).refuse n r := by
    rw [operationOf_command, h.takeNext_eq, hv]
  have hidle : (operationOf row.command s.toDevice).arbiter = [] := by
    rw [htake]
    exact (Keeps.refuse (n := 0) _ n r).arbiter h.begun_idle
  rw [exec_of_quiet h.quiet row.command_alone hidle, htake]

/-- R89: a take that passes the checks. -/
theorem State.NextTake.exec_accepted (hv : s.validate n = none) :
    exec row.command s = .next { s with toDevice := row.effect n s.seq (s.beginTake n) } := by
  have htake : operationOf row.command s.toDevice = row.effect n s.seq (s.beginTake n) := by
    rw [operationOf_command, h.takeNext_eq, hv]
  have hidle : (operationOf row.command s.toDevice).arbiter = [] := by
    rw [htake]
    exact row.effect_arbiter n s.seq h.begun_idle
  rw [exec_of_quiet h.quiet row.command_alone hidle, htake]

/-- A take that ends its slot, from a state with the memory and the intake registers of the take's beginning. -/
theorem State.NextTake.ends {b : Device} {st : Nat} (r : Result) (hst : st < 256) (hidle : b.arbiter = []) (hmem : b.mem = s.mem)
    (hprot : b.prot = (s.beginTake n).prot) (hnotices : b.notices = (s.beginTake n).notices) (hsweep : b.sweep = (s.beginTake n).sweep)
    (hoverflow : b.overflow = (s.beginTake n).overflow) (hseq : b.seq = (s.beginTake n).seq) : s.TakeEnds (b.finishSlot n st r) n st r := by
  refine Device.takeEnds_finishSlot r hidle h.mem h.slot hst hmem ?_ hnotices hsweep hoverflow hseq
  rw [hprot, Device.beginTake_prot, Device.advance_prot]

end

/-! ## What the accesses of a take change, while no host access waits -/

/-- Only memory, protection flags, counter and causes differ. -/
def Wrote (d e : Device) : Prop := e = { d with mem := e.mem, prot := e.prot, seq := e.seq, attn := e.attn }

theorem Wrote.refl (d : Device) : Wrote d d := rfl

theorem Wrote.trans {d e f : Device} (a : Wrote d e) (b : Wrote e f) : Wrote d f :=
  Eq.trans b (congrArg (fun x : Device => { x with mem := f.mem, prot := f.prot, seq := f.seq, attn := f.attn }) a)

theorem Wrote.write (d : Device) (a n v : Nat) : Wrote d (d.write a n v) := rfl

theorem Wrote.writeResult {d : Device} (h : d.arbiter = []) (n : Nat) (r : Result) : Wrote d (d.writeResult n r) := by
  rw [Device.writeResult_quiet h]
  exact (((((Wrote.write _ _ _ _).trans (.write _ _ _ _)).trans (.write _ _ _ _)).trans (.write _ _ _ _)).trans (.write _ _ _ _)).trans
    ((Wrote.write _ _ _ _).trans (.write _ _ _ _))

theorem Wrote.finishSlot {d : Device} (h : d.arbiter = []) (n st : Nat) (r : Result) : Wrote d (d.finishSlot n st r) := by
  rw [Device.finishSlot_quiet h]
  refine (Wrote.writeResult h n r).trans ((Wrote.write _ (slotBase n) 1 st).trans ?_)
  generalize (d.writeResult n r).write (slotBase n) 1 st = e
  exact rfl

/-- A take that changes nothing but its slot leaves the part as intake does. -/
theorem Wrote.intake {d e : Device} {n : Nat} (h : Wrote (d.beginTake n) e) : e = d.intakeOf e := h

/-! ## Refused takes -/

theorem Device.takeRow_badKind {d : Device} {n : Nat} (h : d.takeRow n = .badKind) : isKindCode (d.kindOf n) = false := by
  unfold Device.takeRow at h
  split at h <;> first | cases h | skip
  case h_3 => split at h <;> cases h
  case h_6 => split at h <;> cases h
  case h_7 => split at h <;> cases h
  case h_14 => simp_all [isKindCode]

@[simp] theorem Device.beginTake_takeResult (d : Device) (n : Nat) (r : Reason) (c : Bool) (aux : Nat) :
    (d.beginTake n).takeResult r c aux = d.takeResult r c aux := by
  simp only [Device.takeResult, Device.beginTake_currentPI, Device.beginTake_time]

@[simp] theorem Device.refuse_attn {d : Device} (h : d.arbiter = []) (n : Nat) (r : Reason) : (d.refuse n r).attn = d.attn ||| 1 :=
  Device.finishSlot_attn h n stRefused _

/-- What a take leaves that ends REFUSED. -/
theorem State.NextTake.refused {s : State} {row : TakeRow} {n : Nat} (h : s.NextTake row n) (r : Reason) :
    s.TakeEnds ((s.beginTake n).refuse n r) n stRefused (s.takeResult r false 0) ∧ (s.beginTake n).refuse n r = s.intakeOf ((s.beginTake n).refuse n r) ∧
      ((s.beginTake n).refuse n r).attn = s.attn ||| 1 := by
  refine ⟨?_, (Wrote.finishSlot h.begun_idle n stRefused _).intake, ?_⟩
  · rw [Device.refuse, Device.beginTake_takeResult]
    exact h.ends _ (by decide) h.begun_idle (s.beginTake_mem n) rfl rfl rfl rfl rfl
  · rw [Device.refuse_attn h.begun_idle, Device.beginTake_attn]

/-- Settles O21: the refusal's result writes, and that BAD_KIND's row is that of an unknown kind. -/
theorem refusedTake : Obligations.RefusedTake := by
  intro row s n reason h hv
  obtain ⟨hends, hframe, hattn⟩ := h.refused reason
  refine ⟨_, h.exec_refused hv, hends, hframe, hattn, fun hrow => ?_⟩
  rw [Device.validate, Device.takeRow_badKind (h.row.trans hrow)]
  rfl

end Sys2Proof.Machine
end

section
/-! PROOFS. The takes that end their slot at once: a held TEMPO, the setup cues, the house scene, a report. -/
namespace Sys2Proof.Machine

/-! ## Takes that end FIRED or DONE at once -/

/-- A take whose effect ends its slot, from a part whose memory and intake registers are those of the take's beginning. -/
theorem State.NextTake.finished {s : State} {row : TakeRow} {n : Nat} (h : s.NextTake row n) (hv : s.validate n = none) {b : Device} {st : Nat} {r : Result}
    (heffect : row.effect n s.seq (s.beginTake n) = b.finishSlot n st r) (hst : st < 256)
    (hidle : b.arbiter = (s.beginTake n).arbiter := by rfl) (hmem : b.mem = (s.beginTake n).mem := by rfl) (hprot : b.prot = (s.beginTake n).prot := by rfl)
    (hnotices : b.notices = (s.beginTake n).notices := by rfl) (hsweep : b.sweep = (s.beginTake n).sweep := by rfl)
    (hoverflow : b.overflow = (s.beginTake n).overflow := by rfl) (hseq : b.seq = (s.beginTake n).seq := by rfl) :
    ∃ d : Device, exec row.command s = .next { s with toDevice := d } ∧ s.TakeEnds d n st r ∧ Wrote b d ∧ d.attn = b.attn ||| 1 := by
  have hquiet : b.arbiter = [] := hidle.trans h.begun_idle
  refine ⟨b.finishSlot n st r, ?_, h.ends r hst hquiet (hmem.trans (s.beginTake_mem n)) hprot hnotices hsweep hoverflow hseq, Wrote.finishSlot hquiet n st r,
    Device.finishSlot_attn hquiet n st r⟩
  rw [h.exec_accepted hv, heffect]

/-- R46: the first PI of the next run. -/
theorem Device.nextFirst_eq (d : Device) :
    d.nextFirst = match d.planner.stopped with | some r => if r.pi < 4294967295 then r.pi + 1 else 0 | none => 0 := rfl

/-- The part with a held period, as a NOW TEMPO taken while STOPPED leaves the planner (R46). -/
def Device.withHeldPeriod (d : Device) (p : Nat) : Device := { d with planner := { d.planner with heldPeriod := p } }

theorem Device.holdTempo_eq (d : Device) (n : Nat) (x : Clamped Nat) : d.holdTempo n x = (d.withHeldPeriod x.value).finishSlot n stFired
    { reason := .none, flags := CueFlags.ofClamped x.flag, revision := 1, firePI := d.nextFirst, fireTime := timeLow32 d.time, fired := 1, aux := 0 } := rfl

theorem Wrote.intake_heldPeriod {d e : Device} {n p : Nat} (h : Wrote ((d.beginTake n).withHeldPeriod p) e) :
    e = { d.intakeOf e with planner := { d.planner with heldPeriod := p } } := by
  rw [Device.withHeldPeriod, Device.beginTake_planner] at h
  exact h

theorem takeTempo_held {n : Nat} {q : BitVec 32} {d : Device} (hnow : d.fireMode n = 0) (hstopped : d.planner.transport = .stopped) :
    Device.takeTempo n q d = d.holdTempo n (clampTempoField (d.field n 16 4)) :=
  if_pos ⟨hnow, by rw [Device.runUnderWay, hstopped]; rfl⟩

/-- Settles O22: the take replaces the held period and ends its slot. -/
theorem tempoNowWhileStopped : Obligations.TempoNowWhileStopped := by
  intro s n h hv hnow hstopped
  have hmode : (s.beginTake n).fireMode n = 0 := ((SameChecked.beginTake s.toDevice n n).fireMode).trans hnow
  have htransport : (s.beginTake n).planner.transport = .stopped := by rw [Device.beginTake_planner, hstopped]
  have hheld := takeTempo_held (q := s.seq) hmode htransport
  rw [Device.holdTempo_eq, Device.beginTake_field, Device.nextFirst_eq, Device.beginTake_planner, Device.beginTake_time] at hheld
  obtain ⟨d, hexec, hends, hwrote, hattn⟩ := h.finished hv hheld (by decide)
  refine ⟨d, hexec, hends, hwrote.intake_heldPeriod, ?_⟩
  rw [hattn, Device.withHeldPeriod, Device.beginTake_attn]

/-! ## The kind of a row, and what the checks of an accepted cue say -/

/-- The kind code that a row's cue carries (R72); BAD_KIND has none. -/
def TakeRow.kindCode : TakeRow → Option Nat
  | .badKind => none
  | .tempo => some 0x01
  | .meter => some 0x02
  | .transportStart | .transportContinue | .transportStop => some 0x03
  | .send => some 0x10
  | .portRun => some 0x11
  | .scene | .sceneHouse => some 0x12
  | .cancelBySlot | .cancelBySelector => some 0x20
  | .amend => some 0x21
  | .report => some 0x22
  | .portSetup => some 0x30
  | .followSetup => some 0x31
  | .supervise => some 0x32
  | .keep => some 0x33

theorem Device.takeRow_kind {d : Device} {n code : Nat} (h : (d.takeRow n).kindCode = some code) : d.kindOf n = code := by
  unfold Device.takeRow at h
  split at h
  case h_3 hkind => split at h <;> exact hkind.trans (Option.some.inj h)
  case h_6 hkind => split at h <;> exact hkind.trans (Option.some.inj h)
  case h_7 hkind => split at h <;> exact hkind.trans (Option.some.inj h)
  case h_14 => exact absurd h nofun
  all_goals next hkind => exact hkind.trans (Option.some.inj h)

theorem State.NextTake.kind {s : State} {row : TakeRow} {n code : Nat} (h : s.NextTake row n) (hcode : row.kindCode = some code) : s.kindOf n = code :=
  Device.takeRow_kind ((congrArg TakeRow.kindCode h.row).trans hcode)

/-- A cue that passes the checks passes each of them (R85 to R87). -/
structure Device.Passes (d : Device) (n : Nat) : Prop where
  kind : isKindCode (d.kindOf n) = true
  mode : d.modeAccepts n = true
  port : d.badPort n = false
  portKind : d.wrongPortKind n = false
  fields : d.badField n = false
  bulk : d.badBulk n = false
  transport : d.wrongTransport n = false
  free : d.whileFollowing n = false

theorem of_ite_eq_none {α : Type} {c : Prop} [Decidable c] {r : α} {x : Option α} (h : (if c then some r else x) = none) : ¬ c ∧ x = none := by
  split at h
  · cases h
  · next hc => exact ⟨hc, h⟩

theorem Device.passes_of_validate {d : Device} {n : Nat} (h : d.validate n = none) : d.Passes n := by
  unfold Device.validate at h
  obtain ⟨hkind, h⟩ := of_ite_eq_none h
  obtain ⟨hmode, h⟩ := of_ite_eq_none h
  obtain ⟨hport, h⟩ := of_ite_eq_none h
  obtain ⟨hportKind, h⟩ := of_ite_eq_none h
  obtain ⟨hfields, h⟩ := of_ite_eq_none h
  obtain ⟨hbulk, h⟩ := of_ite_eq_none h
  obtain ⟨htransport, h⟩ := of_ite_eq_none h
  obtain ⟨hfree, -⟩ := of_ite_eq_none h
  simp only [Bool.not_eq_true, Bool.not_eq_true', Bool.not_eq_false] at hkind hmode hport hportKind hfields hbulk htransport hfree
  exact ⟨hkind, hmode, hport, hportKind, hfields, hbulk, htransport, hfree⟩

theorem Device.Passes.payload {d : Device} {n : Nat} (h : d.Passes n) : d.badPayload n = false := by
  have hfields := h.fields
  simp only [Device.badField, Bool.or_eq_false_iff] at hfields
  exact hfields.2

/-! ## SUPERVISE (R170) -/

theorem takeSupervise_eq (n : Nat) (q : BitVec 32) (d : Device) : Device.takeSupervise n q d =
    ({ d with service := d.newService n } : Device).finishSlot n stDone (d.takeResult .none (clampTo 1 60 (d.field n 18 1)).flag 0) := rfl

theorem Wrote.intake_service {d e : Device} {n : Nat} {x : Service} (h : Wrote { d.beginTake n with service := x } e) :
    e = { d.intakeOf e with service := x } := h

/-- Table 11-1: the five periods a SUPERVISE may name. -/
theorem servicePeriod_listed {code : Nat} (h : code ≤ 4) :
    [(0, 100000), (1, 200000), (2, 500000), (3, 1000000), (4, 2000000)].contains (code, servicePeriod code) = true := by
  rcases (by omega : code = 0 ∨ code = 1 ∨ code = 2 ∨ code = 3 ∨ code = 4) with rfl | rfl | rfl | rfl | rfl <;> decide

/-- Settles O36: a clamped setup and an ending. -/
theorem supervise : Obligations.Supervise := by
  intro s n h hv
  have hcode : s.field n 17 1 ≤ 4 := by
    have hpayload := (Device.passes_of_validate hv).payload
    rw [Device.badPayload, h.kind rfl] at hpayload
    simp only [Bool.or_eq_false_iff, decide_eq_false_iff_not] at hpayload
    omega
  have heffect := takeSupervise_eq n s.seq (s.beginTake n)
  have hservice : (s.beginTake n).newService n = s.newService n := by simp only [Device.newService, Device.beginTake_service, Device.beginTake_field]
  rw [hservice, Device.beginTake_takeResult, Device.beginTake_field] at heffect
  obtain ⟨d, hexec, hends, hwrote, hattn⟩ := h.finished hv heffect (by decide)
  have hframe := hwrote.intake_service
  have hset : d.service = s.newService n := congrArg Device.service hframe
  refine ⟨d, hexec, hends, ?_, ?_, ?_, ?_, ?_⟩
  · rw [hset, Device.newService]
  · rw [hset]
    exact servicePeriod_listed hcode
  · rw [hset]
    rfl
  · rw [hset]
    exact hframe
  · rw [hattn, Device.beginTake_attn]

/-! ## KEEP (R173) -/

theorem takeKeep_eq (n : Nat) (q : BitVec 32) (d : Device) : Device.takeKeep n q d =
    ({ d with keepPending := some (d.field n 16 1 == 1, n) } : Device).finishSlot n stDone (d.takeResult .none false 0) := rfl

theorem Wrote.intake_keepPending {d e : Device} {n : Nat} {x : Option (Bool × Nat)} (h : Wrote { d.beginTake n with keepPending := x } e) :
    e = { d.intakeOf e with keepPending := x } := h

/-- R173: what the give-back does to KEEP as the host frees or posts the slot. -/
theorem Device.landed_keep {d : Device} {size : AccessSize} {addr data : Word} {v : Bool} (hm : d.MemOk) (hregion : regionOf (hostOffset size addr) = .cueSlots)
    (hstart : hostOffset size addr % 64 = 0) (hpending : d.keepPending = some (v, slotOf (hostOffset size addr))) :
    (wordByte data 0 = 0 → (d.landed size addr data).keep = v ∧ (d.landed size addr data).keepPending = none) ∧
      (wordByte data 0 = 1 → (d.landed size addr data).keep = d.keep ∧ (d.landed size addr data).keepPending = none) := by
  have hland := Device.landSlot_eq d (hostOffset size addr) (accessBytes size data)
  have hkept : (d.landSlot (hostOffset size addr) (accessBytes size data)).keepPending = some (v, slotOf (hostOffset size addr)) := by rw [hland]; exact hpending
  refine ⟨fun hfree => ?_, fun hposted => ?_⟩
  · have hstate := Device.slotState_landed hm hregion hstart (.inl hfree)
    rw [hfree] at hstate
    rw [Device.landed, Device.giveBack_free hkept hstate]
    exact ⟨rfl, rfl⟩
  · have hstate := Device.slotState_landed hm hregion hstart (.inr hposted)
    rw [hposted] at hstate
    rw [Device.landed, Device.giveBack_posted hkept hstate, hland]
    exact ⟨rfl, rfl⟩

/-- Settles O37: the take, and the two host writes that end the request. -/
theorem keep : Obligations.Keep := by
  refine ⟨fun s n h hv => ?_, fun size addr data s v hregion hfree hm hahead hstart hpending => ?_⟩
  · have heffect := takeKeep_eq n s.seq (s.beginTake n)
    rw [Device.beginTake_takeResult, Device.beginTake_field] at heffect
    obtain ⟨d, hexec, hends, hwrote, hattn⟩ := h.finished hv heffect (by decide)
    exact ⟨d, hexec, hends, hwrote.intake_keepPending, hattn.trans (congrArg (· ||| 1) (s.beginTake_attn n))⟩
  · obtain ⟨hkeep, hgone⟩ := Device.hostWrite_slot_keep (d := s.toDevice) (data := data) hregion hfree
    refine ⟨s.hostWrite size addr data, exec_hostSlotWrite size addr data hahead, ?_⟩
    rw [hkeep, hgone]
    exact Device.landed_keep hm hregion hstart hpending

end Sys2Proof.Machine
end

section
/-! PROOFS. The setup cues PORT SETUP in INIT and FOLLOW SETUP, and the cues that read or write more than their slot's end: REPORT, SCENE to the house. -/
namespace Sys2Proof.Machine

/-! ## A take that changes more than its slot -/

theorem Device.taken_of_keeps {d b : Device} {n : Nat} (hk : Keeps 0 (d.beginTake n) b) (hidle : d.arbiter = []) {e : Device} (hw : Wrote b e) (hseq : e.seq = b.seq) :
    d.Taken e := by
  have hbegun : (d.beginTake n).arbiter = [] := (d.beginTake_arbiter n).trans hidle
  constructor
  · rw [congrArg Device.notices hw]
    exact (hk.notices hbegun).trans (d.advance_notices)
  · rw [congrArg Device.sweep hw]
    exact hk.sweep
  · rw [congrArg Device.overflow hw]
    exact hk.overflow hbegun
  · rw [hseq, hk.seq, Device.beginTake_seq]

/-- A take whose effect ends its slot after operations of the part's own. -/
theorem State.NextTake.shown {s : State} {row : TakeRow} {n : Nat} (h : s.NextTake row n) (hv : s.validate n = none) {b : Device} {st : Nat} {r : Result}
    (heffect : row.effect n s.seq (s.beginTake n) = b.finishSlot n st r) (hst : st < 256) (hk : Keeps 0 (s.beginTake n) b) :
    ∃ d : Device, exec row.command s = .next { s with toDevice := d } ∧ d.Shows n st r ∧ s.Taken d ∧ Wrote b d ∧ d.attn = b.attn ||| 1 ∧
      b.SameBytes d (endBytes n) ∧ d.prot = b.prot.filter (· != n) := by
  have hidle : b.arbiter = [] := hk.arbiter h.begun_idle
  have hmem : b.MemOk := hk.mem ((congrArg (fun m => Memory.wf m = true) (s.beginTake_mem n)).mpr h.mem)
  refine ⟨b.finishSlot n st r, by rw [h.exec_accepted hv, heffect], Device.finishSlot_shows hidle r hmem h.slot hst,
    Device.taken_of_keeps hk h.idle (Wrote.finishSlot hidle n st r) (Device.finishSlot_seq b n st r), Wrote.finishSlot hidle n st r,
    Device.finishSlot_attn hidle n st r, Device.finishSlot_bytes hidle n st r, Device.finishSlot_prot b n st r⟩

/-! ## PORT SETUP in INIT (R77, R88, R110) -/

theorem portOf_val (p : PortIx) : portOf p.val = some p := dif_pos p.isLt

theorem takePortSetup_eq {n : Nat} {q : BitVec 32} {d : Device} {p : PortIx} (hp : d.portByte n = p.val) : Device.takePortSetup n q d =
    (d.applySetup p (d.newSettings n (d.port p).settings)).finishSlot n stDone (d.takeResult .none (d.setupClamped n) 0) := by
  rw [Device.takePortSetup, hp, portOf_val] <;> rfl

theorem SameChecked.newSettings {n : Nat} {d e : Device} (h : SameChecked n d e) (g : Settings) : e.newSettings n g = d.newSettings n g := by
  simp only [Device.newSettings, h.selects, h.field 18 1, h.field 19 1, h.field 20 4, h.field 24 1, h.field 25 1, h.field 26 1, h.field 27 1, h.field 28 1,
    h.field 29 1]

theorem SameChecked.setupClamped {n : Nat} {d e : Device} (h : SameChecked n d e) : e.setupClamped n = d.setupClamped n := by
  simp only [Device.setupClamped, h.selects, h.field 20 4, h.field 25 1, h.field 29 1]

/-- The port record that a PORT SETUP in INIT leaves (R110, R130). -/
def Port.setUpInInit (x : Port) (new : Settings) : Port := if x.settings.kind = new.kind then x.withSettings new else x.newKind new

theorem Port.setUpInInit_eq (x : Port) (new : Settings) : x.setUpInInit new =
    { x with settings := new, run := (x.setUpInInit new).run, clock := (x.setUpInInit new).clock, mixer := (x.setUpInInit new).mixer } := by
  unfold Port.setUpInInit
  split <;> rfl

theorem Device.applySetup_init {d : Device} (h : d.mode = .init) (p : PortIx) (new : Settings) :
    d.applySetup p new = d.modPort p fun x => x.setUpInInit new := by
  rw [Device.applySetup, if_pos h]
  rfl

theorem Wrote.intake_modPort {d e : Device} {n : Nat} {p : PortIx} {f : Port → Port} (h : Wrote ((d.beginTake n).modPort p f) e) :
    e = { d.intakeOf e with ports := (d.modPort p f).ports } := by
  have hports : ((d.beginTake n).modPort p f).ports = (d.modPort p f).ports := by
    simp only [Device.modPort, Device.setPort, Device.beginTake_port, Device.beginTake_ports]
  rw [← hports]
  exact h

/-- A selected division that passed the checks is a division. -/
theorem Device.Passes.division {d : Device} {n : Nat} (h : d.Passes n) (hkind : d.kindOf n = 0x30) : (d.selects n 2 && isDivision (d.field n 19 1)) = d.selects n 2 := by
  have hpayload := h.payload
  rw [Device.badPayload, hkind] at hpayload
  simp only [Device.badSetup, Bool.or_eq_false_iff, Bool.and_eq_false_iff, Bool.not_eq_false'] at hpayload
  obtain ⟨⟨⟨⟨⟨-, hdivision⟩, -⟩, -⟩, -⟩, -⟩ := hpayload
  rcases hdivision with hoff | hlegal
  · rw [hoff, Bool.false_and]
  · rw [hlegal, Bool.and_true]

/-- Settles O33: the port's record with new settings, and an ending. -/
theorem portSetupInInit : Obligations.PortSetupInInit := by
  intro s n p h hv hp hinit on
  have hchecked := SameChecked.beginTake s.toDevice n n
  have heffect := takePortSetup_eq (q := s.seq) (hchecked.portByte.trans hp)
  rw [Device.beginTake_port, hchecked.newSettings, hchecked.setupClamped, Device.beginTake_takeResult,
    Device.applySetup_init (hchecked.mode.trans hinit)] at heffect
  obtain ⟨d, hexec, hends, hwrote, hattn⟩ := h.finished hv heffect (by decide)
  have hframe := hwrote.intake_modPort
  have hport : ∀ q, d.port q = (s.modPort p fun x => x.setUpInInit (s.newSettings n (s.port p).settings)).port q :=
    fun q => congrArg (fun l : Vector Port 24 => l.get q) (congrArg Device.ports hframe :)
  have hsame : d.port p = (s.port p).setUpInInit (s.newSettings n (s.port p).settings) := (hport p).trans (Device.port_modPort_same _ _ _)
  refine ⟨d, hexec, hends, ?_, ?_, ?_, ?_, ?_, fun q hq => ?_, ?_, ?_⟩
  · rw [hsame, Port.setUpInInit_eq]
    simp only [Device.newSettings, (Device.passes_of_validate hv).division (h.kind rfl), clampNat]
    rfl
  · rw [hsame, Port.setUpInInit_eq]
  · rw [hsame, Port.setUpInInit_eq]
  · rw [hsame, Port.setUpInInit_eq]
  · rw [hsame, Port.setUpInInit_eq]
  · rw [hport, Device.port_modPort_ne _ _ hq]
  · exact hframe.trans (by rw [congrArg Device.ports hframe])
  · rw [hattn, Device.modPort_attn, Device.beginTake_attn]

/-! ## FOLLOW SETUP (R52, R53, R55) -/

/-- Only the follower, the causes and the status-write request differ. -/
def Followed (d e : Device) : Prop := e = { d with follower := e.follower, attn := e.attn, writer := e.writer, writerAgain := e.writerAgain }

/-- R55: a change of follower state, and only that, latches FOLLOW and requests a status write. -/
structure Device.Judged (d e : Device) : Prop where
  frame : Followed d e
  changed : e.follower.state ≠ d.follower.state → e.attn = d.attn ||| 4 ∧ e.writer.isSome = true
  kept : e.follower.state = d.follower.state → e.attn = d.attn ∧ e.writer = d.writer

theorem Device.Judged.withFollower (d : Device) {f : Follower} (hf : f.state = d.follower.state) : d.Judged { d with follower := f } where
  frame := rfl
  changed h := absurd hf h
  kept _ := ⟨rfl, rfl⟩

theorem Device.requestStatus_writers (d : Device) : d.requestStatus = { d with writer := d.requestStatus.writer, writerAgain := d.requestStatus.writerAgain } := by
  unfold Device.requestStatus
  split <;> rfl

theorem Device.setFollower_of_ne {d : Device} {st : FollowerState} (h : d.follower.state ≠ st) :
    d.setFollower st = (({ d with follower := { d.follower with state := st } } : Device).latch .follow).requestStatus := if_neg h

theorem Device.Judged.setFollower (d : Device) {f : Follower} (st : FollowerState) (hf : f.state = d.follower.state) :
    d.Judged (({ d with follower := f } : Device).setFollower st) := by
  by_cases hst : f.state = st
  · rw [show ({ d with follower := f } : Device).setFollower st = { d with follower := f } from if_pos hst]
    exact .withFollower d hf
  · rw [Device.setFollower_of_ne hst]
    refine ⟨?_, fun _ => ⟨?_, Device.requestStatus_writer _⟩, fun hsame => ?_⟩
    · rw [Device.requestStatus_writers]
      exact rfl
    · rw [Device.requestStatus_attn]
      exact rfl
    · rw [Device.requestStatus_follower] at hsame
      exact absurd (hf.trans hsame.symm) hst

theorem Device.Judged.setupFollower (d : Device) (g : FollowSettings) : d.Judged (d.setupFollower g) := by
  unfold Device.setupFollower
  dsimp only
  split
  · exact .setFollower d .off rfl
  split
  · exact .setFollower d .seeking rfl
  split
  · exact .setFollower d .seeking rfl
  split
  · exact .setFollower d .seeking rfl
  · exact .withFollower d rfl

/-- R53: the follower by the four cases. -/
theorem Device.setupFollower_follower (d : Device) (g : FollowSettings) : (d.setupFollower g).follower =
    if !g.follow then { (d.follower.withSetup g).cleared.forgotten with state := .off }
    else if d.follower.state = .off then { (d.follower.withSetup g).cleared.forgotten with state := .seeking }
    else if d.follower.source ≠ g.source then { (d.follower.withSetup g).cleared.forgotten with state := .seeking }
    else if d.follower.offset ≠ g.offset then { (d.follower.withSetup g).cleared with state := .seeking }
    else d.follower.withSetup g := by
  unfold Device.setupFollower
  simp only [apply_ite Device.follower, Device.setFollower_follower]

theorem takeFollowSetup_eq (n : Nat) (q : BitVec 32) (d : Device) : Device.takeFollowSetup n q d =
    (d.setupFollower (d.newFollow n)).finishSlot n stDone (d.takeResult .none (d.followClamped n) 0) := rfl

theorem Wrote.intake_followed {d b e : Device} {n : Nat} (h : Wrote b e) (hb : Followed (d.beginTake n) b) :
    e = { (d.intakeOf e).requestOf e with follower := e.follower } := by
  have hfollower : e.follower = b.follower := (congrArg Device.follower h :)
  have hwriter : e.writer = b.writer := (congrArg Device.writer h :)
  have hagain : e.writerAgain = b.writerAgain := (congrArg Device.writerAgain h :)
  have hall : e = { b with mem := e.mem, prot := e.prot, seq := e.seq, attn := e.attn } := h
  rw [Device.requestOf, hfollower, hwriter, hagain]
  exact Eq.trans hall (congrArg (fun x : Device => { x with mem := e.mem, prot := e.prot, seq := e.seq, attn := e.attn }) hb)

/-- Settles O35: the four cases of R53, and an ending. -/
theorem followSetup : Obligations.FollowSetup := by
  intro s n h hv off g cleared
  have hchecked := SameChecked.beginTake s.toDevice n n
  have heffect := takeFollowSetup_eq n s.seq (s.beginTake n)
  have hnew : (s.beginTake n).newFollow n = s.newFollow n := by simp only [Device.newFollow, Device.beginTake_field]
  have hclamped : (s.beginTake n).followClamped n = s.followClamped n := by simp only [Device.followClamped, Device.beginTake_field]
  rw [hnew, hclamped, Device.beginTake_takeResult] at heffect
  have hjudged := Device.Judged.setupFollower (s.beginTake n) (s.newFollow n)
  have hresult := Device.setupFollower_follower (s.beginTake n) (s.newFollow n)
  have hframe := hjudged.frame
  obtain ⟨d, hexec, hends, hwrote, hattn⟩ := h.finished hv heffect (by decide) (congrArg Device.arbiter hframe :) (congrArg Device.mem hframe :)
    (congrArg Device.prot hframe :) (congrArg Device.notices hframe :) (congrArg Device.sweep hframe :) (congrArg Device.overflow hframe :) (congrArg Device.seq hframe :)
  have hfollower : d.follower = ((s.beginTake n).setupFollower (s.newFollow n)).follower := (congrArg Device.follower hwrote :)
  have hwriter : d.writer = ((s.beginTake n).setupFollower (s.newFollow n)).writer := (congrArg Device.writer hwrote :)
  have hg : s.follower.withSetup (s.newFollow n) = g := rfl
  have hfollow : (s.newFollow n).follow = g.follow := rfl
  have hsource : (s.newFollow n).source = g.source := rfl
  have hoffset : (s.newFollow n).offset = g.offset := rfl
  rw [← hfollower, Device.beginTake_follower, hg, hfollow, hsource, hoffset] at hresult
  refine ⟨d, hexec, hends, fun hoff => ?_, fun hon hwas => ?_, fun hon hwas hmoved => ?_, fun hon hwas hstays hmoved => ?_, fun hon hwas hstays hsame => ?_,
    fun hchange => ?_, fun hkept => ?_, hwrote.intake_followed hframe⟩
  · exact hresult.trans (if_pos (by rw [hoff]; rfl))
  · exact hresult.trans ((if_neg (by rw [hon]; decide)).trans (if_pos hwas))
  · exact hresult.trans ((if_neg (by rw [hon]; decide)).trans ((if_neg hwas).trans (if_pos hmoved)))
  · exact hresult.trans ((if_neg (by rw [hon]; decide)).trans ((if_neg hwas).trans ((if_neg (not_not_intro hstays)).trans (if_pos hmoved))))
  · exact hresult.trans ((if_neg (by rw [hon]; decide)).trans ((if_neg hwas).trans ((if_neg (not_not_intro hstays)).trans (if_neg (not_not_intro hsame)))))
  · rw [hfollower, ← s.beginTake_follower n] at hchange
    obtain ⟨hcause, hrequest⟩ := hjudged.changed hchange
    rw [hattn, hcause, hwriter, Device.beginTake_attn, BitVec.or_assoc]
    exact ⟨rfl, hrequest⟩
  · rw [hfollower, ← s.beginTake_follower n] at hkept
    obtain ⟨hcause, hrequest⟩ := hjudged.kept hkept
    rw [hattn, hcause, hwriter, hrequest, Device.beginTake_attn]
    exact ⟨rfl, rfl⟩

end Sys2Proof.Machine
end

section
/-! PROOFS. The SCENE to the house target, with a host write that falls into its copy (R147, R152, R156), and the REPORT (R76, R108). -/
namespace Sys2Proof.Machine

/-! ## A copy of levels (R147) -/

/-- The device as n engine accesses have been made (R156). -/
def Device.afterPasses : Nat → Device → Device
  | 0, d => d
  | n + 1, d => Device.afterPasses n d.pass

theorem Device.afterPasses_quiet : ∀ (n : Nat) {d : Device}, d.arbiter = [] → d.afterPasses n = d
  | 0, _, _ => rfl
  | n + 1, d, h => by
    rw [Device.afterPasses, Device.pass_quiet h]
    exact Device.afterPasses_quiet n h

theorem Device.afterPasses_two (n : Nat) (d : Device) : (d.afterPasses 2).afterPasses n = d.afterPasses (n + 2) := rfl

/-- Each level is read as many engine accesses after the copy's begin as stand before it. -/
theorem Device.copyBytes_getElem : ∀ (n a : Nat) (d : Device) (i : Nat) (h : i < (Device.copyBytes n a d).1.length),
    (Device.copyBytes n a d).1[i] = Memory.read (d.afterPasses i).mem (a + i)
  | 0, _, _, _, h => absurd h (Nat.not_lt_zero _)
  | _ + 1, _, _, 0, _ => rfl
  | n + 1, a, d, i + 1, h => by
    have ih := Device.copyBytes_getElem n (a + 1) d.pass i (Nat.lt_of_succ_lt_succ h)
    rw [show a + 1 + i = a + (i + 1) from by omega] at ih
    exact ih

theorem Device.copyBytes_snd : ∀ (n a : Nat) (d : Device), (Device.copyBytes n a d).2 = d.afterPasses n
  | 0, _, _ => rfl
  | n + 1, a, d => Device.copyBytes_snd n (a + 1) d.pass

theorem Device.copyLevels_getElem (d : Device) (a : Nat) {c : Nat} (h : c < 192) : (d.copyLevels a).1[c] = Memory.read (d.afterPasses c).mem (a + c) := by
  have hlen : c < (Device.copyBytes 192 a d).1.length := by rw [Device.copyBytes_length]; exact h
  exact Device.copyBytes_getElem 192 a d c hlen

theorem Device.copyLevels_snd (d : Device) (a : Nat) : (d.copyLevels a).2 = d.afterPasses 192 := by
  rw [Device.copyLevels, Device.copyBytes_snd]

theorem Device.levelsAt_getElem (d : Device) (a : Nat) {c : Nat} (h : c < 192) : (d.levelsAt a)[c] = Memory.read d.mem (a + c) := by
  simp [Device.levelsAt]

/-! ## A host write to plain memory that waits (R156) -/

/-- The lone access is served once as many engine accesses have been made as it waits for, and at least one. -/
theorem Device.passes_plain : ∀ (k : Nat) {d : Device} {w : WaitingAccess}, regionOf (hostOffset w.size w.addr) = .plain → d.arbiter = [w] →
    d.afterPasses k = if Nat.max 1 w.after ≤ k then { d with arbiter := [], mem := Memory.writeBytes d.mem (hostOffset w.size w.addr) (accessBytes w.size w.data) }
      else { d with arbiter := [{ w with after := w.after - k }] }
  | 0, d, w, _, h => by
    have hlate : ¬ Nat.max 1 w.after ≤ 0 := Nat.not_le.mpr (Nat.lt_of_lt_of_le Nat.zero_lt_one (Nat.le_max_left 1 w.after))
    rw [if_neg hlate, Nat.sub_zero, ← h]
    rfl
  | k + 1, d, w, hplain, h => by
    rw [Device.afterPasses]
    by_cases hafter : w.after ≤ 1
    · have hmax : Nat.max 1 w.after = 1 := Nat.max_eq_left hafter
      rw [hmax, if_pos (Nat.le_add_left 1 k), Device.pass_lone h hafter, Device.hostWrite_plain w.size w.addr w.data hplain]
      exact Device.afterPasses_quiet k rfl
    · have hmax : Nat.max 1 w.after = w.after := Nat.max_eq_right (by omega)
      have hmax' : Nat.max 1 (w.after - 1) = w.after - 1 := Nat.max_eq_right (by omega)
      have hpass : d.pass = { d with arbiter := [{ w with after := w.after - 1 }] } := by
        simp only [Device.pass, h, List.length_singleton, countedDown, Device.letIn]
        exact if_neg (by omega)
      rw [hpass, Device.passes_plain k (w := { w with after := w.after - 1 }) hplain rfl, hmax, hmax']
      by_cases hdone : w.after ≤ k + 1
      · rw [if_pos hdone, if_pos (by omega)]
      · rw [if_neg hdone, if_neg (by omega), Nat.sub_sub, Nat.add_comm 1 k]

/-- Every access that waits is to plain memory. -/
def Device.PlainWaiting (d : Device) : Prop := ∀ w ∈ d.arbiter, regionOf (hostOffset w.size w.addr) = .plain

theorem regionOf_plain {a : Nat} (h : regionOf a = .plain) : 0x440 ≤ a ∧ (a < 0x1000 ∨ 0x9000 ≤ a) := by
  unfold regionOf at h
  split at h
  · cases h
  split at h
  · cases h
  split at h
  · cases h
  · omega

theorem SameSlot.plainWrite {n : Nat} (hn : n < 512) (d : Device) {size : AccessSize} {addr : Word} (data : Word) (h : regionOf (hostOffset size addr) = .plain) :
    SameSlot n d (d.landBytes (hostOffset size addr) (accessBytes size data)) := by
  refine SameSlot.landBytes d _ ?_
  obtain ⟨-, hout⟩ := regionOf_plain h
  rw [accessBytes_length, slotBase]
  obtain ⟨k, hk⟩ := hostOffset_dvd size addr
  cases size <;> simp only [AccessSize.bytes] at hk ⊢ <;> omega

theorem Device.PlainWaiting.letIn {n : Nat} (hn : n < 512) : ∀ (m : Nat) {d : Device}, d.PlainWaiting → (Device.letIn m d).PlainWaiting ∧ SameSlot n d (Device.letIn m d)
  | 0, _, h => ⟨h, .ofMem rfl⟩
  | m + 1, d, h => by
    unfold Device.letIn
    split
    case h_1 => exact ⟨h, .ofMem rfl⟩
    case h_2 w l hwaits =>
      have hplain : regionOf (hostOffset w.size w.addr) = .plain := h w (by rw [hwaits]; exact List.mem_cons_self)
      split
      case isTrue =>
        rw [Device.serve, Device.hostWrite_plain w.size w.addr w.data hplain]
        obtain ⟨hrest, hslot⟩ := Device.PlainWaiting.letIn hn m (d := ({ d with arbiter := l } : Device).landBytes (hostOffset w.size w.addr) (accessBytes w.size w.data))
          (fun v hv => h v (by rw [hwaits]; exact List.mem_cons_of_mem w hv))
        exact ⟨hrest, (SameSlot.plainWrite hn { d with arbiter := l } w.data hplain).trans hslot⟩
      case isFalse => exact ⟨h, .ofMem rfl⟩

theorem Device.PlainWaiting.countedDown {d : Device} (h : d.PlainWaiting) : ({ d with arbiter := Machine.countedDown d.arbiter } : Device).PlainWaiting := by
  intro v hv
  rcases harb : d.arbiter with - | ⟨w, l⟩
  · rw [harb] at hv
    exact absurd hv List.not_mem_nil
  · rw [harb] at hv
    rcases List.mem_cons.mp hv with rfl | hv
    · exact h w (by rw [harb]; exact List.mem_cons_self)
    · exact h v (by rw [harb]; exact List.mem_cons_of_mem w hv)

theorem Device.PlainWaiting.pass {n : Nat} (hn : n < 512) {d : Device} (h : d.PlainWaiting) : d.pass.PlainWaiting ∧ SameSlot n d d.pass :=
  Device.PlainWaiting.letIn hn _ h.countedDown

theorem Device.PlainWaiting.poke {d : Device} (h : d.PlainWaiting) (a n v : Nat) : (d.poke a n v).PlainWaiting :=
  (Device.PlainWaiting.pass (n := 0) (by decide) (d := d.write a n v) h).1

theorem Device.PlainWaiting.writeResult {d : Device} (h : d.PlainWaiting) (n : Nat) (r : Result) : (d.writeResult n r).PlainWaiting :=
  ((((((h.poke _ _ _).poke _ _ _).poke _ _ _).poke _ _ _).poke _ _ _).poke _ _ _).poke _ _ _

theorem Device.PlainWaiting.passes : ∀ (k : Nat) {d : Device}, d.PlainWaiting → (d.afterPasses k).PlainWaiting
  | 0, _, h => h
  | k + 1, _, h => Device.PlainWaiting.passes k (Device.PlainWaiting.pass (n := 0) (by decide) h).1

theorem SameSlot.slotState {n : Nat} {d e : Device} (h : SameSlot n d e) : e.slotState n = d.slotState n := h.field 0 1

theorem Device.slotState_write {d : Device} (hm : d.MemOk) {n st : Nat} (hst : st < 256) : (d.write (slotBase n) 1 st).slotState n = st :=
  Eq.trans (Memory.readLE_writeLE_same 1 (slotBase n) st hm) (Nat.mod_eq_of_lt hst)

theorem Device.writeFinal_plain {d : Device} (hplain : d.PlainWaiting) (hm : d.MemOk) {n st : Nat} (hn : n < 512) (hst : st < 256) :
    (d.writeFinal n st).PlainWaiting ∧ (d.writeFinal n st).slotState n = st := by
  have hwritten : ((d.write (slotBase n) 1 st).unprotect n).PlainWaiting := hplain
  obtain ⟨hafter, hsame⟩ := hwritten.pass hn
  exact ⟨hafter, hsame.slotState.trans (Device.slotState_write hm hst)⟩

theorem Device.mapWrite_sameSlot {n : Nat} (d : Device) (v : Byte) : SameSlot n d { d with mem := Memory.write d.mem (mapBase + n / 8) v } := by
  intro a hlo _
  refine Memory.read_write_ne _ ?_ _
  simp only [mapBase, slotBase] at hlo ⊢
  omega

theorem Device.setFinished_plain {d : Device} (hplain : d.PlainWaiting) {n : Nat} (hn : n < 512) : SameSlot n d (d.setFinished n) := by
  have hmarked : (({ d with mem := Memory.write d.mem (mapBase + n / 8) (Memory.read d.mem (mapBase + n / 8) ||| (1 <<< (n % 8))) } : Device).latch
      .finished).PlainWaiting := hplain
  exact (d.mapWrite_sameSlot _).trans ((SameSlot.ofMem (Device.latch_mem _ _)).trans (hmarked.pass hn).2)

/-- R81: the ending shows in the state byte, whatever is written to plain memory meanwhile. -/
theorem Device.finishSlot_slotState_plain {d : Device} (hplain : d.PlainWaiting) (hm : d.MemOk) {n st : Nat} (hn : n < 512) (hst : st < 256) (r : Result) :
    (d.finishSlot n st r).slotState n = st := by
  obtain ⟨hafter, hstate⟩ := Device.writeFinal_plain (hplain.writeResult n r) (Device.writeResult_wf d n r hm) hn hst
  exact (Device.setFinished_plain hafter hn).slotState.trans hstate

/-! ## SCENE to the house (R152) -/

theorem takeSceneHouse_eq (n : Nat) (q : BitVec 32) (d : Device) : Device.takeSceneHouse n q d =
    ({ (d.copyLevels (sceneBase (d.field n 16 1))).2 with house := (d.copyLevels (sceneBase (d.field n 16 1))).1 } : Device).finishSlot n stDone
      (d.takeResult .none false 0) := rfl

theorem Wrote.intake_house {d e : Device} {n : Nat} {x : Levels} (h : Wrote { d.beginTake n with house := x } e) : e = { d.intakeOf e with house := x } := h

theorem Device.levelsAt_beginTake (d : Device) (n a : Nat) : (d.beginTake n).levelsAt a = d.levelsAt a := by
  simp only [Device.levelsAt, Device.beginTake_mem]

/-- R83: what the two reads that begin a take leave of what the checks read. -/
theorem SameChecked.readRecord {n : Nat} (hn : n < 512) (d : Device) : SameChecked n d (d.readRecord n) where
  slot := SameSlot.readRecord hn d
  mode := by simp only [Device.readRecord, Device.pass_mode, Device.beginTake_mode]
  ports := by simp only [Device.readRecord, Device.pass_ports, Device.beginTake_ports]
  planner := by simp only [Device.readRecord, Device.pass_planner, Device.beginTake_planner]
  follower := by simp only [Device.readRecord, Device.pass_follower, Device.beginTake_follower]

theorem Device.PlainWaiting.withHouse {d : Device} (h : d.PlainWaiting) (x : Levels) : ({ d with house := x } : Device).PlainWaiting := h

theorem Device.MemOk.withHouse {d : Device} (h : d.MemOk) (x : Levels) : ({ d with house := x } : Device).MemOk := h

/-- A take of a slot that passes the checks, whatever is presented meanwhile. -/
theorem exec_take_presented {s : State} {row : TakeRow} {n : Nat} (hnext : s.nextSlot = some n) (hn : n < 512) (hposted : s.slotState n = stPosted)
    (hrow : s.takeRow n = row) (hv : s.validate n = none) :
    exec row.command s = .next { s with toDevice := s.noted (row.effect n s.seq (s.presenting.readRecord n)) } := by
  have hchecked : (s.presenting.readRecord n).validate n = none := (SameChecked.readRecord hn s.presenting).validate.trans hv
  have htakes : s.presenting.takes row = some n := Device.takes_of hnext hposted hrow
  rw [exec_noted row.command_alone, operationOf_command]
  simp only [Device.takeNext, htakes, Device.runTake, hchecked]
  rfl

theorem State.noted_slotState (s : State) (e : Device) (n : Nat) : (s.noted e).slotState n = e.slotState n := rfl

theorem State.noted_house (s : State) (e : Device) : (s.noted e).house = e.house := rfl

/-- Settles O28: each level is read after as many accesses as stand before it in the take. -/
theorem sceneToHouse : Obligations.SceneToHouse := by
  refine ⟨fun s n h hv => ?_, fun s n w hnext hn hposted hrow hm hwaits hv hplain => ?_⟩
  · have heffect := takeSceneHouse_eq n s.seq (s.beginTake n)
    rw [Device.copyLevels_quiet h.begun_idle, Device.beginTake_takeResult, Device.beginTake_field, Device.levelsAt_beginTake] at heffect
    obtain ⟨d, hexec, hends, hwrote, hattn⟩ := h.finished hv heffect (by decide)
    have hframe := hwrote.intake_house
    have hhouse : d.house = s.levelsAt (sceneBase (s.field n 16 1)) := (congrArg Device.house hframe :)
    refine ⟨d, hexec, hends, fun c hc => ?_, by rw [hhouse]; exact hframe, hattn.trans (congrArg (· ||| 1) (s.beginTake_attn n))⟩
    simp only [hhouse]
    exact Device.levelsAt_getElem s.toDevice _ hc
  · have hbegun : (s.presenting.beginTake n).arbiter = [w] := (Device.beginTake_arbiter _ n).trans hwaits
    have hread : s.presenting.readRecord n = (s.presenting.beginTake n).afterPasses 2 := rfl
    have hwaiting : (s.presenting.readRecord n).PlainWaiting := by
      rw [hread]
      refine Device.PlainWaiting.passes 2 (fun v hv => ?_)
      rw [hbegun] at hv
      rw [List.mem_singleton.mp hv]
      exact hplain
    have hfield : (s.presenting.readRecord n).field n 16 1 = s.field n 16 1 := (SameSlot.readRecord hn s.presenting).field 16 1
    refine ⟨s.noted (TakeRow.sceneHouse.effect n s.seq (s.presenting.readRecord n)), exec_take_presented hnext hn hposted hrow hv, ?_, fun c hc => ?_⟩
    · have hcopy : ((s.presenting.readRecord n).copyLevels (sceneBase ((s.presenting.readRecord n).field n 16 1))).2.PlainWaiting := by
        rw [Device.copyLevels_snd]
        exact Device.PlainWaiting.passes 192 hwaiting
      have hmem : ((s.presenting.readRecord n).copyLevels (sceneBase ((s.presenting.readRecord n).field n 16 1))).2.MemOk :=
        ((Safe.readRecord s.presenting n).trans (Keeps.copyLevels (n := 0) _ _).safe).mem hm
      rw [State.noted_slotState, TakeRow.effect, takeSceneHouse_eq]
      exact Device.finishSlot_slotState_plain (hcopy.withHouse _) (hmem.withHouse _) hn (by decide) _
    · have hcopied : (s.noted (TakeRow.sceneHouse.effect n s.seq (s.presenting.readRecord n))).house =
          ((s.presenting.readRecord n).copyLevels (sceneBase (s.field n 16 1))).1 := by
        rw [State.noted_house, TakeRow.effect, takeSceneHouse_eq, Device.finishSlot_house, hfield]
      simp only [hcopied]
      rw [Device.copyLevels_getElem _ _ hc, hread, Device.afterPasses_two, Device.passes_plain (c + 2) hplain hbegun, Device.beginTake_mem]
      split <;> rfl

end Sys2Proof.Machine
end

section
/-! PROOFS. The REPORT (R76, R108), resolution (R94, R8), and the eight checks of intake (R85 to R87). -/
namespace Sys2Proof.Machine

/-! ## The output of a REPORT -/

/-- What k halfword writes from address a on leave: the halfwords, and every other byte. -/
structure Device.Halfwords (d e : Device) (a k : Nat) (f : Nat → Nat) : Prop where
  wrote : Wrote d e
  attn : e.attn = d.attn
  memOk : e.MemOk
  words : ∀ i, i < k → Memory.readLE e.mem (a + 2 * i) 2 = f i % 65536
  bytes : d.SameBytes e (fun b => a ≤ b ∧ b < a + 2 * k)

theorem Device.Halfwords.writes {d : Device} (h : d.arbiter = []) (hm : d.MemOk) (a : Nat) (f : Nat → Nat) :
    ∀ k, d.Halfwords ((List.range k).foldl (fun d i => d.poke (a + 2 * i) 2 (f i)) d) a k f
  | 0 => ⟨Wrote.refl d, rfl, hm, fun _ hi => absurd hi (Nat.not_lt_zero _), fun _ _ => rfl⟩
  | k + 1 => by
    have ih := Device.Halfwords.writes h hm a f k
    rw [List.range_succ, List.foldl_append, List.foldl_cons, List.foldl_nil]
    generalize (List.range k).foldl (fun d i => d.poke (a + 2 * i) 2 (f i)) d = e at ih
    have hidle : e.arbiter = [] := (congrArg Device.arbiter ih.wrote :).trans h
    rw [Device.poke_quiet hidle]
    refine ⟨ih.wrote.trans (.write _ _ _ _), ih.attn, Memory.wf_writeLE 2 _ _ ih.memOk, fun i hi => ?_, fun b hb => ?_⟩
    · rcases Nat.lt_succ_iff_lt_or_eq.mp hi with hlt | rfl
      · rw [Device.write_mem, Memory.readLE_writeLE_outside 2 2 _ _ (by omega)]
        exact ih.words i hlt
      · exact Memory.readLE_writeLE_same 2 _ _ ih.memOk
    · rw [Device.write_mem, Memory.read_writeLE_outside 2 _ _ (by omega)]
      exact ih.bytes b (by omega)

theorem takeReport_eq (n : Nat) (q : BitVec 32) (d : Device) : Device.takeReport n q d =
    (d.writeReport n (d.reported (d.field n 16 1))).finishSlot n stDone (d.takeResult .none false (d.reported (d.field n 16 1)).length) := rfl

/-- R76: what the output leaves in the payload. -/
structure Device.Reports (d e : Device) (n : Nat) (slots : List Nat) : Prop where
  wrote : Wrote d e
  attn : e.attn = d.attn
  count : e.field n 17 1 = Nat.min 15 slots.length
  words : ∀ i, i < 15 → e.field n (18 + 2 * i) 2 = reportWord slots i % 65536
  bytes : d.SameBytes e (fun a => slotBase n + 17 ≤ a ∧ a < slotBase n + 48)

theorem Device.writeReport_reports {d : Device} (h : d.arbiter = []) (hm : d.MemOk) (n : Nat) (slots : List Nat) : d.Reports (d.writeReport n slots) n slots := by
  have hcount : Nat.min 15 slots.length < 256 := Nat.lt_of_le_of_lt (Nat.min_le_left 15 _) (by decide)
  have hm1 : (d.write (slotBase n + 17) 1 (Nat.min 15 slots.length)).MemOk := Memory.wf_writeLE 1 _ _ hm
  rw [Device.writeReport, Device.poke_quiet h]
  have hwords := Device.Halfwords.writes (d := d.write (slotBase n + 17) 1 (Nat.min 15 slots.length)) h hm1 (slotBase n + 18) (reportWord slots) 15
  generalize (List.range 15).foldl (fun d i => d.poke (slotBase n + 18 + 2 * i) 2 (reportWord slots i)) (d.write (slotBase n + 17) 1 (Nat.min 15 slots.length)) = e
    at hwords
  refine ⟨(Wrote.write _ _ _ _).trans hwords.wrote, hwords.attn, ?_, fun i hi => ?_, fun b hb => ?_⟩
  · have hread := Memory.readLE_congr 1 (slotBase n + 17) (fun x hlo hhi => hwords.bytes x (by omega))
    exact hread.trans ((Memory.readLE_writeLE_same 1 _ _ hm).trans (Nat.mod_eq_of_lt hcount))
  · have hword := hwords.words i hi
    rw [Nat.add_assoc] at hword
    exact hword
  · refine (hwords.bytes b (by omega)).trans ?_
    rw [Device.write_mem, Memory.read_writeLE_outside 1 _ _ (by omega)]

theorem Device.reported_beginTake (d : Device) (n list : Nat) : (d.beginTake n).reported list = d.reported list := by
  simp only [Device.reported, Device.beginTake_port, Device.beginTake_globals]

/-- The payload below the result region is not written by an ending. -/
theorem Device.SameBytes.field_payload {d e : Device} {n : Nat} (h : d.SameBytes e (endBytes n)) {off size : Nat} (hlo : 1 ≤ off)
    (hhi : off + size ≤ 48) : e.field n off size = d.field n off size := by
  refine Memory.readLE_congr size (slotBase n + off) fun x hx hx' => h x ?_
  simp only [endBytes, mapBase, slotBase] at hx hx' ⊢
  omega

/-- Settles O32: the output, and an ending that leaves it. -/
theorem report : Obligations.Report := by
  intro s n slots h hv hslots
  have hlist : (s.beginTake n).reported ((s.beginTake n).field n 16 1) = slots := by
    rw [Device.beginTake_field, Device.reported_beginTake, hslots]
    rfl
  have hbegun : (s.beginTake n).MemOk := (congrArg (fun m => Memory.wf m = true) (s.beginTake_mem n)).mpr h.mem
  have hreports := Device.writeReport_reports h.begun_idle hbegun n slots
  have heffect := takeReport_eq n s.seq (s.beginTake n)
  rw [hlist, Device.beginTake_takeResult] at heffect
  obtain ⟨d, hexec, hshows, htaken, hwrote, hattn, hbytes, -⟩ := h.shown hv heffect (by decide) (Keeps.writeReport _ n slots)
  refine ⟨d, hexec, hshows, ?_, fun i hi => ?_, fun a ha => ?_, htaken, (hreports.wrote.trans hwrote).intake, ?_⟩
  · rw [hbytes.field_payload (by decide) (by decide), hreports.count]
  · rw [hbytes.field_payload (by omega) (by omega), hreports.words i hi, reportWord]
    rcases slots[i]? <;> rfl
  · obtain ⟨hend, hpayload⟩ := not_or.mp ha
    rw [hbytes a hend, hreports.bytes a hpayload, Device.beginTake_mem]
  · rw [hattn, hreports.attn, Device.beginTake_attn]

/-! ## Resolution (R94, R8) -/

/-- R8: the smallest number at or above r that is congruent to the origin. -/
theorem gridPoint_spec {g : Nat} (hg : 1 ≤ g) (o r : Nat) : ∃ k : Nat, r ≤ k ∧ ((k : Int) - o) % ((g * 96 : Nat) : Int) = 0 ∧
    (∀ j : Nat, r ≤ j → ((j : Int) - o) % ((g * 96 : Nat) : Int) = 0 → k ≤ j) ∧ gridPoint g o r = Nat.min 4294967295 k := by
  have hstep : (0 : Int) < ((g * 96 : Nat) : Int) := by omega
  have hlo := Int.emod_nonneg ((o : Int) - r) (Int.ne_of_gt hstep)
  have hhi := Int.emod_lt_of_pos ((o : Int) - r) hstep
  refine ⟨r + (((o : Int) - r) % ((g * 96 : Nat) : Int)).toNat, Nat.le_add_right _ _, ?_, fun j hj hgrid => ?_, rfl⟩
  · rw [Int.natCast_add, Int.toNat_of_nonneg hlo]
    refine Int.emod_eq_zero_of_dvd ⟨-(((o : Int) - r) / ((g * 96 : Nat) : Int)), ?_⟩
    rw [Int.emod_def]
    rw [Int.mul_neg]
    omega
  · obtain ⟨m, hm⟩ := Int.dvd_of_emod_eq_zero hgrid
    have hshift : (o : Int) - r = (j : Int) - r + ((g * 96 : Nat) : Int) * -m := by
      rw [Int.mul_neg]
      omega
    have hcongr : ((o : Int) - r) % ((g * 96 : Nat) : Int) = ((j : Int) - r) % ((g * 96 : Nat) : Int) := by rw [hshift, Int.add_mul_emod_self_left]
    have hturns : 0 ≤ ((g * 96 : Nat) : Int) * (((j : Int) - r) / ((g * 96 : Nat) : Int)) :=
      Int.mul_nonneg (Int.le_of_lt hstep) (Int.ediv_nonneg (by omega) (Int.le_of_lt hstep))
    have hdef := Int.emod_def ((j : Int) - r) ((g * 96 : Nat) : Int)
    omega

theorem Device.originInForce_stopped {d : Device} (h : d.planner.transport = .stopped) :
    d.originInForce = if d.planner.canContinue then d.planner.heldOrigin else 0 := by
  rw [Device.originInForce, Device.runUnderWay, h]
  rfl

theorem Device.originInForce_running {d : Device} (h : d.planner.transport ≠ .stopped) : d.originInForce =
    match d.planner.horizon with
    | some _ => (match d.entryC with | some e => e.snap.origin | none => d.planner.heldOrigin)
    | none => (match d.planner.plan.head? with | some e => e.snap.origin | none => d.planner.heldOrigin) := by
  have hrun : d.runUnderWay = true := by simpa [Device.runUnderWay] using h
  rw [Device.originInForce, hrun]
  rfl

/-- Settles O49: the three fire modes and the origin in force. -/
theorem resolution : Obligations.Resolution := by
  intro d value ref
  refine ⟨rfl, rfl, fun hvalue => ?_, fun hstopped => ⟨fun r hr hlow => ?_, fun r hr hlast => ?_, fun hnone => ?_⟩, fun hrun => ⟨fun c e hc he => ?_, fun e hc he => ?_⟩⟩
  · exact gridPoint_spec hvalue d.originInForce ref
  · rw [Device.originInForce_stopped hstopped, Planner.canContinue, hr]
    exact if_pos (decide_eq_true hlow)
  · rw [Device.originInForce_stopped hstopped, Planner.canContinue, hr]
    exact if_neg (mt of_decide_eq_true (Nat.not_lt.mpr hlast))
  · rw [Device.originInForce_stopped hstopped, Planner.canContinue, hnone]
    rfl
  · simp only [Device.originInForce_running hrun, Device.entryC, hc, he]
  · simp only [Device.originInForce_running hrun, hc, he]

end Sys2Proof.Machine
end

section
/-! PROOFS. The eight checks of intake, each as the table states it (R85 to R87). -/
namespace Sys2Proof.Machine

section
variable {d : Device} {n : Nat}

/-! ## Checks 1 to 4 -/

theorem isKindCode_iff (v : Nat) : isKindCode v = true ↔ v ∈ [0x01, 0x02, 0x03, 0x10, 0x11, 0x12, 0x20, 0x21, 0x22, 0x30, 0x31, 0x32, 0x33] :=
  List.contains_iff_mem

theorem isGridBeats_iff (v : Nat) : isGridBeats v = true ↔ v ∈ [1, 2, 4, 8, 16, 32, 64] := List.contains_iff_mem

theorem isDivision_iff (v : Nat) : isDivision v = true ↔ v ∈ [1, 2, 3, 4, 6, 8, 12, 16, 24, 32, 48, 96] := List.contains_iff_mem

theorem Device.modeAccepts_iff : d.modeAccepts n = false ↔
    (d.mode = .init ∧ d.kindOf n ∉ [0x30, 0x31, 0x32, 0x33, 0x22] ∧ ¬ (d.kindOf n = 0x12 ∧ d.portByte n = 0xFE)) ∨ (d.mode = .house ∧ d.kindOf n ≠ 0x22) := by
  unfold Device.modeAccepts
  cases d.mode <;> simp

theorem Device.badPort_iff : d.badPort n = true ↔
    (d.kindOf n ∈ [0x10, 0x11, 0x12, 0x30] ∧ 23 < d.portByte n ∧ ¬ (d.kindOf n = 0x12 ∧ d.portByte n = 0xFE)) ∨ (d.portByte n = 0xFE ∧ d.kindOf n ≠ 0x12) ∨
      (d.kindOf n = 0x22 ∧ 23 < d.field n 16 1 ∧ d.field n 16 1 ≠ 0xFF) ∨
      (d.kindOf n = 0x20 ∧ d.optionsOf n = 1 ∧ 23 < d.field n 16 1 ∧ d.field n 16 1 ≠ 0xFF) := by
  simp only [Device.badPort, badSelector, Bool.or_eq_true, Bool.and_eq_true, Bool.not_eq_true', Bool.and_eq_false_iff, List.contains_iff_mem, decide_eq_true_eq,
    beq_iff_eq, bne_iff_ne, beq_eq_false_iff_ne, Classical.not_and_iff_not_or_not, or_assoc, and_assoc]

theorem Device.namedKind_of {p : PortIx} (h : p.val = d.portByte n) : d.namedKind n = some (d.port p).settings.kind := by
  rw [Device.namedKind, ← h, portOf_val, Option.map_some]

/-- With a good port byte, the fourth check is about the named port. -/
theorem Device.wrongPortKind_iff (hport : d.badPort n = false) : d.wrongPortKind n = true ↔
    ∃ p : PortIx, p.val = d.portByte n ∧ ((d.kindOf n = 0x10 ∧ (d.port p).settings.kind ≠ .step) ∨
      (d.kindOf n = 0x11 ∧ (d.port p).settings.kind ≠ .clock ∧ (d.port p).settings.kind ≠ .step) ∨ (d.kindOf n = 0x12 ∧ (d.port p).settings.kind ≠ .level)) := by
  have hnamed : d.kindOf n = 0x10 ∨ d.kindOf n = 0x11 ∨ (d.kindOf n = 0x12 ∧ d.portByte n ≠ 0xFE) → d.portByte n < 24 := by
    intro hkind
    have hgood := mt Device.badPort_iff.mpr (by rw [hport]; decide)
    simp only [List.mem_cons, List.not_mem_nil] at hgood
    omega
  constructor
  · intro hwrong
    have hkind : d.kindOf n = 0x10 ∨ d.kindOf n = 0x11 ∨ (d.kindOf n = 0x12 ∧ d.portByte n ≠ 0xFE) := by
      unfold Device.wrongPortKind at hwrong
      split at hwrong
      case h_1 hk => exact .inl hk
      case h_2 hk => exact .inr (.inl hk)
      case h_3 hk =>
        simp only [Bool.and_eq_true, bne_iff_ne] at hwrong
        exact .inr (.inr ⟨hk, hwrong.1⟩)
      case h_4 => exact absurd hwrong (by decide)
    refine ⟨⟨d.portByte n, hnamed hkind⟩, rfl, ?_⟩
    have hof := Device.namedKind_of (d := d) (n := n) (p := ⟨d.portByte n, hnamed hkind⟩) rfl
    rcases hkind with hk | hk | ⟨hk, _⟩ <;> simp [Device.wrongPortKind, hk, hof] at hwrong ⊢
    · exact hwrong
    · exact hwrong
    · exact hwrong.2
  · rintro ⟨p, hp, hwrong⟩
    have hof := Device.namedKind_of hp
    have hlt : d.portByte n ≠ 0xFE := by
      have := p.isLt
      omega
    rcases hwrong with ⟨hk, h⟩ | ⟨hk, h⟩ | ⟨hk, h⟩ <;> simp [Device.wrongPortKind, hk, hof, hlt, h]

/-! ## Check 5 -/

theorem Device.isPortCue_iff : d.isPortCue n = true ↔ d.kindOf n = 0x10 ∨ d.kindOf n = 0x11 ∨ (d.kindOf n = 0x12 ∧ d.portByte n ≠ 0xFE) := by
  simp only [Device.isPortCue, Bool.or_eq_true, Bool.and_eq_true, beq_iff_eq, bne_iff_ne, or_assoc]

theorem Device.isNowOnly_iff : d.isNowOnly n = true ↔ d.kindOf n ∈ [0x20, 0x21, 0x22, 0x30, 0x31, 0x32, 0x33] ∨ (d.kindOf n = 0x12 ∧ d.portByte n = 0xFE) ∨
    (d.kindOf n = 0x03 ∧ d.field n 16 1 ≤ 1) := by
  simp only [Device.isNowOnly, Bool.or_eq_true, Bool.and_eq_true, beq_iff_eq, decide_eq_true_eq, List.contains_iff_mem, or_assoc]

theorem Device.mayRepeat_iff : d.mayRepeat n = true ↔ d.kindOf n = 0x10 ∨ (d.kindOf n = 0x12 ∧ d.portByte n ≠ 0xFE) := by
  simp only [Device.mayRepeat, Bool.or_eq_true, Bool.and_eq_true, beq_iff_eq, bne_iff_ne]

theorem Device.badFire_iff : d.badFire n = true ↔
    2 < d.fireMode n ∨ (d.isNowOnly n = true ∧ d.fireMode n ≠ 0) ∨ (d.fireMode n = 2 ∧ d.fireValue n ∉ [1, 2, 4, 8, 16, 32, 64]) := by
  simp only [Device.badFire, Bool.or_eq_true, Bool.and_eq_true, Bool.not_eq_true', ← Bool.not_eq_true, isGridBeats_iff, beq_iff_eq, bne_iff_ne, decide_eq_true_eq,
    or_assoc]

theorem Device.badRepeat_iff : d.badRepeat n = true ↔
    (d.mayRepeat n = true ∧ d.intervalOf n = 0 ∧ d.countOf n ≠ 0) ∨ (¬ d.mayRepeat n = true ∧ (d.intervalOf n ≠ 0 ∨ d.countOf n ≠ 0)) := by
  unfold Device.badRepeat
  split
  case isTrue h => simp [h]
  case isFalse h => simp [h]

theorem Device.badSend_iff : d.badSend n = true ↔ 1 < d.optionsOf n ∨ (d.optionsOf n = 0 ∧ (d.field n 16 1 = 0 ∨ 30 < d.field n 16 1)) ∨
    (d.optionsOf n = 1 ∧ (d.field n 20 2 = 0 ∨ 4096 < d.field n 20 2 ∨ 2 < d.field n 22 1 ∨ (d.field n 22 1 ≠ 0 ∧ d.field n 23 1 = 0))) := by
  unfold Device.badSend
  split
  case h_1 hopt => simp [hopt]
  case h_2 hopt => simp [hopt, or_assoc]
  case h_3 hnone hone => exact iff_of_true rfl (.inl (Nat.one_lt_iff_ne_zero_and_ne_one.mpr ⟨hnone, hone⟩))

theorem Device.badScene_iff : d.badScene n = true ↔ 47 < d.field n 16 1 ∨ (d.portByte n ≠ 0xFE ∧
    (2 < d.field n 20 1 ∨ (d.field n 20 1 ≠ 0 ∧ (191 < d.field n 23 1 ∨ d.field n 23 1 < d.field n 22 1)) ∨ (d.field n 20 1 = 2 ∧ 2 < d.field n 21 1))) := by
  simp only [Device.badScene, Bool.or_eq_true, Bool.and_eq_true, beq_iff_eq, bne_iff_ne, decide_eq_true_eq, or_assoc]

theorem Device.badCancel_iff : d.badCancel n = true ↔ 1 < d.optionsOf n ∨ (d.optionsOf n = 0 ∧ 511 < d.field n 16 2) ∨
    (d.optionsOf n = 1 ∧ d.field n 17 1 ≠ 0xFF ∧ d.field n 17 1 ∉ [0x01, 0x02, 0x03, 0x10, 0x11, 0x12, 0x20, 0x21, 0x22, 0x30, 0x31, 0x32, 0x33]) := by
  unfold Device.badCancel
  split
  case h_1 hopt => simp [hopt]
  case h_2 hopt =>
    simp only [hopt, Bool.and_eq_true, bne_iff_ne, Bool.not_eq_true', ← Bool.not_eq_true, isKindCode_iff, Nat.lt_irrefl, Nat.one_ne_zero, false_and, false_or, true_and]
  case h_3 hnone hone => exact iff_of_true rfl (.inl (Nat.one_lt_iff_ne_zero_and_ne_one.mpr ⟨hnone, hone⟩))

theorem Device.badAmend_iff : d.badAmend n = true ↔
    511 < d.field n 16 2 ∨ 2 < d.field n 20 1 ∨ (d.field n 20 1 = 2 ∧ d.field n 24 4 ∉ [1, 2, 4, 8, 16, 32, 64]) := by
  simp only [Device.badAmend, Bool.or_eq_true, Bool.and_eq_true, Bool.not_eq_true', ← Bool.not_eq_true, isGridBeats_iff, beq_iff_eq, decide_eq_true_eq, or_assoc]

theorem Device.badSetup_iff : d.badSetup n = true ↔ ((d.field n 16 2).testBit 0 = true ∧ 3 < d.field n 18 1) ∨
    ((d.field n 16 2).testBit 2 = true ∧ d.field n 19 1 ∉ [1, 2, 3, 4, 6, 8, 12, 16, 24, 32, 48, 96]) ∨ ((d.field n 16 2).testBit 3 = true ∧ 4 < d.field n 24 1) ∨
    ((d.field n 16 2).testBit 5 = true ∧ 1 < d.field n 26 1) ∨ ((d.field n 16 2).testBit 6 = true ∧ 1 < d.field n 27 1) ∨
    ((d.field n 16 2).testBit 7 = true ∧ 1 < d.field n 28 1) := by
  simp only [Device.badSetup, Device.selects, Bool.or_eq_true, Bool.and_eq_true, Bool.not_eq_true', ← Bool.not_eq_true, isDivision_iff, decide_eq_true_eq, or_assoc]

/-- The payload check by kinds. -/
theorem Device.badPayload_iff : d.badPayload n = true ↔
    (d.kindOf n = 0x01 ∧ d.field n 16 4 = 0) ∨ (d.kindOf n = 0x02 ∧ d.field n 16 1 = 0) ∨ (d.kindOf n = 0x03 ∧ 2 < d.field n 16 1) ∨
    (d.kindOf n = 0x10 ∧ d.badSend n = true) ∨ (d.kindOf n = 0x12 ∧ d.badScene n = true) ∨ (d.kindOf n = 0x11 ∧ 1 < d.field n 16 1) ∨
    (d.kindOf n = 0x20 ∧ d.badCancel n = true) ∨ (d.kindOf n = 0x21 ∧ d.badAmend n = true) ∨ (d.kindOf n = 0x30 ∧ d.badSetup n = true) ∨
    (d.kindOf n = 0x31 ∧ (1 < d.field n 16 1 ∨ 1 < d.field n 17 1)) ∨ (d.kindOf n = 0x32 ∧ (1 < d.field n 16 1 ∨ 4 < d.field n 17 1)) ∨
    (d.kindOf n = 0x33 ∧ 1 < d.field n 16 1) := by
  unfold Device.badPayload
  split
  case h_13 => simp_all
  all_goals next hkind => simp [hkind]

theorem Device.badField_iff : d.badField n = true ↔ d.badFire n = true ∨ (d.isPortCue n = true ∧ 3 < d.latenessOf n) ∨ d.badRepeat n = true ∨ d.badPayload n = true := by
  simp only [Device.badField, Bool.or_eq_true, Bool.and_eq_true, decide_eq_true_eq, or_assoc]

/-! ## Checks 6 to 8 -/

theorem Device.badBulk_iff : d.badBulk n = true ↔
    d.kindOf n = 0x10 ∧ d.optionsOf n = 1 ∧ (81920 ≤ d.field n 16 4 ∨ 81920 < d.field n 16 4 + d.field n 20 2) := by
  simp only [Device.badBulk, Bool.or_eq_true, Bool.and_eq_true, beq_iff_eq, decide_eq_true_eq, and_assoc]

theorem Planner.canContinue_iff {p : Planner} : p.canContinue = true ↔ ∃ r, p.stopped = some r ∧ r.pi < 4294967295 := by
  unfold Planner.canContinue
  cases p.stopped with
  | none => simp
  | some r =>
    simp only [Option.some.injEq, exists_eq_left']
    exact decide_eq_true_iff (p := r.pi < maxPI)

theorem Device.wrongAction_iff (action : Nat) : d.wrongAction action = true ↔ (action = 0 ∧ d.planner.transport ≠ .stopped) ∨
    (action = 1 ∧ ¬ (d.planner.transport = .stopped ∧ ∃ r, d.planner.stopped = some r ∧ r.pi < 4294967295)) ∨
    (2 ≤ action ∧ d.planner.transport ≠ .running) := by
  unfold Device.wrongAction
  split
  case h_1 => simp
  case h_2 =>
    simp only [Bool.or_eq_true, Bool.not_eq_true', ← Bool.not_eq_true, Planner.canContinue_iff, bne_iff_ne, Classical.not_and_iff_not_or_not, Nat.one_ne_zero, false_and, false_or,
      true_and, Nat.not_succ_le_self, or_false]
  case h_3 hzero hone =>
    have htwo : 2 ≤ action := Nat.one_lt_iff_ne_zero_and_ne_one.mpr ⟨hzero, hone⟩
    simp only [bne_iff_ne]
    constructor
    · exact fun h => .inr (.inr ⟨htwo, h⟩)
    · rintro (⟨h, -⟩ | ⟨h, -⟩ | ⟨-, h⟩)
      · exact absurd h hzero
      · exact absurd h hone
      · exact h

theorem Device.wrongTransport_iff : d.wrongTransport n = true ↔ (d.kindOf n = 0x03 ∧ d.wrongAction (d.field n 16 1) = true) ∨
    (d.isPortCue n = true ∧ d.fireMode n = 0 ∧ d.planner.transport = .stopped) := by
  simp only [Device.wrongTransport, Device.runUnderWay, Bool.or_eq_true, Bool.and_eq_true, Bool.not_eq_true', bne_eq_false_iff_eq, beq_iff_eq, and_assoc]

theorem Device.whileFollowing_iff : d.whileFollowing n = true ↔ d.kindOf n = 0x01 ∧ d.follower.state ≠ .off := by
  simp only [Device.whileFollowing, Bool.and_eq_true, beq_iff_eq, bne_iff_ne]

/-! ## The first check that fails -/

theorem Device.validate_none_iff : d.validate n = none ↔ d.Passes n := by
  refine ⟨Device.passes_of_validate, fun h => ?_⟩
  simp [Device.validate, h.kind, h.mode, h.port, h.portKind, h.fields, h.bulk, h.transport, h.free]

end

/-- Settles O20: each check as the statement puts it, and their order. -/
theorem eightChecks : Obligations.EightChecks := by
  intro d n kind port mode opt f grid badKind wrongMode badPort wrongKind portCue nowOnly mayRepeat badHeader badGlobal badSend badScene badControl badSetup badField
    bulkRange wrongTransport following
  have hkind : badKind ↔ isKindCode (d.kindOf n) = false := by rw [← Bool.not_eq_true, isKindCode_iff]
  have hmode : wrongMode ↔ d.modeAccepts n = false := Device.modeAccepts_iff.symm
  have hport : badPort ↔ d.badPort n = true := Device.badPort_iff.symm
  have hportKind (h : ¬ badPort) : wrongKind ↔ d.wrongPortKind n = true :=
    (Device.wrongPortKind_iff (Bool.eq_false_iff.mpr (mt hport.mpr h))).symm
  have hfields : badField ↔ d.badField n = true := by
    rw [Device.badField_iff, Device.badFire_iff, Device.isNowOnly_iff, Device.isPortCue_iff, Device.badRepeat_iff, Device.mayRepeat_iff, Device.badPayload_iff,
      Device.badSend_iff, Device.badScene_iff, Device.badCancel_iff, Device.badAmend_iff, Device.badSetup_iff]
    simp only [badField, badHeader, badGlobal, badSend, badScene, badControl, badSetup, or_assoc]
    rfl
  have hbulk : bulkRange ↔ d.badBulk n = true := Device.badBulk_iff.symm
  have htransport : wrongTransport ↔ d.wrongTransport n = true := by
    rw [Device.wrongTransport_iff, Device.wrongAction_iff, Device.isPortCue_iff]
    simp only [wrongTransport, and_or_left, or_assoc]
    rfl
  have hfollowing : following ↔ d.whileFollowing n = true := Device.whileFollowing_iff.symm
  clear_value badKind wrongMode badPort wrongKind badField bulkRange wrongTransport following
  have hkind' : ¬ badKind → isKindCode (d.kindOf n) = true := fun h => Bool.ne_false_iff.mp (mt hkind.mpr h)
  have hmode' : ¬ wrongMode → d.modeAccepts n = true := fun h => Bool.ne_false_iff.mp (mt hmode.mpr h)
  have hport' : ¬ badPort → d.badPort n = false := fun h => Bool.eq_false_iff.mpr (mt hport.mpr h)
  have hportKind' : ¬ badPort → ¬ wrongKind → d.wrongPortKind n = false := fun hp h => Bool.eq_false_iff.mpr (mt (hportKind hp).mpr h)
  have hfields' : ¬ badField → d.badField n = false := fun h => Bool.eq_false_iff.mpr (mt hfields.mpr h)
  have hbulk' : ¬ bulkRange → d.badBulk n = false := fun h => Bool.eq_false_iff.mpr (mt hbulk.mpr h)
  have htransport' : ¬ wrongTransport → d.wrongTransport n = false := fun h => Bool.eq_false_iff.mpr (mt htransport.mpr h)
  have hfollowing' : ¬ following → d.whileFollowing n = false := fun h => Bool.eq_false_iff.mpr (mt hfollowing.mpr h)
  refine ⟨fun h1 => ?_, fun h1 h2 => ?_, fun h1 h2 h3 => ?_, fun h1 h2 h3 h4 => ?_, fun h1 h2 h3 h4 h5 => ?_, fun h1 h2 h3 h4 h5 h6 => ?_,
    fun h1 h2 h3 h4 h5 h6 h7 => ?_, fun h1 h2 h3 h4 h5 h6 h7 h8 => ?_, ?_⟩
  · simp [Device.validate, hkind.mp h1]
  · simp [Device.validate, hkind' h1, hmode.mp h2]
  · simp [Device.validate, hkind' h1, hmode' h2, hport.mp h3]
  · simp [Device.validate, hkind' h1, hmode' h2, hport' h3, (hportKind h3).mp h4]
  · simp [Device.validate, hkind' h1, hmode' h2, hport' h3, hportKind' h3 h4, hfields.mp h5]
  · simp [Device.validate, hkind' h1, hmode' h2, hport' h3, hportKind' h3 h4, hfields' h5, hbulk.mp h6]
  · simp [Device.validate, hkind' h1, hmode' h2, hport' h3, hportKind' h3 h4, hfields' h5, hbulk' h6, htransport.mp h7]
  · simp [Device.validate, hkind' h1, hmode' h2, hport' h3, hportKind' h3 h4, hfields' h5, hbulk' h6, htransport' h7, hfollowing.mp h8]
  · rw [Device.validate_none_iff]
    constructor
    · intro h
      have hgood : ¬ badPort := by rw [hport, h.port]; decide
      rw [hkind, hmode, hport, hportKind hgood, hfields, hbulk, htransport, hfollowing]
      exact ⟨by rw [h.kind]; decide, by rw [h.mode]; decide, by rw [h.port]; decide, by rw [h.portKind]; decide, by rw [h.fields]; decide,
        by rw [h.bulk]; decide, by rw [h.transport]; decide, by rw [h.free]; decide⟩
    · rintro ⟨h1, h2, h3, h4, h5, h6, h7, h8⟩
      exact ⟨hkind' h1, hmode' h2, hport' h3, hportKind' h3 h4, hfields' h5, hbulk' h6, htransport' h7, hfollowing' h8⟩

end Sys2Proof.Machine
end

section
/-! PROOFS. The lines of a CLOCK port (R126 to R128) and the Level Link's frames on the line (R142 to R144). -/
namespace Sys2Proof.Machine

/-! ## Events of the lines make no access to the exchange memory -/

theorem NoAccess.modPort (p : PortIx) (f : Device → Port → Port) (hf : ∀ d l, f (d.withArbiter l) = f d := by exact fun _ _ => rfl) :
    NoAccess fun d => d.modPort p (f d) := fun d l => by
  show (d.withArbiter l).modPort p (f (d.withArbiter l)) = _
  rw [hf]
  rfl

section
variable (s : State) (p : PortIx)

theorem exec_clockPhaseEnd : exec (.clockPhaseEnd p) s = .next { s with toDevice :=
    (if s.phaseDue p = true then s.modPort p fun x => { x with clock := x.clock.phaseEnd s.time x.settings.negative } else s.toDevice) } :=
  NoAccess.exec (c := .clockPhaseEnd p)
    (NoAccess.ite (c := fun d => d.phaseDue p = true) (NoAccess.modPort p fun d x => { x with clock := x.clock.phaseEnd d.time x.settings.negative }) NoAccess.id) rfl s

theorem exec_resetPulseEnd : exec (.resetPulseEnd p) s = .next { s with toDevice :=
    (if s.pulseDue p = true then s.modPort p fun x => { x with clock := x.clock.pulseEnd s.time } else s.toDevice) } :=
  NoAccess.exec (c := .resetPulseEnd p)
    (NoAccess.ite (c := fun d => d.pulseDue p = true) (NoAccess.modPort p fun d x => { x with clock := x.clock.pulseEnd d.time }) NoAccess.id) rfl s

theorem exec_lowGapEnd : exec (.lowGapEnd p) s = .next { s with toDevice :=
    (if s.gapDue p = true then s.modPort p fun x => { x with clock := x.clock.gapEnd s.time } else s.toDevice) } :=
  NoAccess.exec (c := .lowGapEnd p)
    (NoAccess.ite (c := fun d => d.gapDue p = true) (NoAccess.modPort p fun d x => { x with clock := x.clock.gapEnd d.time }) NoAccess.id) rfl s

theorem NoAccess.tryClockLeadIn : NoAccess fun d => d.tryClockLeadIn p := fun d l => by
  have hdue : (d.withArbiter l).clockLeadDue p = d.clockLeadDue p := rfl
  simp only [Device.tryClockLeadIn, hdue]
  rcases d.clockLeadDue p with - | ⟨j, late⟩ <;> rfl

theorem exec_clockLeadIn : exec (.clockLeadIn p) s = .next { s with toDevice := s.tryClockLeadIn p } :=
  NoAccess.exec (c := .clockLeadIn p) (NoAccess.tryClockLeadIn p) rfl s

theorem exec_levelFrameBegin : exec (.levelFrameBegin p) s = .next { s with toDevice := (if s.frameDue p = true then s.beginFrame p else s.toDevice) } :=
  NoAccess.exec (c := .levelFrameBegin p) (NoAccess.ite (c := fun d => d.frameDue p = true) (NoAccess.modPort p fun d x =>
    { x with frames := { last := some { begin := d.time, house := d.mode == .house, levels := x.mixer.output, cut := none }, waiting := false } }) NoAccess.id) rfl s

end

/-! ## When the events are due -/

section
variable {d : Device} {p : PortIx}

theorem Device.phaseDue_iff {t : Time} (h : (d.port p).clock.phase = .active t ∨ (d.port p).clock.phase = .gap t) :
    d.phaseDue p = true ↔ 0 ≤ timeDiff d.time t := by
  have hends : (d.port p).clock.phaseEnds = some t := by
    unfold ClockLine.phaseEnds
    rcases h with h | h <;> rw [h]
  rw [Device.phaseDue, hends]
  exact timeReached_iff _ _

theorem Device.pulseDue_iff {j : Nat} {t : Time} {late reached : Bool} (h : (d.port p).clock.form = .pulse j t late reached) :
    d.pulseDue p = true ↔ 0 ≤ timeDiff d.time t := by
  rw [Device.pulseDue, h]
  exact timeReached_iff _ _

theorem Device.gapDue_iff {j : Nat} {t : Time} {reached : Bool} (h : (d.port p).clock.form = .gap j t reached) : d.gapDue p = true ↔ 0 ≤ timeDiff d.time t := by
  rw [Device.gapDue, h]
  exact timeReached_iff _ _

theorem Device.dueAt_of {k : Nat} {e : PlanEntry} (h : d.planEntry k = some e) :
    d.dueAt p k = some (timeMinus (instantTime e.instant) (d.port p).settings.latency) := by
  rw [Device.dueAt, h]
  rfl

theorem Device.clockLeadDue_eq {j : Nat} {e : PlanEntry} (hkind : (d.port p).settings.kind = .clock) (hrun : (d.port p).run = .run)
    (hform : (d.port p).clock.form = .pending j) (hentry : d.planEntry j = some e) : d.clockLeadDue p =
      if timeReached d.time (timeMinus (timeMinus (instantTime e.instant) (d.port p).settings.latency) 2000) then
        some (j, d.time != timeMinus (timeMinus (instantTime e.instant) (d.port p).settings.latency) 2000) else none := by
  simp only [Device.clockLeadDue, hkind, hrun, hform, Device.dueAt_of hentry]

theorem Device.frameDue_iff : d.frameDue p = true ↔ (d.port p).settings.kind = .level ∧ (d.port p).state = .locked ∧ (d.port p).frames.waiting = false ∧
    ∃ f, (d.port p).frames.last = some f ∧ 0 ≤ timeDiff d.time (timePlus f.begin ((d.port p).settings.frame * 1000)) := by
  unfold Device.frameDue
  rcases (d.port p).frames.last with - | f <;> simp [timeReached_iff, and_assoc]

end

/-! ## The phases of wire A -/

section
variable {c : ClockLine} {now : Time}

theorem ClockLine.phaseEnd_active {t : Time} (h : c.phase = .active t) (negative : Bool) : c.phaseEnd now negative = { c with
    phase := .gap (timePlus now 1000), negative := negative
    wireB := if c.fallOwed = true ∧ c.waiting = [] then false else c.wireB
    fallOwed := if c.fallOwed = true ∧ c.waiting = [] then false else c.fallOwed } := by
  simp only [ClockLine.phaseEnd, h]
  split <;> rfl

theorem ClockLine.startEdge_none (h : c.waiting = []) : c.startEdge now = c := by
  simp only [ClockLine.startEdge, h]
  split <;> rfl

theorem ClockLine.startEdge_some {g : Edge} {rest : List Edge} (hrest : c.phase = .rest) (hfree : c.form.blocks = false) (h : c.waiting = g :: rest) :
    c.startEdge now = { c with phase := .active (timePlus now g.width), waiting := rest } := by
  simp only [ClockLine.startEdge, hrest, hfree, h, and_self, if_true]

theorem ClockLine.phaseEnd_gap {t : Time} (h : c.phase = .gap t) (negative : Bool) : c.phaseEnd now negative = ({ c with phase := .rest } : ClockLine).startEdge now := by
  simp only [ClockLine.phaseEnd, h]

theorem ClockLine.pulseEnd_pulse {j : Nat} {t : Time} {late reached : Bool} (h : c.form = .pulse j t late reached) :
    c.pulseEnd now = { c with wireB := false, form := if late || reached then .gap j (timePlus now 1000) reached else .ready j } := by
  simp only [ClockLine.pulseEnd, h]

theorem ClockLine.gapEnd_gap {j : Nat} {t : Time} {reached : Bool} (h : c.form = .gap j t reached) :
    c.gapEnd now = if reached then ({ c with wireB := true, form := .none } : ClockLine).startEdge now else { c with form := .ready j } := by
  simp only [ClockLine.gapEnd, h]

end

theorem Device.modPort_clock {d : Device} {p : PortIx} {f : Port → ClockLine} {c : ClockLine} (h : f (d.port p) = c) :
    (d.modPort p fun x => { x with clock := f x }) = d.setPort p { d.port p with clock := c } := by
  rw [← h]
  rfl

/-- Settles O56: each event of the two lines at its time, and none before. -/
theorem clockLines : Obligations.ClockLines := by
  intro s p x
  refine ⟨fun t hphase hdue => ?_, fun t hphase hdue hnone => ?_, fun t g rest hphase hdue hwait hform => ?_, fun t hphase hearly => ?_,
    fun j e hkind hrun hform hentry => ?_, fun j t late reached hform => ⟨fun hearly => ?_, fun hdue => ?_⟩,
    fun j t reached hform => ⟨fun hearly => ?_, fun hdue hreached => ?_, fun hdue hreached hnone => ?_, fun g rest hdue hreached hwait hrest => ?_⟩⟩
  · rw [exec_clockPhaseEnd, if_pos ((Device.phaseDue_iff (.inl hphase)).mpr hdue), Device.modPort_clock (ClockLine.phaseEnd_active hphase _)]
  · have hend : x.clock.phaseEnd s.time x.settings.negative = { x.clock with phase := .rest } :=
      (ClockLine.phaseEnd_gap hphase _).trans (ClockLine.startEdge_none hnone)
    rw [exec_clockPhaseEnd, if_pos ((Device.phaseDue_iff (.inr hphase)).mpr hdue), Device.modPort_clock hend]
  · have hend : x.clock.phaseEnd s.time x.settings.negative = { x.clock with phase := .active (timePlus s.time g.width), waiting := rest } :=
      (ClockLine.phaseEnd_gap hphase _).trans (ClockLine.startEdge_some rfl (congrArg ClockForm.blocks hform) hwait)
    rw [exec_clockPhaseEnd, if_pos ((Device.phaseDue_iff (.inr hphase)).mpr hdue), Device.modPort_clock hend]
  · rw [exec_clockPhaseEnd, if_neg (mt (Device.phaseDue_iff hphase).mp hearly)]
  · have hlead := Device.clockLeadDue_eq hkind hrun hform hentry
    refine ⟨fun hearly => ?_, fun hdue => ?_⟩
    · rw [if_neg (mt (timeReached_iff _ _).mp hearly)] at hlead
      rw [exec_clockLeadIn, Device.tryClockLeadIn, hlead]
    · rw [if_pos ((timeReached_iff _ _).mpr hdue)] at hlead
      rw [exec_clockLeadIn, Device.tryClockLeadIn, hlead]
      rfl
  · rw [exec_resetPulseEnd, if_neg (mt (Device.pulseDue_iff hform).mp hearly)]
  · rw [exec_resetPulseEnd, if_pos ((Device.pulseDue_iff hform).mpr hdue), Device.modPort_clock (ClockLine.pulseEnd_pulse hform)]
  · rw [exec_lowGapEnd, if_neg (mt (Device.gapDue_iff hform).mp hearly)]
  · have hend : x.clock.gapEnd s.time = { x.clock with form := .ready j } := (ClockLine.gapEnd_gap hform).trans (if_neg (by rw [hreached]; decide))
    rw [exec_lowGapEnd, if_pos ((Device.gapDue_iff hform).mpr hdue), Device.modPort_clock hend]
  · have hend : x.clock.gapEnd s.time = { x.clock with wireB := true, form := .none } :=
      ((ClockLine.gapEnd_gap hform).trans (if_pos hreached)).trans (ClockLine.startEdge_none hnone)
    rw [exec_lowGapEnd, if_pos ((Device.gapDue_iff hform).mpr hdue), Device.modPort_clock hend]
  · have hend : x.clock.gapEnd s.time = { x.clock with wireB := true, form := .none, phase := .active (timePlus s.time g.width), waiting := rest } :=
      ((ClockLine.gapEnd_gap hform).trans (if_pos hreached)).trans (ClockLine.startEdge_some hrest rfl hwait)
    rw [exec_lowGapEnd, if_pos ((Device.gapDue_iff hform).mpr hdue), Device.modPort_clock hend]

/-! ## Frames on the line (Table 9-1) -/

theorem Frame.level_cases (f : Frame) (now : Time) : f.level now =
    if f.onLine now = false then true else if (now - f.begin).toNat < 32 then false else if (now - f.begin).toNat < 40 then true
    else charLevel 8 2 (f.char (((now - f.begin).toNat - 40) / 20)) (((now - f.begin).toNat - 40) % 20) := by
  simp only [Frame.level, Bool.not_eq_true']

theorem Frame.onLine_iff (f : Frame) (now : Time) : f.onLine now = true ↔ (now - f.begin).toNat < 3900 ∧ ∀ t, f.cut = some t → ¬ 0 ≤ timeDiff now t := by
  unfold Frame.onLine
  rcases f.cut with - | t <;> simp [timeReached]

/-- Outside its time a frame leaves the line at mark. -/
theorem Frame.level_off {f : Frame} {now : Time} (h : f.onLine now = false) : f.level now = true := by
  rw [Frame.level_cases, if_pos h]

theorem Frame.level_on {f : Frame} {now : Time} (h : f.onLine now = true) : f.level now =
    if (now - f.begin).toNat < 32 then false else if (now - f.begin).toNat < 40 then true
    else charLevel 8 2 (f.char (((now - f.begin).toNat - 40) / 20)) (((now - f.begin).toNat - 40) % 20) := by
  rw [Frame.level_cases, if_neg (by rw [h]; decide)]

theorem Frame.char_type (f : Frame) (i : Nat) : (f.char 0).testBit i = (if f.house then 0x48 else 0x00 : Byte).getLsbD i := by
  rw [Frame.char]
  split <;> rfl

theorem Frame.char_level (f : Frame) {c : Nat} (h : c < 192) (i : Nat) : (f.char (c + 1)).testBit i = f.levels[c].getLsbD i := by
  have hget : f.levels.toList[c]? = some f.levels[c] := by simp [h]
  rw [Frame.char, hget]
  rfl

theorem Port.signal_frame {x : Port} {now : Time} {f : Frame} (hline : x.step.line = none) (h : x.frames.last = some f) : x.signal now = f.level now := by
  unfold Port.signal FrameLine.current
  rw [hline, h, Option.filter_some]
  split
  case h_1 heq => cases heq
  case h_2 g _ heq =>
    split at heq
    · cases heq
      rfl
    · cases heq
  case h_3 _ heq =>
    split at heq
    case isTrue => cases heq
    case isFalse hoff => rw [Frame.level_off (Bool.eq_false_iff.mpr hoff)]

/-- Settles O54: the interval, the bits of a frame, and the pair of wires. -/
theorem levelFrame : Obligations.LevelFrame := by
  refine ⟨?_, ?_, fun x now hkind hline => ⟨?_, fun f hf => Port.signal_frame hline hf, fun hnone => ?_⟩⟩
  · intro s p due
    have hdue : due ↔ s.frameDue p = true := Device.frameDue_iff.symm
    refine ⟨fun h => ?_, fun h => ?_⟩
    · rw [exec_levelFrameBegin, if_neg (mt hdue.mpr h)]
    · rw [exec_levelFrameBegin, if_pos (hdue.mp h)]
      rfl
  · intro f now e i bit
    refine ⟨fun hover => ?_, fun t hcut hreached => ?_, fun huncut => ⟨fun hspace => ?_, fun hlo hhi => ?_, fun hlo hhi => ?_⟩⟩
    · exact Frame.level_off (Bool.eq_false_iff.mpr fun h => by have := ((Frame.onLine_iff f now).mp h).1; omega)
    · exact Frame.level_off (Bool.eq_false_iff.mpr fun h => ((Frame.onLine_iff f now).mp h).2 t hcut hreached)
    · rw [Frame.level_on ((Frame.onLine_iff f now).mpr ⟨by omega, huncut⟩), if_pos hspace]
    · rw [Frame.level_on ((Frame.onLine_iff f now).mpr ⟨by omega, huncut⟩), if_neg (by omega), if_pos hhi]
    · have hlevel : f.level now = charLevel 8 2 (f.char i) ((e - 40) % 20) := by
        rw [Frame.level_on ((Frame.onLine_iff f now).mpr ⟨hhi, huncut⟩), if_neg (by omega), if_neg (by omega)]
      have hbits : charLevel 8 2 (f.char i) ((e - 40) % 20) = if bit = 0 then false else if bit ≤ 8 then (f.char i).testBit (bit - 1) else true := rfl
      rw [hlevel, hbits]
      refine ⟨fun h => if_pos h, fun h => ?_, fun h1 h8 => ⟨fun htype => ?_, fun c hc hchannel => ?_⟩⟩
      · rw [if_neg (by omega), if_neg (by omega)]
      · rw [if_neg (by omega), if_pos h8, htype, Frame.char_type]
      · rw [if_neg (by omega), if_pos h8, hchannel, Frame.char_level f hc]
  · rw [Port.wires, if_pos (by simp [hkind])]
  · rw [Port.signal, hline, FrameLine.current, hnone] <;> rfl

end Sys2Proof.Machine
end

section
/-! PROOFS. The forms of a STEP port (R130, R134): their characters are queued at the lead-in time, and the first goes on the line or waits for a cut frame (R143). -/
namespace Sys2Proof.Machine

/-! ## The timing queue and the transmitter make no access that others wait for -/

theorem NoAccess.foldl {α : Type} {f : Device → α → Device} (h : ∀ a, NoAccess fun d => f d a) : ∀ l : List α, NoAccess fun d => l.foldl f d
  | [] => NoAccess.id
  | a :: l => NoAccess.comp (NoAccess.foldl h l) (h a)

theorem NoAccess.queueChar (p : PortIx) (c : TimingChar) : NoAccess fun d => d.queueChar p c :=
  NoAccess.ite (c := fun d => (d.port p).step.timing.length < 16) (NoAccess.modPort p fun _ x => { x with step := { x.step with timing := x.step.timing ++ [c] } })
    (NoAccess.captureFault .linkOverrun (some p.val) none)

theorem NoAccess.queueChars (p : PortIx) (l : List TimingChar) : NoAccess fun d => d.queueChars p l := NoAccess.foldl (NoAccess.queueChar p) l

theorem NoAccess.choose (p : PortIx) : NoAccess fun d => d.choose p := NoAccess.modPort p fun d x => { x with step := x.step.startNext d.mem d.time }

theorem NoAccess.pump (p : PortIx) : NoAccess fun d => d.pump p :=
  NoAccess.ite (c := fun d => ((d.port p).frames.current d.time).isSome = true) NoAccess.id (NoAccess.choose p)

theorem Device.joinsResumed_withArbiter (d : Device) (l : List WaitingAccess) (j : Nat) : (d.withArbiter l).joinsResumed j = d.joinsResumed j := rfl

theorem NoAccess.queueJoinForm (p : PortIx) (j : Nat) : NoAccess fun d => d.queueJoinForm p j := fun d l => by
  have hport : (d.withArbiter l).modPort p (fun x => { x with step := { x.step with form := .queued j false } }) =
      (d.modPort p fun x => { x with step := { x.step with form := .queued j false } }).withArbiter l := rfl
  simp only [Device.queueJoinForm, Device.joinsResumed_withArbiter, hport]
  exact NoAccess.queueChars p _ _ l

theorem NoAccess.tryStepLeadIn (p : PortIx) : NoAccess fun d => d.tryStepLeadIn p := fun d l => by
  have hdue : (d.withArbiter l).stepLeadDue p = d.stepLeadDue p := rfl
  simp only [Device.tryStepLeadIn, hdue]
  rcases d.stepLeadDue p with - | j
  · rfl
  · exact NoAccess.queueJoinForm p j d l

theorem NoAccess.queueResumeForm (p : PortIx) (b : Nat) : NoAccess fun d => d.queueResumeForm p b := fun d l => by
  have hport : (d.withArbiter l).modPort p (fun x => { x with step := { x.step with resumeQueued := true } }) =
      (d.modPort p fun x => { x with step := { x.step with resumeQueued := true } }).withArbiter l := rfl
  simp only [Device.queueResumeForm, hport]
  exact NoAccess.queueChars p _ _ l

theorem NoAccess.tryResumeForm (p : PortIx) : NoAccess fun d => d.tryResumeForm p := fun d l => by
  have hdue : (d.withArbiter l).resumeFormDue p = d.resumeFormDue p := rfl
  simp only [Device.tryResumeForm, hdue]
  rcases d.resumeFormDue p with - | b
  · rfl
  · exact NoAccess.queueResumeForm p b d l

theorem exec_stepLeadIn (s : State) (p : PortIx) : exec (.stepLeadIn p) s = .next { s with toDevice := (s.tryStepLeadIn p).pump p } :=
  NoAccess.exec (c := .stepLeadIn p) (NoAccess.comp (NoAccess.pump p) (NoAccess.tryStepLeadIn p) : NoAccess fun d => (d.tryStepLeadIn p).pump p) rfl s

theorem exec_stepResumeForm (s : State) (p : PortIx) : exec (.stepResumeForm p) s = .next { s with toDevice := (s.tryResumeForm p).pump p } :=
  NoAccess.exec (c := .stepResumeForm p) (NoAccess.comp (NoAccess.pump p) (NoAccess.tryResumeForm p) : NoAccess fun d => (d.tryResumeForm p).pump p) rfl s

/-! ## Queueing and choosing -/

section
variable {d : Device} {p : PortIx}

theorem Device.setPort_self (d : Device) (p : PortIx) : d.setPort p (d.port p) = d := by
  have hports : d.ports.set p (d.ports.get p) = d.ports := Vector.set_getElem_self p.isLt
  rw [Device.setPort, Device.port, hports]

theorem Device.setPort_setPort (d : Device) (p : PortIx) (x y : Port) : (d.setPort p x).setPort p y = d.setPort p y := by
  simp only [Device.setPort, Vector.set_set]

theorem Device.modPort_eq_self {f : Port → Port} (h : f (d.port p) = d.port p) : d.modPort p f = d := by
  rw [Device.modPort, h, Device.setPort_self]

theorem Device.modPort_modPort (d : Device) (p : PortIx) (f g : Port → Port) : (d.modPort p f).modPort p g = d.modPort p (g ∘ f) := by
  simp only [Device.modPort, Device.port_setPort_same, Device.setPort_setPort, Function.comp_apply]

/-- Characters that find room are queued in their order. -/
theorem Device.queueChars_room : ∀ (l : List TimingChar) {d : Device}, (d.port p).step.timing.length + l.length ≤ 16 →
    d.queueChars p l = d.modPort p fun x => { x with step := { x.step with timing := x.step.timing ++ l } }
  | [], d, _ => by
    refine (Device.modPort_eq_self ?_).symm
    rw [List.append_nil]
  | c :: l, d, h => by
    rw [List.length_cons] at h
    have hone : d.queueChar p c = d.modPort p fun x => { x with step := { x.step with timing := x.step.timing ++ [c] } } := if_pos (by omega)
    have hroom : ((d.queueChar p c).port p).step.timing.length + l.length ≤ 16 := by
      rw [hone, Device.port_modPort_same, List.length_append, List.length_singleton]
      omega
    have hrest := Device.queueChars_room l hroom
    rw [Device.queueChars, List.foldl_cons]
    refine hrest.trans ?_
    rw [hone, Device.modPort_modPort]
    simp only [Function.comp_def, List.append_assoc, List.singleton_append]

/-- R143: a frame is still on the line. -/
theorem FrameLine.current_isSome_iff (f : FrameLine) (now : Time) : (f.current now).isSome = true ↔
    ∃ x, f.last = some x ∧ (now - x.begin).toNat < 3900 ∧ ∀ t, x.cut = some t → ¬ 0 ≤ timeDiff now t := by
  unfold FrameLine.current
  rcases f.last with - | x <;> simp [Option.filter_some, Frame.onLine_iff]

theorem Device.pump_busy (h : ((d.port p).frames.current d.time).isSome = true) : d.pump p = d := if_pos h

theorem Device.pump_idle (h : ((d.port p).frames.current d.time).isSome = false) : d.pump p = d.choose p := if_neg (by rw [h]; decide)

theorem StepLine.startNext_timing {s : StepLine} {c : TimingChar} {rest : List TimingChar} (hline : s.line = none) (h : s.timing = c :: rest)
    (m : List Host.Cell) (now : Time) :
    s.startNext m now = { s with line := some { code := c.code, ends := timePlus now 110 }, timing := rest, form := s.form.noteStart c } := by
  simp only [StepLine.startNext, hline, h]

theorem StepLine.startNext_none {s : StepLine} (hline : s.line = none) (htiming : s.timing = []) (howed : s.owed = []) (hqueue : s.queue = [])
    (m : List Host.Cell) (now : Time) : s.startNext m now = s := by
  simp only [StepLine.startNext, hline, htiming, howed, hqueue]

/-- With nothing to send the transmitter stays idle. -/
theorem Device.pump_nothing (hline : (d.port p).step.line = none) (htiming : (d.port p).step.timing = []) (howed : (d.port p).step.owed = [])
    (hqueue : (d.port p).step.queue = []) : d.pump p = d := by
  have hchoose : d.choose p = d := Device.modPort_eq_self (by rw [StepLine.startNext_none hline htiming howed hqueue])
  rw [Device.pump, hchoose, ite_self]

/-! ## When a form is due -/

theorem Device.stepLeadDue_eq {k : Nat} {e : PlanEntry} (hkind : (d.port p).settings.kind = .step) (hrun : (d.port p).run = .run)
    (hform : (d.port p).step.form = .pending k) (hentry : d.planEntry k = some e) : d.stepLeadDue p =
      if timeReached d.time (timeMinus (timeMinus (instantTime e.instant) (d.port p).settings.latency) 1000) then some k else none := by
  simp only [Device.stepLeadDue, hkind, hrun, hform, Device.dueAt_of hentry]

theorem Device.resumeFormDue_eq {k : Nat} {e : PlanEntry} (hkind : (d.port p).settings.kind = .step) (hresume : (d.port p).resume = some k)
    (hqueued : (d.port p).step.resumeQueued = false) (hentry : d.planEntry k = some e) : d.resumeFormDue p =
      if timeReached d.time (timeMinus (timeMinus (instantTime e.instant) (d.port p).settings.latency) 1000) then some k else none := by
  simp only [Device.resumeFormDue, hkind, hresume, hqueued, Device.dueAt_of hentry]

/-! ## The characters of a form -/

/-- POSITION with its four data characters, and the closing character (Table 8-2). -/
def formCodes (k : Nat) (last : BitVec 9) : List (BitVec 9) :=
  [0x120, BitVec.ofNat 9 (k % 256), BitVec.ofNat 9 (k / 256 % 256), BitVec.ofNat 9 (k / 65536 % 256), BitVec.ofNat 9 (k / 16777216 % 256), last]

theorem positionUnit_codes (k : Nat) (src : CharSource) (last : TimingChar) : (positionUnit k src ++ [last]).map (·.code) = formCodes k last.code := by
  simp [positionUnit, formCodes, chPosition]

/-- What the queueing of a form and the transmitter's choice leave at port p: its first character on the line, or waiting behind a frame. -/
structure Device.SendsForm (d e : Device) (p : PortIx) (codes : List (BitVec 9)) : Prop where
  others : ∀ q, q ≠ p → e.port q = d.port q
  mem : e.mem = d.mem
  idle : ((d.port p).frames.current d.time).isSome = false →
    (e.port p).step.line = some { code := 0x120, ends := timePlus d.time 110 } ∧ 0x120 :: (e.port p).step.timing.map (·.code) = codes
  busy : ((d.port p).frames.current d.time).isSome = true → (e.port p).step.line = none ∧ (e.port p).step.timing.map (·.code) = codes

theorem StepForm.noteStart_position (f : StepForm) (src : CharSource) : f.noteStart { code := chPosition, source := src, posData := false } = f := by
  cases f with
  | queued j sent => simp [StepForm.noteStart, chPosition, chStart, chResume]
  | none => rfl
  | pending j => rfl

/-- A port with this Step Link record, all else as before. -/
def Device.withStep (d : Device) (p : PortIx) (g : StepLine) : Device := d.setPort p { d.port p with step := g }

theorem Device.withStep_withStep (d : Device) (p : PortIx) (g h : StepLine) : (d.withStep p g).withStep p h = d.withStep p h := by
  simp only [Device.withStep, Device.port_setPort_same, Device.setPort_setPort]

@[simp] theorem Device.withStep_port_same (d : Device) (p : PortIx) (g : StepLine) : (d.withStep p g).port p = { d.port p with step := g } :=
  Device.port_setPort_same _ _ _

theorem Device.choose_eq (d : Device) (p : PortIx) : d.choose p = d.withStep p ((d.port p).step.startNext d.mem d.time) := rfl

/-- What a form's characters make of an idle Step Link record. -/
theorem Device.queueForm (d : Device) (p : PortIx) {g : StepLine} (k : Nat) (src : CharSource) (last : TimingChar) (htiming : g.timing = []) :
    (d.withStep p g).queueChars p (positionUnit k src ++ [last]) = d.withStep p { g with timing := positionUnit k src ++ [last] } := by
  have hroom : ((d.withStep p g).port p).step.timing.length + (positionUnit k src ++ [last]).length ≤ 16 := by
    rw [Device.withStep_port_same]
    simp [htiming, positionUnit]
  rw [Device.queueChars_room _ hroom]
  refine Eq.trans (b := (d.withStep p g).withStep p { g with timing := g.timing ++ (positionUnit k src ++ [last]) }) ?_ ?_
  · rw [Device.modPort, Device.withStep_port_same]
    simp only [Device.withStep, Device.port_setPort_same]
  · rw [Device.withStep_withStep, htiming, List.nil_append]

/-- A port with an idle transmitter and no timing character sends a form. -/
theorem Device.sendsForm (d : Device) (p : PortIx) {g : StepLine} (k : Nat) (src : CharSource) (last : TimingChar) (hline : g.line = none) (htiming : g.timing = []) :
    d.SendsForm (((d.withStep p g).queueChars p (positionUnit k src ++ [last])).pump p) p (formCodes k last.code) ∧
      ((((d.withStep p g).queueChars p (positionUnit k src ++ [last])).pump p).port p).step.form = g.form ∧
      ((((d.withStep p g).queueChars p (positionUnit k src ++ [last])).pump p).port p).resume = (d.port p).resume := by
  rw [Device.queueForm d p k src last htiming]
  generalize hqueued : d.withStep p { g with timing := positionUnit k src ++ [last] } = e
  have hport : e.port p = { d.port p with step := { g with timing := positionUnit k src ++ [last] } } := by rw [← hqueued, Device.withStep_port_same]
  have hothers : ∀ q, q ≠ p → e.port q = d.port q := fun q hq => by rw [← hqueued]; exact Device.port_setPort_ne _ _ hq
  have hmem : e.mem = d.mem := by rw [← hqueued]; rfl
  have htime : e.time = d.time := by rw [← hqueued]; rfl
  have hframes : (e.port p).frames.current e.time = (d.port p).frames.current d.time := by rw [hport, htime]
  have hcodes : (e.port p).step.timing.map (·.code) = formCodes k last.code := by rw [hport]; exact positionUnit_codes k src last
  cases hbusy : ((d.port p).frames.current d.time).isSome with
  | true =>
    rw [Device.pump_busy (by rw [hframes, hbusy])]
    refine ⟨⟨hothers, hmem, fun h => absurd (hbusy.symm.trans h) (by decide), fun _ => ⟨?_, hcodes⟩⟩, ?_, ?_⟩ <;> rw [hport]
    exact hline
  | false =>
    have hfirst : (e.port p).step.startNext e.mem e.time = { (e.port p).step with
        line := some { code := 0x120, ends := timePlus d.time 110 }, timing := (positionUnit k src ++ [last]).tail, form := g.form } := by
      rw [StepLine.startNext_timing (c := { code := chPosition, source := src, posData := false }) (rest := (positionUnit k src ++ [last]).tail)
        (by rw [hport]; exact hline) (by rw [hport]; rfl), StepForm.noteStart_position, htime, hport]
      rfl
    rw [Device.pump_idle (by rw [hframes, hbusy]), Device.choose_eq, hfirst]
    refine ⟨⟨fun q hq => (Device.port_setPort_ne _ _ hq).trans (hothers q hq), hmem, fun _ => ⟨?_, ?_⟩, fun h => absurd (hbusy.symm.trans h) (by decide)⟩, ?_, ?_⟩ <;>
      rw [Device.withStep_port_same]
    · exact positionUnit_codes k src last
    · rw [hport]

/-- R134: the closing character of the join form. -/
theorem Device.joinCode_eq (d : Device) (j : Nat) : (if d.joinsResumed j then chResume else chStart) =
    match d.planner.opening with | some o => if o.resumed = true ∧ o.first = j then 0x112 else 0x110 | none => 0x110 := by
  unfold Device.joinsResumed
  rcases d.planner.opening with - | o
  · rfl
  · simp only [Bool.and_eq_true, beq_iff_eq]
    rfl

theorem Device.tryStepLeadIn_due {k : Nat} (h : d.stepLeadDue p = some k) : d.tryStepLeadIn p =
    (d.withStep p { (d.port p).step with form := .queued k false }).queueChars p
      (positionUnit k .joinForm ++ [{ code := if d.joinsResumed k then chResume else chStart, source := .joinForm, posData := false }]) := by
  rw [Device.tryStepLeadIn, h]
  rfl

theorem Device.tryResumeForm_due {k : Nat} (h : d.resumeFormDue p = some k) : d.tryResumeForm p =
    (d.withStep p { (d.port p).step with resumeQueued := true }).queueChars p
      (positionUnit k .resumeForm ++ [{ code := chResume, source := .resumeForm, posData := false }]) := by
  rw [Device.tryResumeForm, h]
  rfl

end

theorem exec_stepLeadIn_due {s : State} {p : PortIx} {k : Nat} (hdue : s.stepLeadDue p = some k) (hline : (s.port p).step.line = none)
    (htiming : (s.port p).step.timing = []) : ∃ d : Device, exec (.stepLeadIn p) s = .next { s with toDevice := d } ∧
      s.SendsForm d p (formCodes k (if s.joinsResumed k then chResume else chStart)) ∧ (d.port p).step.form = .queued k false := by
  rw [exec_stepLeadIn, Device.tryStepLeadIn_due hdue]
  have hline' : ({ (s.port p).step with form := .queued k false } : StepLine).line = none := hline
  have htiming' : ({ (s.port p).step with form := .queued k false } : StepLine).timing = [] := htiming
  have hform' : ({ (s.port p).step with form := .queued k false } : StepLine).form = .queued k false := rfl
  generalize ({ (s.port p).step with form := .queued k false } : StepLine) = g at hline' htiming' hform' ⊢
  obtain ⟨hsent, hkept, -⟩ := Device.sendsForm s.toDevice p k .joinForm
    { code := if s.joinsResumed k then chResume else chStart, source := .joinForm, posData := false } hline' htiming'
  exact ⟨_, rfl, hsent, hkept.trans hform'⟩

theorem exec_stepResumeForm_due {s : State} {p : PortIx} {k : Nat} (hdue : s.resumeFormDue p = some k) (hline : (s.port p).step.line = none)
    (htiming : (s.port p).step.timing = []) : ∃ d : Device, exec (.stepResumeForm p) s = .next { s with toDevice := d } ∧
      s.SendsForm d p (formCodes k chResume) ∧ (d.port p).resume = (s.port p).resume := by
  rw [exec_stepResumeForm, Device.tryResumeForm_due hdue]
  have hline' : ({ (s.port p).step with resumeQueued := true } : StepLine).line = none := hline
  have htiming' : ({ (s.port p).step with resumeQueued := true } : StepLine).timing = [] := htiming
  generalize ({ (s.port p).step with resumeQueued := true } : StepLine) = g at hline' htiming' ⊢
  obtain ⟨hsent, -, hkept⟩ := Device.sendsForm s.toDevice p k .resumeForm { code := chResume, source := .resumeForm, posData := false } hline' htiming'
  exact ⟨_, rfl, hsent, hkept⟩

/-- Settles O57: both forms at their lead-in times, and not before. -/
theorem stepForms : Obligations.StepForms := by
  intro s p k e hentry hkind hline htiming howed hqueue lead form busy sends
  have hbusy : busy ↔ ((s.port p).frames.current s.time).isSome = true := (FrameLine.current_isSome_iff _ _).symm
  have hsends : ∀ (d : Device) (last : BitVec 9), s.SendsForm d p (formCodes k last) → sends d (form last) := fun d last h =>
    ⟨h.others, h.mem, fun hidle => h.idle (Bool.eq_false_iff.mpr (mt hbusy.mpr hidle)), fun hwaits => h.busy (hbusy.mp hwaits)⟩
  have hnothing := Device.pump_nothing hline htiming howed hqueue
  refine ⟨fun hform hrun => ?_, fun hresume hqueued => ?_⟩
  · have hdue := Device.stepLeadDue_eq hkind hrun hform hentry
    refine ⟨fun hearly => ?_, fun hreached => ?_⟩
    · rw [if_neg (mt (timeReached_iff _ _).mp hearly)] at hdue
      rw [exec_stepLeadIn, Device.tryStepLeadIn, hdue, hnothing]
    · rw [if_pos ((timeReached_iff _ _).mpr hreached)] at hdue
      obtain ⟨d, hexec, hsent, hkept⟩ := exec_stepLeadIn_due hdue hline htiming
      rw [Device.joinCode_eq] at hsent
      exact ⟨d, hexec, hsends d _ hsent, hkept⟩
  · have hdue := Device.resumeFormDue_eq hkind hresume hqueued hentry
    refine ⟨fun hearly => ?_, fun hreached => ?_⟩
    · rw [if_neg (mt (timeReached_iff _ _).mp hearly)] at hdue
      rw [exec_stepResumeForm, Device.tryResumeForm, hdue, hnothing]
    · rw [if_pos ((timeReached_iff _ _).mpr hreached)] at hdue
      obtain ⟨d, hexec, hsent, hkept⟩ := exec_stepResumeForm_due hdue hline htiming
      exact ⟨d, hexec, hsends d chResume hsent, hkept.trans hresume⟩

end Sys2Proof.Machine
end

section
/-! PROOFS. The status write (R162, R163): a run of accesses as one fold over the items of Table 10-2, and what each byte of the page then reads. -/
namespace Sys2Proof.Machine

/-! ## Items by rising offset -/

/-- Items one behind the other, from this offset on and within the page. -/
def ascending : Nat → List StatusItem → Bool
  | lo, [] => decide (lo ≤ 0x400)
  | lo, it :: l => decide (lo ≤ it.offset) && ascending (it.offset + it.size) l

theorem statusItems_ascending : ascending 4 statusItems = true := by decide +kernel

theorem statusItems_length : statusItems.length = 388 := by decide +kernel

theorem ascending_le : ∀ {l : List StatusItem} {lo : Nat}, ascending lo l = true → lo ≤ 0x400
  | [], _, h => of_decide_eq_true h
  | it :: l, lo, h => by
    rw [ascending, Bool.and_eq_true, decide_eq_true_eq] at h
    have := ascending_le h.2
    omega

theorem ascending_lo : ∀ {l : List StatusItem} {lo : Nat}, ascending lo l = true → ∀ it ∈ l, lo ≤ it.offset
  | [], _, _, _, hmem => absurd hmem List.not_mem_nil
  | x :: l, lo, h, it, hmem => by
    rw [ascending, Bool.and_eq_true, decide_eq_true_eq] at h
    rcases List.mem_cons.mp hmem with rfl | hmem
    · exact h.1
    · have := ascending_lo h.2 it hmem
      omega

/-- The memory after these items have been written, each with its value. -/
def writeItems (v : StatusItem → Nat) (m : List Host.Cell) (l : List StatusItem) : List Host.Cell :=
  l.foldl (fun m it => Memory.writeLE m it.offset it.size (v it)) m

theorem writeItems_wf (v : StatusItem → Nat) : ∀ (l : List StatusItem) {m : List Host.Cell}, Memory.wf m = true → Memory.wf (writeItems v m l) = true
  | [], _, h => h
  | it :: l, _, h => writeItems_wf v l (Memory.wf_writeLE it.size it.offset (v it) h)

theorem read_writeItems_outside (v : StatusItem → Nat) : ∀ (l : List StatusItem) {lo : Nat} (m : List Host.Cell) {a : Nat}, ascending lo l = true →
    a < lo ∨ 0x400 ≤ a → Memory.read (writeItems v m l) a = Memory.read m a
  | [], _, _, _, _, _ => rfl
  | it :: l, lo, m, a, h, ha => by
    rw [ascending, Bool.and_eq_true, decide_eq_true_eq] at h
    obtain ⟨hlo, hrest⟩ := h
    have hend := ascending_le hrest
    refine (read_writeItems_outside v l _ hrest (by omega)).trans ?_
    exact Memory.read_writeLE_outside it.size m (v it) (by omega)

/-- Each item reads back as its value. -/
theorem readLE_writeItems (v : StatusItem → Nat) : ∀ (l : List StatusItem) {lo : Nat} {m : List Host.Cell}, ascending lo l = true → Memory.wf m = true →
    ∀ it ∈ l, Memory.readLE (writeItems v m l) it.offset it.size = v it % 256 ^ it.size
  | [], _, _, _, _, _, hmem => absurd hmem List.not_mem_nil
  | x :: l, lo, m, h, hm, it, hmem => by
    rw [ascending, Bool.and_eq_true, decide_eq_true_eq] at h
    rcases List.mem_cons.mp hmem with rfl | hmem
    · refine (Memory.readLE_congr it.size it.offset fun a _ hhi => ?_).trans (Memory.readLE_writeLE_same it.size it.offset (v it) hm)
      exact read_writeItems_outside v l _ h.2 (.inl hhi)
    · exact readLE_writeItems v l h.2 (Memory.wf_writeLE x.size x.offset (v x) hm) it hmem

/-! ## The write as a fold -/

/-- The part in a status write: the memory written so far, and the number of accesses made. -/
def Device.writing (d : Device) (w : Writer) (m : List Host.Cell) (k : Nat) : Device := { d with mem := m, writer := some { w with made := k } }

/-- The epoch word raised by 1 (R163). -/
def epochRaised (m : List Host.Cell) : List Host.Cell := Memory.writeLE m 0 4 ((Memory.readLE m 0 4 + 1) % 4294967296)

section
variable {d : Device} {w : Writer} (hidle : d.arbiter = [])
include hidle

theorem Device.writing_bumpEpoch (m : List Host.Cell) (k : Nat) : (d.writing w m k).bumpEpoch = d.writing w (epochRaised m) k :=
  Device.poke_quiet (d := d.writing w m k) hidle _ _ _

theorem Device.writing_poke (m : List Host.Cell) (k a n v : Nat) : (d.writing w m k).poke a n v = d.writing w (Memory.writeLE m a n v) k :=
  Device.poke_quiet (d := d.writing w m k) hidle _ _ _

end

/-- No item's value depends on the memory or on the number of accesses made. -/
theorem statusItem_value {d : Device} {w : Writer} (hw : d.writer = some w) (m : List Host.Cell) (k : Nat) :
    ∀ it ∈ statusItems, it.value (d.writing w m k) = it.value d := by
  have hstart : (d.writing w m k).writeStart = d.writeStart := by
    rw [Device.writeStart, Device.writeStart, hw]
    rfl
  have hrecord : ∀ p, ∀ it ∈ recordItems p, it.value (d.writing w m k) = it.value d := by
    intro p it hit
    simp only [recordItems, List.mem_cons, List.not_mem_nil, or_false] at hit
    rcases hit with rfl | rfl | rfl | rfl | rfl | rfl | rfl | rfl | rfl <;> rfl
  have hhead : ∀ it ∈ headItems, it.value (d.writing w m k) = it.value d := by
    intro it hit
    simp only [headItems, List.mem_cons, List.not_mem_nil, or_false] at hit
    rcases hit with rfl | rfl | rfl | rfl | rfl | rfl | rfl | rfl | rfl | rfl | rfl | rfl | rfl | rfl | rfl | rfl <;> rfl
  have hmiddle : ∀ it ∈ middleItems, it.value (d.writing w m k) = it.value d := by
    intro it hit
    simp only [middleItems, List.mem_append, List.mem_cons, List.not_mem_nil, or_false, List.mem_map] at hit
    rcases hit with (rfl | rfl | rfl | rfl | rfl | rfl | rfl | rfl | rfl | rfl | rfl | rfl | rfl | rfl | rfl | rfl) | ⟨i, -, rfl⟩ <;> first | rfl | exact hstart
  intro it hit
  simp only [statusItems, List.mem_append, List.mem_flatMap, List.mem_map] at hit
  rcases hit with ((hit | hit) | ⟨p, -, hit⟩) | ⟨i, -, rfl⟩
  · exact hhead it hit
  · exact hmiddle it hit
  · exact hrecord p it hit
  · rfl

section
variable {d : Device} {w : Writer} (hidle : d.arbiter = []) (hw : d.writer = some w)
include hidle

theorem Device.statusStep_first (hmade : w.made = 0) (hw : d.writer = some w) : d.statusStep = d.writing w (epochRaised d.mem) 1 := by
  have hself : d = d.writing w d.mem 0 := by rw [Device.writing, ← hmade, ← hw]
  have hmore : ¬ statusAccesses ≤ 1 := by rw [statusAccesses, statusItems_length]; omega
  rw [Device.statusStep, hw]
  simp only [hmade, Nat.zero_add, if_neg hmore, Device.statusAccess]
  rw [hself, Device.writing_bumpEpoch hidle]
  rfl

theorem Device.statusStep_last (m : List Host.Cell) : (d.writing w m 389).statusStep = (d.writing w (epochRaised m) 390).endWrite := by
  have hend : statusItems[388]? = none := List.getElem?_eq_none_iff.mpr (Nat.le_of_eq statusItems_length)
  have hdone : statusAccesses ≤ 389 + 1 := by
    rw [statusAccesses]
    have hlength := statusItems_length
    omega
  have haccess : (d.writing w m 389).statusAccess 389 = d.writing w (epochRaised m) 389 := by
    rw [Device.statusAccess, hend]
    exact Device.writing_bumpEpoch hidle m 389
  rw [Device.statusStep]
  simp only [Device.writing] at haccess ⊢
  simp only [haccess, if_pos hdone]

include hw

theorem Device.statusStep_item {i : Nat} {it : StatusItem} (hit : statusItems[i]? = some it) (m : List Host.Cell) :
    (d.writing w m (i + 1)).statusStep = d.writing w (Memory.writeLE m it.offset it.size (it.value d)) (i + 2) := by
  have hlt : i < 388 := statusItems_length ▸ (List.getElem?_eq_some_iff.mp hit).1
  have hmore : ¬ statusAccesses ≤ i + 1 + 1 := by rw [statusAccesses, statusItems_length]; omega
  have hvalue := statusItem_value hw m (i + 1) it (List.mem_of_getElem? hit)
  have haccess : (d.writing w m (i + 1)).statusAccess (i + 1) = d.writing w (Memory.writeLE m it.offset it.size (it.value d)) (i + 1) := by
    rw [Device.statusAccess, hit]
    exact (Device.writing_poke hidle m (i + 1) _ _ _).trans (by rw [hvalue])
  rw [Device.statusStep]
  simp only [Device.writing] at haccess ⊢
  simp only [haccess, if_neg hmore]

/-- The accesses from item i on, and the last of the epoch. -/
theorem Device.statusRun_items : ∀ (l : List StatusItem) (i : Nat) (m : List Host.Cell), statusItems.drop i = l → i + l.length = 388 →
    Device.statusRun (l.length + 1) (d.writing w m (i + 1)) = (d.writing w (epochRaised (writeItems (fun it => it.value d) m l)) 390).endWrite
  | [], i, m, _, hlen => by
    rw [List.length_nil, Nat.add_zero] at hlen
    have hlast := Device.statusStep_last (w := w) hidle m
    rw [hlen]
    exact hlast
  | it :: l, i, m, hl, hlen => by
    rw [List.length_cons] at hlen
    have hit : statusItems[i]? = some it := by rw [← List.head?_drop, hl]; rfl
    have hrest : statusItems.drop (i + 1) = l := by rw [← List.tail_drop, hl]; rfl
    rw [List.length_cons, Device.statusRun, Device.statusStep_item hidle hw hit]
    exact Device.statusRun_items l (i + 1) _ hrest (by omega)

/-- A whole status write from its start. -/
theorem Device.statusRun_whole (hmade : w.made = 0) : Device.statusRun statusAccesses d =
    (d.writing w (epochRaised (writeItems (fun it => it.value d) (epochRaised d.mem) statusItems)) 390).endWrite := by
  have haccesses : statusAccesses = 388 + 1 + 1 := by
    rw [statusAccesses]
    have hlength := statusItems_length
    omega
  have hitems := Device.statusRun_items hidle hw statusItems 0 (epochRaised d.mem) rfl (by rw [statusItems_length])
  rw [statusItems_length] at hitems
  rw [haccesses, Device.statusRun, Device.statusStep_first hidle hmade hw]
  exact hitems

end

/-! ## What the page then reads -/

theorem mem_statusItems_head {it : StatusItem} (h : it ∈ headItems) : it ∈ statusItems :=
  List.mem_append_left _ (List.mem_append_left _ (List.mem_append_left _ h))

theorem mem_statusItems_middle {it : StatusItem} (h : it ∈ middleItems) : it ∈ statusItems :=
  List.mem_append_left _ (List.mem_append_left _ (List.mem_append_right _ h))

theorem mem_statusItems_record {it : StatusItem} {p : PortIx} (h : it ∈ recordItems p) : it ∈ statusItems :=
  List.mem_append_left _ (List.mem_append_right _ (List.mem_flatMap.mpr ⟨p, Device.mem_allPorts p, h⟩))

theorem mem_statusItems_rest {i : Nat} (h : i < 128) : zeroItem (0x200 + 4 * i) 4 ∈ statusItems :=
  List.mem_append_right _ (List.mem_map.mpr ⟨i, List.mem_range.mpr h, rfl⟩)

theorem mem_middleItems_zero {i : Nat} (h : i < 12) : zeroItem (0x50 + 4 * i) 4 ∈ middleItems :=
  List.mem_append_right _ (List.mem_map.mpr ⟨i, List.mem_range.mpr h, rfl⟩)

/-- A number that reads 0 has no byte that is not 0. -/
theorem Memory.read_of_readLE_zero {m : List Host.Cell} : ∀ (n a : Nat), Memory.readLE m a n = 0 → ∀ b, a ≤ b → b < a + n → Memory.read m b = 0
  | 0, _, _, _, hlo, hhi => absurd hlo (by omega)
  | n + 1, a, h, b, hlo, hhi => by
    rw [Memory.readLE] at h
    rcases Nat.eq_or_lt_of_le hlo with rfl | hlt
    · exact BitVec.eq_of_toNat_eq (show (Memory.read m a).toNat = 0 by omega)
    · exact Memory.read_of_readLE_zero n (a + 1) (by omega) b hlt (by omega)

/-- The memory after a whole status write. -/
def statusMemory (d : Device) : List Host.Cell := epochRaised (writeItems (fun it => it.value d) (epochRaised d.mem) statusItems)

theorem epochRaised_wf {m : List Host.Cell} (h : Memory.wf m = true) : Memory.wf (epochRaised m) = true := Memory.wf_writeLE 4 0 _ h

theorem read_epochRaised {m : List Host.Cell} {a : Nat} (h : 4 ≤ a) : Memory.read (epochRaised m) a = Memory.read m a :=
  Memory.read_writeLE_outside 4 m _ (by omega)

theorem readLE_epochRaised {m : List Host.Cell} (h : Memory.wf m = true) : Memory.readLE (epochRaised m) 0 4 = (Memory.readLE m 0 4 + 1) % 4294967296 := by
  rw [epochRaised, Memory.readLE_writeLE_same 4 0 _ h]
  omega

section
variable {d : Device} (hm : d.MemOk)
include hm

theorem statusMemory_epoch : Memory.readLE (statusMemory d) 0 4 = (Memory.readLE d.mem 0 4 + 2) % 4294967296 := by
  have hkept : Memory.readLE (writeItems (fun it => it.value d) (epochRaised d.mem) statusItems) 0 4 = Memory.readLE (epochRaised d.mem) 0 4 :=
    Memory.readLE_congr 4 0 fun a _ hhi => read_writeItems_outside _ statusItems _ statusItems_ascending (.inl (by omega))
  rw [statusMemory, readLE_epochRaised (writeItems_wf _ _ (epochRaised_wf hm)), hkept, readLE_epochRaised hm]
  omega

theorem statusMemory_item {it : StatusItem} (h : it ∈ statusItems) : Memory.readLE (statusMemory d) it.offset it.size = it.value d % 256 ^ it.size := by
  have hlo := ascending_lo statusItems_ascending it h
  refine (Memory.readLE_congr it.size it.offset fun a hle _ => read_epochRaised (Nat.le_trans hlo hle)).trans ?_
  exact readLE_writeItems _ statusItems statusItems_ascending (epochRaised_wf hm) it h

theorem statusMemory_zero {off size : Nat} (h : zeroItem off size ∈ statusItems) {a : Nat} (hlo : off ≤ a) (hhi : a < off + size) :
    Memory.read (statusMemory d) a = 0 :=
  Memory.read_of_readLE_zero size off ((statusMemory_item hm h).trans (Nat.zero_mod _)) a hlo hhi

end

theorem statusMemory_outside (d : Device) {a : Nat} (h : 0x400 ≤ a) : Memory.read (statusMemory d) a = Memory.read d.mem a := by
  rw [statusMemory, read_epochRaised (by omega), read_writeItems_outside _ statusItems _ statusItems_ascending (.inr h), read_epochRaised (by omega)]

/-- What a whole status write leaves in the memory. -/
structure Device.PageWritten (d : Device) (m : List Host.Cell) : Prop where
  epoch : Memory.readLE m 0 4 = (Memory.readLE d.mem 0 4 + 2) % 4294967296
  items : ∀ it ∈ statusItems, Memory.readLE m it.offset it.size = it.value d % 256 ^ it.size
  outside : ∀ a, 0x400 ≤ a → Memory.read m a = Memory.read d.mem a

theorem statusMemory_written {d : Device} (hm : d.MemOk) : d.PageWritten (statusMemory d) :=
  ⟨statusMemory_epoch hm, fun _ => statusMemory_item hm, fun _ => statusMemory_outside d⟩

section
variable {d : Device} {m : List Host.Cell} (h : d.PageWritten m)
include h

theorem Device.PageWritten.head (i : Nat) {it : StatusItem} (hit : headItems[i]? = some it) : Memory.readLE m it.offset it.size = it.value d % 256 ^ it.size :=
  h.items it (mem_statusItems_head (List.mem_of_getElem? hit))

theorem Device.PageWritten.middle (i : Nat) {it : StatusItem} (hit : middleItems[i]? = some it) : Memory.readLE m it.offset it.size = it.value d % 256 ^ it.size :=
  h.items it (mem_statusItems_middle (List.mem_of_getElem? hit))

theorem Device.PageWritten.record (p : PortIx) (i : Nat) {it : StatusItem} (hit : (recordItems p)[i]? = some it) :
    Memory.readLE m it.offset it.size = it.value d % 256 ^ it.size := h.items it (mem_statusItems_record (List.mem_of_getElem? hit))

theorem Device.PageWritten.zero {off size : Nat} (hz : zeroItem off size ∈ statusItems) {a : Nat} (hlo : off ≤ a) (hhi : a < off + size) : Memory.read m a = 0 :=
  Memory.read_of_readLE_zero size off ((h.items _ hz).trans (Nat.zero_mod _)) a hlo hhi

/-- The bytes that Table 10-2 does not name. -/
theorem Device.PageWritten.unnamed {a : Nat}
    (ha : (0x21 ≤ a ∧ a < 0x24) ∨ (0x32 ≤ a ∧ a < 0x34) ∨ (0x38 ≤ a ∧ a < 0x40) ∨ (0x4D ≤ a ∧ a < 0x80) ∨ (0x200 ≤ a ∧ a < 0x400)) : Memory.read m a = 0 := by
  have hhead (i : Nat) {off size : Nat} (hi : headItems[i]? = some (zeroItem off size)) := h.zero (mem_statusItems_head (List.mem_of_getElem? hi)) (a := a)
  have hmiddle (i : Nat) {off size : Nat} (hi : middleItems[i]? = some (zeroItem off size)) := h.zero (mem_statusItems_middle (List.mem_of_getElem? hi)) (a := a)
  rcases ha with ha | ha | ha | ha | ha
  · rcases Nat.lt_or_ge a 0x22 with hlt | hge
    · exact hhead 14 rfl (by omega) (by omega)
    · exact hhead 15 rfl (by omega) (by omega)
  · exact hmiddle 4 rfl (by omega) (by omega)
  · rcases Nat.lt_or_ge a 0x3C with hlt | hge
    · exact hmiddle 6 rfl (by omega) (by omega)
    · exact hmiddle 7 rfl (by omega) (by omega)
  · rcases Nat.lt_or_ge a 0x4E with hlt | hge
    · exact hmiddle 14 rfl (by omega) (by omega)
    · rcases Nat.lt_or_ge a 0x50 with hlt | hge
      · exact hmiddle 15 rfl (by omega) (by omega)
      · exact h.zero (mem_statusItems_middle (mem_middleItems_zero (i := (a - 0x50) / 4) (by omega))) (by omega) (by omega)
  · exact h.zero (mem_statusItems_rest (i := (a - 0x200) / 4) (by omega)) (by omega) (by omega)

/-- R175: an empty fault record shows as zero bytes. -/
theorem Device.PageWritten.noFault (hempty : d.capture = none) {a : Nat} (hlo : 0x40 ≤ a) (hhi : a < 0x4D) : Memory.read m a = 0 := by
  have hshown : ∀ f, d.faultShown f = 0 := fun f => by rw [Device.faultShown, hempty]
  have hzero (i : Nat) {it : StatusItem} (hi : middleItems[i]? = some it) (hv : it.value d = 0) :=
    Memory.read_of_readLE_zero it.size it.offset ((h.middle i hi).trans (by rw [hv, Nat.zero_mod])) a
  rcases Nat.lt_or_ge a 0x41 with hlt | hge
  · exact hzero 8 rfl (hshown _) hlo hlt
  rcases Nat.lt_or_ge a 0x42 with hlt | hge
  · exact hzero 9 rfl (hshown _) hge hlt
  rcases Nat.lt_or_ge a 0x44 with hlt | hge
  · exact hzero 10 rfl (hshown _) hge hlt
  rcases Nat.lt_or_ge a 0x48 with hlt | hge
  · exact hzero 11 rfl (hshown _) hge hlt
  rcases Nat.lt_or_ge a 0x4C with hlt | hge
  · exact hzero 12 rfl (hshown _) hge hlt
  · exact hzero 13 rfl (hshown _) hge hhi

end

/-! ## The command -/

theorem exec_statusWrite {s : State} (h : s.Quiet) (n : Nat) : exec (.statusWrite n) s = .next { s with toDevice := Device.statusRun n s.toDevice } :=
  exec_of_quiet (c := .statusWrite n) h rfl ((Keeps.statusRun (m := 0) n s.toDevice).arbiter h.idle)

theorem Device.statusRun_none {d : Device} (h : d.writer = none) : ∀ n, Device.statusRun n d = d
  | 0 => rfl
  | n + 1 => by
    have hstep : d.statusStep = d := by rw [Device.statusStep, h]
    rw [Device.statusRun, hstep]
    exact Device.statusRun_none h n

/-- What the end of a whole status write leaves beside the memory. -/
theorem Device.endWrite_writing (d : Device) (w : Writer) (m : List Host.Cell) (k : Nat) : (d.writing w m k).endWrite =
    { d with mem := m, writer := if d.writerAgain then some { made := 0, since := d.time } else none, writerAgain := false } := by
  rw [Device.endWrite]
  by_cases hagain : d.writerAgain = true
  · simp only [Device.writing, hagain, if_true]
  · simp only [Device.writing, Bool.eq_false_iff.mpr hagain]
    rfl

theorem exec_statusWrite_whole {s : State} (h : s.Quiet) {w : Writer} (hw : s.writer = some w) (hmade : w.made = 0) :
    exec (.statusWrite statusAccesses) s = .next { s with toDevice :=
      { s.toDevice with
        mem := statusMemory s.toDevice, writer := if s.writerAgain then some { made := 0, since := s.time } else none, writerAgain := false } } := by
  rw [exec_statusWrite h, Device.statusRun_whole h.idle hw hmade, Device.endWrite_writing]
  rfl

/-! ## The codes that the page shows (Table 10-2) -/

theorem transport_byte (x : Transport) : x.code % 256 = match x with | .stopped => 0 | .running => 1 | .stopping => 2 := by cases x <;> rfl

theorem mode_byte (x : DeviceMode) : x.code % 256 = match x with | .init => 0 | .attended => 1 | .carry => 2 | .house => 3 := by cases x <;> rfl

theorem follower_byte (x : FollowerState) : x.code % 256 = match x with | .off => 0 | .seeking => 1 | .locked => 2 | .holding => 3 := by cases x <;> rfl

theorem bit_byte (b : Bool) : bit b % 256 = if b then 1 else 0 := by cases b <;> rfl

theorem horizon_word (d : Device) : d.horizonShown % 4294967296 = match d.planner.horizon with | some c => c % 4294967296 | none => 0 := by
  unfold Device.horizonShown
  rcases d.planner.horizon with - | c <;> rfl

theorem writeStart_word {d : Device} {w : Writer} (hw : d.writer = some w) : d.writeStart % 4294967296 = timeLow32 w.since := by
  rw [Device.writeStart, hw]
  exact Nat.mod_mod _ _

theorem fault_byte (k : FaultKind) : k.code % 256 = match k with
    | .ownedWrite => 1 | .statusProtect => 2 | .noticeOverflow => 3 | .serviceLost => 4 | .portFlap => 5 | .followLost => 6 | .linkOverrun => 7 := by
  cases k <;> rfl

theorem faultPort_byte (r : FaultRecord) : r.portCode % 256 = match r.port with | some p => p % 256 | none => 0xFF := by
  unfold FaultRecord.portCode
  rcases r.port with - | p <;> rfl

theorem faultSlot_half (r : FaultRecord) : r.slotCode % 65536 = match r.slot with | some n => n % 65536 | none => 0xFFFF := by
  unfold FaultRecord.slotCode
  rcases r.slot with - | n <;> rfl

theorem portState_byte (x : PortState) : x.code % 256 =
    match x with | .idle => 0 | .detached => 1 | .acquiring => 2 | .settling => 3 | .locked => 4 | .faulted => 5 := by
  cases x <;> rfl

theorem portKind_byte (x : PortKind) : x.code % 256 = match x with | .none => 0 | .clock => 1 | .step => 2 | .level => 3 := by cases x <;> rfl

/-- Settles O58: the first access, and every byte of the page after the last. -/
theorem statusWrite : Obligations.StatusWrite := by
  intro s hm hquiet
  refine ⟨fun n hnone => by rw [exec_statusWrite hquiet, Device.statusRun_none hnone], fun w hw hmade => ⟨?_, ?_⟩⟩
  · rw [exec_statusWrite hquiet, Device.statusRun, Device.statusRun, Device.statusStep_first hquiet.idle hmade hw]
    rfl
  · have hexec := exec_statusWrite_whole hquiet hw hmade
    have hpage := statusMemory_written hm
    generalize statusMemory s.toDevice = m at hexec hpage
    refine ⟨_, hexec, hpage.epoch, hpage.items, ?_, ?_, ?_, ?_, ?_, ?_, ?_, ?_, ?_, ?_, fun hempty a hlo hhi => hpage.noFault hempty hlo hhi, fun r hr => ?_, fun p => ?_,
      fun a ha => hpage.unnamed ha, hpage.outside, rfl⟩
    · exact (hpage.head 0 rfl).trans (transport_byte s.planner.transport)
    · exact (hpage.head 1 rfl).trans (mode_byte s.mode)
    · exact (hpage.head 2 rfl).trans (follower_byte s.follower.state)
    · exact hpage.head 4 rfl
    · exact (hpage.head 7 rfl).trans (bit_byte s.overflow)
    · exact (hpage.head 12 rfl).trans (horizon_word s.toDevice)
    · exact (hpage.head 13 rfl).trans (bit_byte s.planner.horizon.isSome)
    · exact hpage.middle 0 rfl
    · exact hpage.middle 3 rfl
    · exact (hpage.middle 5 rfl).trans (writeStart_word hw)
    · have hshown : ∀ f, s.faultShown f = f r := fun f => by rw [Device.faultShown, hr]
      refine ⟨(hpage.middle 8 rfl).trans ?_, (hpage.middle 9 rfl).trans ?_, (hpage.middle 10 rfl).trans ?_, (hpage.middle 11 rfl).trans ?_,
        (hpage.middle 12 rfl).trans ?_, (hpage.middle 13 rfl).trans ?_⟩
      · exact (congrArg (· % 256) (hshown (·.kind.code))).trans (fault_byte r.kind)
      · exact (congrArg (· % 256) (hshown _)).trans (faultPort_byte r)
      · exact (congrArg (· % 65536) (hshown _)).trans (faultSlot_half r)
      · exact congrArg (· % 4294967296) (hshown _)
      · exact (congrArg (· % 4294967296) (hshown fun x => timeLow32 x.time)).trans (Nat.mod_mod _ _)
      · exact congrArg (· % 256) (hshown _)
    · exact ⟨(hpage.record p 0 rfl).trans (portState_byte (s.port p).state), (hpage.record p 1 rfl).trans (portKind_byte (s.port p).settings.kind),
        (hpage.record p 2 rfl).trans (bit_byte (s.port p).presence), hpage.record p 4 rfl, hpage.record p 5 rfl, hpage.record p 7 rfl,
        (hpage.record p 8 rfl).trans (Nat.zero_mod _)⟩

end Sys2Proof.Machine
end

section
/-! PROOFS. Everything that is HELD (R91): what the list of held cues contains, and which cue a slot names. The port cues' takes: a cue that enters its list (R91, R95), and one that ends there MISSED (R100). -/
namespace Sys2Proof.Machine

/-! ## Held cues -/

/-- The cue stands at this place. -/
def Device.Stands (d : Device) : Place → Cue → Prop
  | .global, c => c ∈ d.globals
  | .list p, c => c ∈ (d.port p).cues
  | .flight p, c => ∃ f ∈ (d.port p).step.queue, f.cue = c

theorem Device.mem_held_iff {d : Device} {place : Place} {c : Cue} : (place, c) ∈ d.held ↔ d.Stands place c := by
  simp only [Device.held, List.mem_append, List.mem_map, List.mem_flatMap, Device.mem_allPorts, true_and, Prod.mk.injEq]
  cases place with
  | global => simp [Device.Stands]
  | list p => simp [Device.Stands]
  | flight p =>
    simp only [Device.Stands, reduceCtorEq, false_and, and_false, exists_false, false_or, or_false, Place.flight.injEq]
    constructor
    · rintro ⟨_, f, hf, rfl, hc⟩
      exact ⟨f, hf, hc⟩
    · rintro ⟨f, hf, hc⟩
      exact ⟨p, f, hf, rfl, hc⟩

theorem Device.heldAt_stands {d : Device} {n : Nat} {place : Place} {c : Cue} (h : d.heldAt n = some (place, c)) : d.Stands place c ∧ c.slot = n := by
  have hmem := List.mem_of_find?_eq_some h
  have hslot := List.find?_some h
  exact ⟨Device.mem_held_iff.mp hmem, by simpa using hslot⟩

theorem Device.heldAt_none_iff {d : Device} {n : Nat} : d.heldAt n = none ↔ ∀ place c, d.Stands place c → c.slot ≠ n := by
  simp only [Device.heldAt, List.find?_eq_none, Prod.forall, Device.mem_held_iff, beq_iff_eq]

/-- A slot names the cue that stands alone under it. -/
theorem Device.heldAt_of_only {d : Device} {n : Nat} {place : Place} {c : Cue} (hc : d.Stands place c) (hslot : c.slot = n)
    (honly : ∀ place' c', d.Stands place' c' → c'.slot = n → place' = place ∧ c' = c) : d.heldAt n = some (place, c) := by
  have hex : d.heldAt n ≠ none := fun h => Device.heldAt_none_iff.mp h place c hc hslot
  obtain ⟨⟨place', c'⟩, h⟩ := Option.ne_none_iff_exists'.mp hex
  obtain ⟨hstands, hslot'⟩ := Device.heldAt_stands h
  obtain ⟨rfl, rfl⟩ := honly place' c' hstands hslot'
  exact h

theorem mem_insertCue {a c : Cue} : ∀ {l : List Cue}, a ∈ insertCue c l ↔ a = c ∨ a ∈ l
  | [] => by simp [insertCue]
  | b :: l => by
    rw [insertCue]
    split
    · simp
    · simp only [List.mem_cons, mem_insertCue (l := l)]
      exact or_left_comm

theorem mem_dropCue {a : Cue} {n : Nat} {l : List Cue} : a ∈ dropCue n l ↔ a ∈ l ∧ a.slot ≠ n := by simp [dropCue]

/-- The outlook of a port: what its cues are judged by. -/
structure Device.SameOutlook (d e : Device) (p : PortIx) : Prop where
  planner : e.planner = d.planner
  state : (e.port p).state = (d.port p).state
  cursor : (e.port p).cursor = (d.port p).cursor
  join : (e.port p).join = (d.port p).join

namespace Device.SameOutlook
variable {d e : Device} {p : PortIx} (h : d.SameOutlook e p)
include h

theorem runUnderWay : e.runUnderWay = d.runUnderWay := by
  simp only [Device.runUnderWay, h.planner]

theorem refPoint : e.refPoint p = d.refPoint p := by
  simp only [Device.refPoint, Device.runUnderWay, Device.nextFirst, h.planner, h.state, h.cursor] <;> rfl

theorem markAt : e.markAt p = d.markAt p := by
  simp only [Device.markAt, h.state, h.join]

theorem withinGrace (g : Lateness) (late : Nat) : e.withinGrace g late = d.withinGrace g late := by
  simp only [Device.withinGrace, Device.meterShown, Device.currentEntry, Device.currentPI, Device.runFirst, Device.entryAt, Device.runUnderWay, h.planner] <;> rfl

theorem resolve (mode value ref : Nat) : e.resolve mode value ref = d.resolve mode value ref := by
  simp only [Device.resolve, Device.originInForce, Device.entryC, Device.entryAt, Device.runUnderWay, h.planner] <;> rfl

theorem verdict (c : Cue) : e.verdict p c = d.verdict p c := by
  simp only [Device.verdict, h.refPoint, h.state, h.withinGrace]

theorem rearmed : ∀ (fuel : Nat) (c : Cue), Device.rearmed fuel e p c = Device.rearmed fuel d p c
  | 0, _ => rfl
  | fuel + 1, c => by
    simp only [Device.rearmed, h.markAt, h.runUnderWay, h.refPoint, h.verdict, rearmed fuel]

theorem settled (c : Cue) : e.settled p c = d.settled p c := by
  rw [Device.settled, Device.settled, h.refPoint, h.rearmed]

end Device.SameOutlook

theorem Device.SameOutlook.of_ports {d e : Device} (hplanner : e.planner = d.planner) (hports : e.ports = d.ports) (p : PortIx) : d.SameOutlook e p := by
  have hport : e.port p = d.port p := congrArg (fun v => v.get p) hports
  exact ⟨hplanner, congrArg Port.state hport, congrArg Port.cursor hport, congrArg Port.join hport⟩

theorem Device.SameOutlook.beginTake (d : Device) (n : Nat) (p : PortIx) : d.SameOutlook (d.beginTake n) p :=
  .of_ports (Device.beginTake_planner d n) (Device.beginTake_ports d n) p

/-- The judgment of a cue that stays: while STOPPED, or where R95 finds no reason to skip it. -/
theorem Device.judge_enters {d : Device} {p : PortIx} {c : Cue} (h : d.planner.transport = .stopped ∨ d.verdict p c = none) : d.judge p c = d.enterList p c := by
  unfold Device.judge
  split
  · rfl
  · next hrun =>
    rcases h with hstopped | hnone
    · simp [Device.runUnderWay, hstopped] at hrun
    · rw [hnone]

theorem Device.verdict_none_iff {d : Device} {p : PortIx} {c : Cue} : d.verdict p c = none ↔
    d.refPoint p ≤ c.due ∨ ((d.port p).state.joined = true ∧ d.withinGrace c.grace (d.refPoint p - c.due) = true) := by
  unfold Device.verdict
  split
  · next hreach => exact iff_of_true rfl (.inl hreach)
  · next hreach =>
    split
    · next hjoined =>
      split
      · next hgrace => exact iff_of_true rfl (.inr ⟨hjoined, hgrace⟩)
      · next hgrace => exact iff_of_false nofun fun h => h.elim hreach fun hg => hgrace hg.2
    · next hjoined => exact iff_of_false nofun fun h => h.elim hreach fun hg => hjoined hg.1

theorem Device.verdict_late {d : Device} {p : PortIx} {c : Cue} (hbelow : c.due < d.refPoint p)
    (hgrace : (d.port p).state.joined = true → d.withinGrace c.grace (d.refPoint p - c.due) = false) :
    d.verdict p c = some (if (d.port p).state.joined then .late else .detached) := by
  unfold Device.verdict
  rw [if_neg (by omega)]
  split
  · next hjoined => rw [if_neg (by simp [hgrace hjoined])]
  · rfl

/-! ## A cue that enters its port's list -/

theorem Device.port_modPort (d : Device) (p q : PortIx) (f : Port → Port) : (d.modPort p f).port q = if q = p then f (d.port p) else d.port q := by
  split
  · next h => rw [h, Device.port_modPort_same]
  · next h => rw [Device.port_modPort_ne d f h]

@[simp] theorem Device.writeProgress_port (d : Device) (c : Cue) (k : Nat) (q : PortIx) : (d.writeProgress c k).port q = d.port q := by simp [Device.writeProgress]

@[simp] theorem Device.writeProgress_globals (d : Device) (c : Cue) (k : Nat) : (d.writeProgress c k).globals = d.globals := by simp [Device.writeProgress]

theorem Device.enterList_port (d : Device) (p q : PortIx) (c : Cue) :
    (d.enterList p c).port q = if q = p then { d.port p with cues := insertCue c (d.port p).cues } else d.port q := by
  rw [Device.enterList, Device.writeProgress_port, Device.port_modPort]

@[simp] theorem Device.enterList_globals (d : Device) (p : PortIx) (c : Cue) : (d.enterList p c).globals = d.globals := by simp [Device.enterList]

theorem Device.enterList_held {d : Device} {p : PortIx} {c : Cue} (hfree : d.heldAt c.slot = none) : (d.enterList p c).heldAt c.slot = some (.list p, c) := by
  have hport := fun q => d.enterList_port p q c
  refine Device.heldAt_of_only (place := .list p) (c := c) ?_ rfl ?_
  · simp [Device.Stands, hport, mem_insertCue]
  · intro place' c' hstands hslot
    have hold := fun place hs => Device.heldAt_none_iff.mp hfree place c' hs hslot
    cases place' with
    | global =>
      rw [Device.Stands, Device.enterList_globals] at hstands
      exact absurd hstands (hold .global)
    | list q =>
      simp only [Device.Stands, hport] at hstands
      split at hstands
      · next hq =>
        subst hq
        rcases mem_insertCue.mp hstands with rfl | hmem
        · exact ⟨rfl, rfl⟩
        · exact absurd hmem (hold (.list q))
      · exact absurd hstands (hold (.list q))
    | flight q =>
      simp only [Device.Stands, hport] at hstands
      refine absurd ?_ (hold (.flight q))
      split at hstands
      · next hq => subst hq; exact hstands
      · exact hstands

/-- The cue in its port's list, its slot shown HELD. -/
theorem Device.showHeld_enterList {d : Device} {p : PortIx} {c : Cue} (hfree : d.heldAt c.slot = none) :
    (d.enterList p c).showHeld c.slot =
      ((((((d.modPort p fun x => { x with cues := insertCue c x.cues }).writeProgress c c.due).poke (slotBase c.slot + 48) 1 0).poke (slotBase c.slot + 49) 1 c.flags.toByte).poke
        (slotBase c.slot + 56) 4 0).poke (slotBase c.slot) 1 stHeld) := by
  unfold Device.showHeld
  rw [Device.enterList_held hfree]
  rfl

end Sys2Proof.Machine
end

section
/-! PROOFS. The takes of the port cues SEND, PORT RUN and SCENE: a cue that is held (R91, R80), and one that ends MISSED in its own take (R95, R100). -/
namespace Sys2Proof.Machine

/-! ## Holding a cue -/

/-- The device with the progress fields and the HELD byte of a cue written (R80). -/
def Device.holding (d : Device) (c : Cue) : Device :=
  ((((d.writeProgress c c.due).poke (slotBase c.slot + 48) 1 0).poke (slotBase c.slot + 49) 1 c.flags.toByte).poke (slotBase c.slot + 56) 4 0).poke (slotBase c.slot) 1 stHeld

theorem Wrote.poke {d : Device} (h : d.arbiter = []) (a n v : Nat) : Wrote d (d.poke a n v) := by
  rw [Device.poke_quiet h]
  exact Wrote.write d a n v

theorem Wrote.writeProgress {d : Device} (h : d.arbiter = []) (c : Cue) (k : Nat) : Wrote d (d.writeProgress c k) := by
  simp only [Device.writeProgress, Device.poke_quiet, Device.write_arbiter, h]
  exact ((((Wrote.write d _ _ _).trans (.write _ _ _ _)).trans (.write _ _ _ _)).trans (.write _ _ _ _))

theorem Wrote.holding {d : Device} (h : d.arbiter = []) (c : Cue) : Wrote d (d.holding c) := by
  rw [show d.holding c = _ from Device.held_quiet h c]
  exact (((((((Wrote.write d _ _ _).trans (.write _ _ _ _)).trans (.write _ _ _ _)).trans (.write _ _ _ _)).trans (.write _ _ _ _)).trans (.write _ _ _ _)).trans
    (.write _ _ _ _)).trans (.write _ _ _ _)

@[simp] theorem Device.holding_prot (d : Device) (c : Cue) : (d.holding c).prot = d.prot := by simp [Device.holding, Device.writeProgress]

@[simp] theorem Device.holding_seq (d : Device) (c : Cue) : (d.holding c).seq = d.seq := by simp [Device.holding, Device.writeProgress]

@[simp] theorem Device.holding_port (d : Device) (c : Cue) (q : PortIx) : (d.holding c).port q = d.port q := by simp [Device.holding, Device.writeProgress]

theorem Device.holding_attn {d : Device} (h : d.arbiter = []) (c : Cue) : (d.holding c).attn = d.attn := by
  have hattn := congrArg Device.attn (Device.held_quiet h c)
  simp only [Device.write_attn] at hattn
  exact hattn

theorem Device.holding_showsHeld {d : Device} (h : d.arbiter = []) (hm : d.MemOk) (c : Cue) : (d.holding c).ShowsHeld c := Device.held_reads h c hm

theorem Device.holding_bytes {d : Device} (h : d.arbiter = []) (c : Cue) : d.SameBytes (d.holding c) (heldBytes c.slot) := Device.held_bytes h c

/-- The device with a cue put in its place in a port's list. -/
def Device.listed (d : Device) (p : PortIx) (c : Cue) : Device := d.modPort p fun x => { x with cues := insertCue c x.cues }

theorem Device.listed_port (d : Device) (p q : PortIx) (c : Cue) :
    (d.listed p c).port q = if q = p then { d.port p with cues := insertCue c (d.port p).cues } else d.port q := d.port_modPort p q _

theorem Device.showHeld_listed {d : Device} {p : PortIx} {c : Cue} (hfree : d.heldAt c.slot = none) : (d.enterList p c).showHeld c.slot = (d.listed p c).holding c :=
  Device.showHeld_enterList hfree

/-! ## What an accepted port cue asks for -/

theorem Device.heldAt_beginTake (d : Device) (n k : Nat) : (d.beginTake n).heldAt k = d.heldAt k := by
  simp only [Device.heldAt, Device.held, Device.beginTake_globals, Device.beginTake_port]

/-- The entry that intake makes of the port cue in slot n: resolved by R94, with the port's join as its mark. -/
def Device.portCue (d : Device) (n : Nat) (p : PortIx) (body : CueBody) : Cue :=
  d.newCue n d.seq (d.resolve (d.fireMode n) (d.fireValue n) (d.refPoint p)) (d.markAt p) body false

theorem Device.beginTake_newCue (d : Device) (n : Nat) (seq : BitVec 32) (due : Nat) (mark : Option Nat) (body : CueBody) (clamped : Bool) :
    (d.beginTake n).newCue n seq due mark body clamped = d.newCue n seq due mark body clamped := by
  have hsame := SameChecked.beginTake d n n
  simp only [Device.newCue, hsame.latenessOf, hsame.intervalOf, hsame.countOf, show (d.beginTake n).tagOf n = d.tagOf n from hsame.field 2 2]

theorem Device.beginTake_schedulePort (d : Device) (n : Nat) (p : PortIx) (body : CueBody) :
    (d.beginTake n).schedulePort n d.seq p body = ((d.beginTake n).judge p (d.portCue n p body)).showHeld n := by
  have hsame := SameChecked.beginTake d n n
  have hout := Device.SameOutlook.beginTake d n p
  rw [Device.schedulePort, hsame.fireMode, hsame.fireValue, hout.refPoint, hout.resolve, hout.markAt, Device.beginTake_newCue, Device.portCue]

/-- The body of the entry that the take of this row makes. -/
def TakeRow.portBody : TakeRow → Device → Nat → CueBody
  | .send, d, n => d.sendBody n
  | .portRun, d, n => d.runBody n
  | _, d, n => d.sceneBody n

/-- The row of a port cue: SEND, PORT RUN, or SCENE to a port. -/
def TakeRow.ofPort (row : TakeRow) : Prop := row = .send ∨ row = .portRun ∨ row = .scene

theorem SameChecked.portBody {n : Nat} {d e : Device} (h : SameChecked n d e) (row : TakeRow) : row.portBody e n = row.portBody d n := by
  cases row <;>
    simp only [TakeRow.portBody, Device.sendBody, Device.runBody, Device.sceneBody, h.optionsOf, h.field 16 4, h.field 16 1, h.field 18 2, h.field 20 2, h.field 20 1,
      h.field 21 1, h.field 22 1, h.field 23 1]

theorem TakeRow.effect_ofPort {row : TakeRow} (hrow : row.ofPort) {d : Device} {n : Nat} {p : PortIx} (hp : d.portByte n = p.val) :
    row.effect n d.seq (d.beginTake n) = ((d.beginTake n).judge p (d.portCue n p (row.portBody d n))).showHeld n := by
  have hsame := SameChecked.beginTake d n n
  have htaken : ∀ body, Device.takePortCue body n d.seq (d.beginTake n) = ((d.beginTake n).judge p (d.portCue n p body)).showHeld n := fun body => by
    rw [Device.takePortCue, hsame.portByte, hp, portOf_val, ← Device.beginTake_schedulePort]
  rcases hrow with rfl | rfl | rfl
  · exact (htaken _).trans (by rw [show (d.beginTake n).sendBody n = _ from hsame.portBody .send])
  · exact (htaken _).trans (by rw [show (d.beginTake n).runBody n = _ from hsame.portBody .portRun])
  · exact (htaken _).trans (by rw [show (d.beginTake n).sceneBody n = _ from hsame.portBody .scene])

theorem Wrote.intake_listed {d e : Device} {n : Nat} {p : PortIx} {c : Cue} (h : Wrote ((d.beginTake n).listed p c) e) : e = { d.intakeOf e with ports := e.ports } := by
  have hframe := Wrote.intake_modPort h
  have hports : e.ports = _ := congrArg Device.ports hframe
  rw [hports]
  exact hframe

/-- A take that puts a port cue into its list, and shows it HELD. -/
theorem State.NextTake.holds {s : State} {row : TakeRow} {n : Nat} {p : PortIx} {c : Cue} (h : s.NextTake row n) (hv : s.validate n = none) (hslot : c.slot = n)
    (heffect : row.effect n s.seq (s.beginTake n) = ((s.beginTake n).listed p c).holding c) :
    ∃ d : Device, exec row.command s = .next { s with toDevice := d } ∧ d.ShowsHeld c ∧ n ∈ d.prot ∧ s.Taken d ∧ s.SameBytes d (heldBytes n) ∧
      d = { s.intakeOf d with ports := d.ports } ∧ d.attn = s.attn ∧ d.port p = { s.port p with cues := insertCue c (s.port p).cues } ∧ ∀ q, q ≠ p → d.port q = s.port q := by
  have hk : Keeps 0 (s.beginTake n) ((s.beginTake n).listed p c) := Keeps.modPort _ _ _
  have hprot : ((s.beginTake n).listed p c).prot = (s.beginTake n).prot := Device.modPort_prot _ _ _
  have hmem : ((s.beginTake n).listed p c).mem = s.mem := (Device.modPort_mem _ _ _).trans (Device.beginTake_mem _ _)
  have hattn : ((s.beginTake n).listed p c).attn = s.attn := (Device.modPort_attn _ _ _).trans (Device.beginTake_attn _ _)
  have hport := (s.beginTake n).listed_port p (c := c)
  have hwrote := fun e => @Wrote.intake_listed s.toDevice e n p c
  generalize (s.beginTake n).listed p c = m at *
  have hquiet : m.arbiter = [] := hk.arbiter h.begun_idle
  have hw := Wrote.holding hquiet c
  have hbytes := Device.holding_bytes hquiet c
  refine ⟨m.holding c, by rw [h.exec_accepted hv, heffect], Device.holding_showsHeld hquiet ?_ c, ?_,
    Device.taken_of_keeps hk h.idle hw (Device.holding_seq _ _), ?_, ?_, ?_, ?_, fun q hq => ?_⟩
  · rw [Device.MemOk, hmem]
    exact h.mem
  · rw [Device.holding_prot, hprot, Device.beginTake_prot]
    exact mem_insertNat.mpr (Or.inl rfl)
  · intro a ha
    rw [hbytes a (hslot ▸ ha), hmem]
  · exact hwrote _ hw
  · rw [Device.holding_attn hquiet, hattn]
  · rw [Device.holding_port, hport, if_pos rfl, Device.beginTake_port]
  · rw [Device.holding_port, hport, if_neg hq, Device.beginTake_port]

theorem TakeRow.portBody_of {d : Device} {n : Nat} {row : TakeRow} {body : CueBody}
    (h : (row = .send ∧ d.optionsOf n = 0 ∧ body = .send false 0 (d.field n 16 1) .whole 0) ∨
      (row = .send ∧ d.optionsOf n = 1 ∧ body = .send true (d.field n 16 4) (d.field n 20 2) (Pacing.ofCode (d.field n 22 1)) (d.field n 23 1)) ∨
      (row = .portRun ∧ body = .portRun (if d.field n 16 1 = 0 then .run else .halt)) ∨
      (row = .scene ∧ d.field n 20 1 = 0 ∧ body = .scene (d.field n 16 1) (d.field n 18 2) .none 0 0) ∨
      (row = .scene ∧ d.field n 20 1 ≠ 0 ∧
        body = .scene (d.field n 16 1) (d.field n 18 2) (Modulator.ofCode (d.field n 20 1) (d.field n 21 1)) (d.field n 22 1) (d.field n 23 1))) :
    row.ofPort ∧ row.portBody d n = body := by
  rcases h with ⟨rfl, hopt, rfl⟩ | ⟨rfl, hopt, rfl⟩ | ⟨rfl, rfl⟩ | ⟨rfl, hmod, rfl⟩ | ⟨rfl, hmod, rfl⟩
  · exact ⟨Or.inl rfl, by simp [TakeRow.portBody, Device.sendBody, hopt]⟩
  · exact ⟨Or.inl rfl, by simp [TakeRow.portBody, Device.sendBody, hopt]⟩
  · exact ⟨Or.inr (Or.inl rfl), rfl⟩
  · exact ⟨Or.inr (Or.inr rfl), by simp [TakeRow.portBody, Device.sceneBody, hmod, Modulator.ofCode]⟩
  · have hsome : Modulator.ofCode (d.field n 20 1) (d.field n 21 1) ≠ .none := by
      unfold Modulator.ofCode
      split
      · exact absurd ‹_› hmod
      · decide
      · split <;> decide
    refine ⟨Or.inr (Or.inr rfl), ?_⟩
    show d.sceneBody n = _
    unfold Device.sceneBody
    generalize Modulator.ofCode (d.field n 20 1) (d.field n 21 1) = m at hsome ⊢
    cases m with
    | none => exact absurd rfl hsome
    | _ => rfl

/-- Settles O24: the cue takes its place in its port's list, and its slot shows HELD. -/
theorem portCueHeld : Obligations.PortCueHeld := by
  intro s n p row body hnext hv hfree hp hbody hontime
  obtain ⟨hrow, hbody⟩ := TakeRow.portBody_of hbody
  have hverdict : (s.beginTake n).planner.transport = .stopped ∨ (s.beginTake n).verdict p (s.portCue n p body) = none := by
    rw [(Device.SameOutlook.beginTake s.toDevice n p).verdict, Device.beginTake_planner, Device.verdict_none_iff]
    exact hontime
  have heffect : row.effect n s.seq (s.beginTake n) = ((s.beginTake n).listed p (s.portCue n p body)).holding (s.portCue n p body) := by
    rw [TakeRow.effect_ofPort hrow hp, hbody, Device.judge_enters hverdict]
    exact Device.showHeld_listed (by rw [Device.heldAt_beginTake]; exact hfree)
  obtain ⟨d, hexec, hholds⟩ := hnext.holds hv rfl heffect
  exact ⟨d, s.portCue n p body, hexec, rfl, hholds⟩

/-! ## A cue that ends in its own take -/

/-- The judgment of a cue that is skipped: its attempt has been counted. -/
theorem Device.judge_skips {d : Device} {p : PortIx} {c : Cue} {r : Reason} (hrun : d.planner.transport ≠ .stopped) (h : d.verdict p c = some r) :
    d.judge p c = d.settleAttempt p (c.afterSkip r) := by
  unfold Device.judge
  rw [h, if_neg (by simp [Device.runUnderWay, hrun])]

/-- No attempt left: the cue ends. -/
theorem Device.settled_spent (d : Device) (p : PortIx) {c : Cue} (h : c.left = some 0) : d.settled p c = { cue := c, ends := true } := by
  unfold Device.settled Device.rearmed
  rw [if_pos h]

theorem Device.settleAttempt_spent (d : Device) (p : PortIx) {c : Cue} (h : c.left = some 0) : d.settleAttempt p c = d.endAttempts c := by
  rw [Device.settleAttempt, Device.settled_spent d p h, Device.settle, if_pos rfl]

theorem Device.endAttempts_missed (d : Device) {c : Cue} (h : c.lastFired = none) : d.endAttempts c = d.endCue c stMissed c.lastSkip c.due d.time := by
  unfold Device.endAttempts
  rw [h]

theorem Device.endAttempts_fired (d : Device) {c : Cue} {k : Nat} {t : Time} (h : c.lastFired = some (k, t)) : d.endAttempts c = d.endCue c stFired .none k t := by
  unfold Device.endAttempts
  rw [h]

theorem Wrote.held {d e : Device} (h : Wrote d e) : e.held = d.held := by
  have hglobals : e.globals = d.globals := (congrArg Device.globals h :)
  have hports : e.ports = d.ports := (congrArg Device.ports h :)
  simp only [Device.held, hglobals, Device.port, hports]

theorem Wrote.heldAt {d e : Device} (h : Wrote d e) (n : Nat) : e.heldAt n = d.heldAt n := by
  rw [Device.heldAt, Device.heldAt, h.held]

theorem Device.showHeld_none {d : Device} {n : Nat} (h : d.heldAt n = none) : d.showHeld n = d := by
  unfold Device.showHeld
  rw [h]

theorem Cue.aux_once {c : Cue} (hinterval : c.interval = 0) (hbytes : c.bytes = 0) : c.aux = 0 := by
  rw [Cue.aux, if_neg (by simp [hinterval])]
  split
  · exact hbytes
  · rfl

/-- The entry of a cue without repeats after its one attempt has been skipped in its take. -/
structure Cue.MissedOnce (c : Cue) (n : Nat) (r : Reason) (due : Nat) : Prop where
  slot : c.slot = n
  left : c.left = some 0
  lastFired : c.lastFired = none
  lastSkip : c.lastSkip = r
  due : c.due = due
  flags : c.flags = CueFlags.clear
  revision : c.revision = 1
  fired : c.fired = 0
  aux : c.aux = 0

theorem Device.portCue_missed {d : Device} {n : Nat} (h : d.intervalOf n = 0) (p : PortIx) (body : CueBody) (r : Reason) :
    ((d.portCue n p body).afterSkip r).MissedOnce n r (d.resolve (d.fireMode n) (d.fireValue n) (d.refPoint p)) := by
  have hinterval : ((d.portCue n p body).afterSkip r).interval = 0 := h
  refine ⟨rfl, ?_, rfl, rfl, rfl, rfl, ?_, rfl, Cue.aux_once hinterval rfl⟩
  · simp [Cue.afterSkip, Device.portCue, Device.newCue, h]
  · simp [Cue.afterSkip, Device.portCue, Device.newCue, h]

theorem Device.settleAttempt_missedOnce {d : Device} {c : Cue} {n due : Nat} {r : Reason} (h : c.MissedOnce n r due) (p : PortIx) :
    d.settleAttempt p c = d.finishSlot n stMissed
      { reason := r, flags := CueFlags.clear, revision := 1, firePI := due, fireTime := timeLow32 d.time, fired := 0, aux := 0 } := by
  rw [Device.settleAttempt_spent _ _ h.left, Device.endAttempts_missed _ h.lastFired, Device.endCue, h.slot, h.lastSkip, h.due, h.flags, h.revision, h.fired, h.aux]

/-- Settles O25: the one attempt of the cue is skipped, and with no attempt left it ends. -/
theorem portCueMissedAtIntake : Obligations.PortCueMissedAtIntake := by
  intro s n p row hnext hv hfree hp hrow hinterval hrun hbelow hgrace
  have hskip : (s.beginTake n).verdict p (s.portCue n p (row.portBody s.toDevice n)) = some (if (s.port p).state.joined then .late else .detached) := by
    rw [(Device.SameOutlook.beginTake s.toDevice n p).verdict]
    exact Device.verdict_late hbelow hgrace
  have heffect : row.effect n s.seq (s.beginTake n) = (s.beginTake n).finishSlot n stMissed
      { reason := if (s.port p).state.joined then .late else .detached, flags := CueFlags.clear, revision := 1,
        firePI := s.resolve (s.fireMode n) (s.fireValue n) (s.refPoint p), fireTime := timeLow32 s.time, fired := 0, aux := 0 } := by
    rw [TakeRow.effect_ofPort hrow hp, Device.judge_skips (by rw [Device.beginTake_planner]; exact hrun) hskip,
      Device.settleAttempt_missedOnce (Device.portCue_missed hinterval p _ _), Device.beginTake_time]
    refine Device.showHeld_none ?_
    rw [(Wrote.finishSlot hnext.begun_idle _ _ _).heldAt, Device.heldAt_beginTake]
    exact hfree
  obtain ⟨d, hexec, hends, hw, hattn⟩ := hnext.finished hv heffect (by decide)
  exact ⟨d, hexec, hends, hw.intake, by rw [hattn, Device.beginTake_attn]⟩

end Sys2Proof.Machine
end

section
/-! PROOFS. What an operation of one port leaves as it was: the other ports, the planner, the global list, and a status write under way. -/
namespace Sys2Proof.Machine

/-! ## A status write under way, and the accesses served ahead -/

/-- A status write under way is not given up, and no host access is counted as served. -/
structure Steady (d e : Device) : Prop where
  writer : d.writer.isSome = true → e.writer.isSome = true
  ahead : e.ahead = d.ahead

theorem Steady.refl (d : Device) : Steady d d := ⟨id, rfl⟩

theorem Steady.trans {d e f : Device} (a : Steady d e) (b : Steady e f) : Steady d f := ⟨b.writer ∘ a.writer, b.ahead.trans a.ahead⟩

theorem Steady.ite {d a b : Device} {c : Prop} [Decidable c] (ha : Steady d a) (hb : Steady d b) : Steady d (if c then a else b) := by
  split <;> assumption

theorem Steady.foldl {α : Type} {f : Device → α → Device} (h : ∀ d a, Steady d (f d a)) : ∀ (l : List α) (d : Device), Steady d (l.foldl f d)
  | [], d => Steady.refl d
  | a :: l, d => (h d a).trans (Steady.foldl h l (f d a))

theorem Steady.eachPort {f : Device → PortIx → Device} (h : ∀ d p, Steady d (f d p)) (d : Device) : Steady d (d.eachPort f) := Steady.foldl h allPorts d

theorem Steady.of_eq {d e : Device} (hwriter : e.writer = d.writer) (hahead : e.ahead = d.ahead) : Steady d e := ⟨fun h => by rw [hwriter]; exact h, hahead⟩

theorem Steady.after {d e f : Device} (h : Steady e f) (hwriter : e.writer = d.writer := by rfl) (hahead : e.ahead = d.ahead := by rfl) : Steady d f :=
  (Steady.of_eq hwriter hahead).trans h

theorem Steady.modPort (d : Device) (p : PortIx) (f : Port → Port) : Steady d (d.modPort p f) := .of_eq rfl rfl

theorem Device.requestStatus_isSome (d : Device) : d.requestStatus.writer.isSome = true := by
  cases hw : d.writer with
  | none => rw [Device.requestStatus_idle hw]; rfl
  | some w => rw [Device.requestStatus_busy hw]; exact (congrArg Option.isSome hw).trans rfl

theorem Steady.requestStatus (d : Device) : Steady d d.requestStatus := by
  refine ⟨fun _ => d.requestStatus_isSome, ?_⟩
  unfold Device.requestStatus
  split <;> rfl

theorem Steady.captureFault (d : Device) (k : FaultKind) (p m : Option Nat) : Steady d (d.captureFault k p m) := by
  unfold Device.captureFault
  split
  · exact (Steady.requestStatus _).after
  · exact .ite (Steady.requestStatus _).after (.of_eq rfl rfl)

/-! ## Host accesses -/

theorem Steady.overflowNotice (d : Device) (n : Nat) : Steady d (d.overflowNotice n) := by
  unfold Device.overflowNotice
  refine Steady.trans ?_ (.captureFault _ _ _ _)
  exact .ite (.refl d) (Steady.requestStatus _).after

theorem Steady.offer (d : Device) (n : Nat) : Steady d (d.offer n) :=
  .ite (.refl d) (.ite (.of_eq rfl rfl) (.overflowNotice _ _))

theorem Steady.landSlot (d : Device) (a : Nat) (l : List Byte) : Steady d (d.landSlot a l) := by
  rw [Device.landSlot_eq]
  exact .of_eq rfl rfl

theorem Steady.giveBack (d : Device) (n : Nat) : Steady d (d.giveBack n) := by
  rw [Device.giveBack_eq]
  exact .of_eq rfl rfl

theorem Steady.slotWrite (d : Device) (a : Nat) (l : List Byte) : Steady d (d.slotWrite a l) := by
  have h := (Steady.landSlot d a l).trans (.giveBack _ (slotOf a))
  exact .ite (.captureFault _ _ _ _) (.ite (h.trans (.offer _ _)) h)

theorem Steady.hostWrite (d : Device) (size : AccessSize) (a data : Word) : Steady d (d.hostWrite size a data) := by
  unfold Device.hostWrite
  split
  · exact .captureFault _ _ _ _
  · exact .of_eq rfl rfl
  · exact .slotWrite _ _ _
  · exact .of_eq rfl rfl

theorem Steady.letIn : ∀ (n : Nat) (d : Device), Steady d (Device.letIn n d)
  | 0, d => .refl d
  | n + 1, d => by
    unfold Device.letIn
    split
    · exact .refl d
    · exact .ite (((Steady.hostWrite _ _ _ _).after).trans (Steady.letIn n _)) (.refl d)

theorem Steady.pass (d : Device) : Steady d d.pass := by
  unfold Device.pass
  exact (Steady.letIn _ _).after

/-! ## The operations of one port -/

/-- An operation of port p: the other ports, the planner and the global list stay. -/
structure Local (p : PortIx) (d e : Device) : Prop extends Steady d e where
  ports : ∀ q, q ≠ p → e.port q = d.port q
  planner : e.planner = d.planner
  globals : e.globals = d.globals

section
variable {p : PortIx}

theorem Local.refl (d : Device) : Local p d d := ⟨.refl d, fun _ _ => rfl, rfl, rfl⟩

theorem Local.trans {d e f : Device} (a : Local p d e) (b : Local p e f) : Local p d f :=
  ⟨a.toSteady.trans b.toSteady, fun q hq => (b.ports q hq).trans (a.ports q hq), b.planner.trans a.planner, b.globals.trans a.globals⟩

theorem Local.ite {d a b : Device} {c : Prop} [Decidable c] (ha : Local p d a) (hb : Local p d b) : Local p d (if c then a else b) := by
  split <;> assumption

theorem Local.foldl {α : Type} {f : Device → α → Device} (h : ∀ d a, Local p d (f d a)) : ∀ (l : List α) (d : Device), Local p d (l.foldl f d)
  | [], d => .refl d
  | a :: l, d => (h d a).trans (Local.foldl h l (f d a))

theorem Local.of_host {d e : Device} (h : HostOnly d e) (hs : Steady d e) : Local p d e :=
  ⟨hs, fun q _ => (congrArg (fun x : Device => x.port q) h :), (congrArg Device.planner h :), (congrArg Device.globals h :)⟩

theorem Local.of_eq {d e : Device} (hs : Steady d e) (hports : e.ports = d.ports) (hplanner : e.planner = d.planner) (hglobals : e.globals = d.globals) : Local p d e :=
  ⟨hs, fun q _ => congrArg (fun v => v.get q) hports, hplanner, hglobals⟩

variable (p)

theorem Local.modPort (d : Device) (f : Port → Port) : Local p d (d.modPort p f) := ⟨.modPort d p f, fun _ hq => d.port_modPort_ne f hq, rfl, rfl⟩

theorem Local.pass (d : Device) : Local p d d.pass := .of_host (.pass d) (.pass d)

theorem Local.captureFault (d : Device) (k : FaultKind) (a b : Option Nat) : Local p d (d.captureFault k a b) := .of_host (.captureFault d k a b) (.captureFault d k a b)

theorem Local.requestStatus (d : Device) : Local p d d.requestStatus := .of_host (.requestStatus d) (.requestStatus d)

theorem Local.latch (d : Device) (c : Cause) : Local p d (d.latch c) := .of_eq (.of_eq rfl rfl) rfl rfl rfl

theorem Local.write (d : Device) (a n v : Nat) : Local p d (d.write a n v) := .of_eq (.of_eq rfl rfl) rfl rfl rfl

theorem Local.poke (d : Device) (a n v : Nat) : Local p d (d.poke a n v) := (Local.write p d a n v).trans (.pass p _)

theorem Local.copyBytes : ∀ (n a : Nat) (d : Device), Local p d (Device.copyBytes n a d).2
  | 0, _, d => .refl d
  | n + 1, a, d => (Local.pass p d).trans (Local.copyBytes n (a + 1) d.pass)

theorem Local.copyLevels (d : Device) (a : Nat) : Local p d (d.copyLevels a).2 := by
  simp only [Device.copyLevels]
  exact .copyBytes p 192 a d

theorem Local.setMem (d : Device) (m : List Host.Cell) : Local p d { d with mem := m } := .of_eq (.of_eq rfl rfl) rfl rfl rfl

theorem Local.unprotect (d : Device) (n : Nat) : Local p d (d.unprotect n) := .of_eq (.of_eq rfl rfl) rfl rfl rfl

theorem Local.setFinished (d : Device) (n : Nat) : Local p d (d.setFinished n) :=
  ((Local.setMem p d _).trans (.latch p _ .finished)).trans (.pass p _)

theorem Local.writeFinal (d : Device) (n st : Nat) : Local p d (d.writeFinal n st) :=
  ((Local.write p d _ _ _).trans (.unprotect p _ n)).trans (.pass p _)

theorem Local.writeResult (d : Device) (n : Nat) (r : Result) : Local p d (d.writeResult n r) :=
  ((((((Local.poke p _ _ _ _).trans (.poke p _ _ _ _)).trans (.poke p _ _ _ _)).trans (.poke p _ _ _ _)).trans (.poke p _ _ _ _)).trans (.poke p _ _ _ _)).trans
    (.poke p _ _ _ _)

theorem Local.finishSlot (d : Device) (n st : Nat) (r : Result) : Local p d (d.finishSlot n st r) :=
  ((Local.writeResult p d n r).trans (.writeFinal p _ _ _)).trans (.setFinished p _ _)

theorem Local.writeProgress (d : Device) (c : Cue) (k : Nat) : Local p d (d.writeProgress c k) :=
  (((Local.poke p _ _ _ _).trans (.poke p _ _ _ _)).trans (.poke p _ _ _ _)).trans (.poke p _ _ _ _)

/-! ### The cue schedule -/

theorem Local.endCue (d : Device) (c : Cue) (st : Nat) (r : Reason) (k : Nat) (t : Time) : Local p d (d.endCue c st r k t) := .finishSlot p _ _ _ _

theorem Local.endAttempts (d : Device) (c : Cue) : Local p d (d.endAttempts c) := by
  unfold Device.endAttempts
  split <;> exact .endCue p _ _ _ _ _ _

theorem Local.enterList (d : Device) (c : Cue) : Local p d (d.enterList p c) := (Local.modPort p d _).trans (.writeProgress p _ _ _)

theorem Local.settle (d : Device) (x : Settled) : Local p d (d.settle p x) := .ite (.endAttempts p _ _) (.enterList p _ _)

theorem Local.settleAttempt (d : Device) (c : Cue) : Local p d (d.settleAttempt p c) := .settle p d _

theorem Local.judge (d : Device) (c : Cue) : Local p d (d.judge p c) := by
  unfold Device.judge
  refine .ite (.enterList p _ _) ?_
  split
  · exact .enterList p _ _
  · exact .settleAttempt p _ _

theorem Local.judgeAtStart (d : Device) (first n : Nat) : Local p d (d.judgeAtStart first p n) := by
  unfold Device.judgeAtStart
  split
  · exact .refl d
  · exact .ite (.refl d) ((Local.modPort p d _).trans (.settleAttempt p _ _))

theorem Local.showHeld (d : Device) (n : Nat) : Local p d (d.showHeld n) := by
  unfold Device.showHeld
  split
  · exact .refl d
  · exact (((Local.poke p _ _ _ _).trans (.poke p _ _ _ _)).trans (.poke p _ _ _ _)).trans (.poke p _ _ _ _)

theorem Local.markAll (d : Device) (m : Option Nat) : Local p d (d.markAll p m) := .modPort p d _

/-! ### The links -/

theorem Local.queueChar (d : Device) (c : TimingChar) : Local p d (d.queueChar p c) := .ite (.modPort p d _) (.captureFault p _ _ _ _)

theorem Local.queueChars (d : Device) (l : List TimingChar) : Local p d (d.queueChars p l) := .foldl (fun d c => .queueChar p d c) l d

theorem Local.choose (d : Device) : Local p d (d.choose p) := .modPort p d _

theorem Local.pump (d : Device) : Local p d (d.pump p) := .ite (.refl d) (.choose p d)

theorem Local.messageEnd (d : Device) : Local p d (d.messageEnd p) := by
  unfold Device.messageEnd
  split
  · exact .refl d
  · exact .ite ((Local.modPort p d _).trans (.settleAttempt p _ _)) (.refl d)

theorem Local.skipFlights (d : Device) (l : List Flight) : Local p d (d.skipFlights p l) := by
  unfold Device.skipFlights
  split
  · exact .refl d
  · exact (Local.settleAttempt p _ _).trans (.foldl (fun d g => .settleAttempt p d _) _ _)

theorem Local.queueJoinForm (d : Device) (j : Nat) : Local p d (d.queueJoinForm p j) := (Local.modPort p d _).trans (.queueChars p _ _)

theorem Local.queueResumeForm (d : Device) (b : Nat) : Local p d (d.queueResumeForm p b) := (Local.modPort p d _).trans (.queueChars p _ _)

theorem Local.tryStepLeadIn (d : Device) : Local p d (d.tryStepLeadIn p) := by
  unfold Device.tryStepLeadIn
  split
  · exact .queueJoinForm p _ _
  · exact .refl d

theorem Local.tryResumeForm (d : Device) : Local p d (d.tryResumeForm p) := by
  unfold Device.tryResumeForm
  split
  · exact .queueResumeForm p _ _
  · exact .refl d

theorem Local.tryClockLeadIn (d : Device) : Local p d (d.tryClockLeadIn p) := by
  unfold Device.tryClockLeadIn
  split
  · exact .modPort p d _
  · exact .refl d

theorem Local.abandonStepForm (d : Device) : Local p d (d.abandonStepForm p) := by
  unfold Device.abandonStepForm
  dsimp only
  split
  · exact (Local.modPort p d _).trans (.queueChar p _ _)
  · exact .modPort p d _

theorem Local.abandonForm (d : Device) : Local p d (d.abandonForm p) := by
  unfold Device.abandonForm
  split
  · exact .modPort p d _
  · exact (Local.abandonStepForm p _).trans (.pump p _)
  · exact .refl d

theorem Local.takeForm (d : Device) (j : Nat) : Local p d (d.takeForm p j) := by
  unfold Device.takeForm
  refine .ite (.refl d) ?_
  split
  · exact (Local.modPort p d _).trans (.tryClockLeadIn p _)
  · exact ((Local.modPort p d _).trans (.tryStepLeadIn p _)).trans (.pump p _)
  · exact .refl d

theorem Local.beginFrame (d : Device) : Local p d (d.beginFrame p) := .modPort p d _

theorem Local.firstFrame (d : Device) : Local p d (d.firstFrame p) := .ite (.modPort p d _) (.beginFrame p _)

theorem Local.waitingFrame (d : Device) : Local p d (d.waitingFrame p) := .ite (.beginFrame p _) (.refl d)

/-! ### Joins and port states -/

theorem Local.dropJoin (d : Device) : Local p d (d.dropJoin p) := .ite (.refl d) ((Local.modPort p d _).trans (.abandonForm p _))

theorem Local.takeJoin (d : Device) (c : JoinChoice) : Local p d (d.takeJoin p c) :=
  .ite (.modPort p d _) (((Local.dropJoin p d).trans (.modPort p _ _)).trans (.takeForm p _ _))

theorem Local.chooseFirst (d : Device) : Local p d (d.chooseFirst p) := by
  unfold Device.chooseFirst
  refine .ite (.refl d) ?_
  split
  · exact .takeJoin p _ _
  · exact .refl d

theorem Local.chooseAgain (d : Device) : Local p d (d.chooseAgain p) := by
  unfold Device.chooseAgain
  split
  · split
    · exact .takeJoin p _ _
    · exact .dropJoin p _
  · exact .refl d

theorem Local.afterPlanPort (lo : Nat) (d : Device) : Local p d (Device.afterPlanPort lo d p) := by
  unfold Device.afterPlanPort
  split
  · exact .ite (.dropJoin p _) (.ite (.chooseAgain p _) (.refl d))
  · exact .refl d

theorem Local.levelJoin (d : Device) : Local p d (d.levelJoin p) :=
  .ite ((Local.modPort p d _).trans (.markAll p _ _)) ((Local.modPort p d _).trans (.markAll p _ _))

theorem Local.setState (d : Device) (st : PortState) : Local p d (d.setState p st) := by
  unfold Device.setState
  refine .ite (.refl d) ?_
  have h : Local p d (d.modPort p fun x => { x with state := st }).requestStatus := (Local.modPort p d _).trans (.requestStatus p _)
  dsimp only
  split <;> first | exact h.trans (.latch p _ _) | exact h

theorem Local.dropTo (d : Device) (st : PortState) : Local p d (d.dropTo p st) := ((Local.modPort p d _).trans (.setState p _ _)).trans (.skipFlights p _ _)

/-! ### Reaches -/

theorem Local.joinAt (d : Device) (k : Nat) : Local p d (d.joinAt p k) := ((Local.modPort p d _).trans (.setState p _ _)).trans (.markAll p _ _)

theorem Local.settleAt (d : Device) (k : Nat) : Local p d (d.settleAt p k) := by
  unfold Device.settleAt
  split
  · exact .ite (.setState p _ _) (.refl d)
  · exact .refl d

theorem Local.arrive (d : Device) (k : Nat) : Local p d (d.arrive p k) := by
  unfold Device.arrive
  dsimp only
  split
  · exact (Local.modPort p d _).trans (.joinAt p _ _)
  · exact (Local.modPort p d _).trans (.settleAt p _ _)
  · exact .modPort p d _

theorem Local.supersede (d : Device) (l : LastFired) : Local p d (d.supersede p l) := by
  unfold Device.supersede
  split
  · exact .refl d
  · exact .modPort p d _
  · exact .endAttempts p _ _

theorem Local.endLast (d : Device) : ∀ l : LastFired, Local p d (d.endLast l)
  | .ending _ => .endAttempts p _ _
  | .none => .refl d
  | .listed _ => .refl d

theorem Local.noteFired (d : Device) (c : Cue) : Local p d (d.noteFired p c).1 := by
  unfold Device.noteFired
  dsimp only
  split
  · exact .refl d
  · exact .enterList p _ _

theorem Local.offerSend (d : Device) (k : Nat) (c : Cue) : Local p d (d.offerSend p k c) :=
  .ite ((Local.modPort p d _).trans (.writeProgress p _ _ _)) ((Local.captureFault p _ _ _ _).trans (.settleAttempt p _ _))

theorem Local.fireScene (d : Device) (k n fade : Nat) (m : Modulator) (a b : Nat) : Local p d (d.fireScene p k n fade m a b) := by
  unfold Device.fireScene
  exact (Local.copyLevels p d _).trans (.modPort p _ _)

theorem Local.fireCue (d : Device) (k : Nat) (l : LastFired) (c : Cue) : Local p d (d.fireCue p k l c).1 := by
  unfold Device.fireCue
  split
  · exact .offerSend p _ _ _
  · exact ((Local.supersede p d l).trans (.modPort p _ _)).trans (.noteFired p _ _)
  · exact ((Local.supersede p d l).trans (.fireScene p _ _ _ _ _ _ _)).trans (.noteFired p _ _)
  · exact .refl d

theorem Local.dispatchOne (d : Device) (k : Nat) (l : LastFired) (c : Cue) : Local p d (d.dispatchOne p k l c).1 := by
  unfold Device.dispatchOne
  dsimp only
  split
  · exact (Local.modPort p d _).trans (.fireCue p _ _ _ _)
  · exact (Local.modPort p d _).trans (.settleAttempt p _ _)

theorem Local.dispatchLoop (k : Nat) : ∀ (n : Nat) (d : Device) (l : LastFired), Local p d (Device.dispatchLoop n d p k l)
  | 0, d, l => .endLast p d l
  | n + 1, d, l => by
    unfold Device.dispatchLoop
    split
    · exact .endLast p d l
    · exact .ite (.endLast p d l) ((Local.dispatchOne p d k l _).trans (Local.dispatchLoop k n _ _))

theorem Local.dispatch (d : Device) (k : Nat) : Local p d (d.dispatch p k) := by
  unfold Device.dispatch
  split
  · exact .dispatchLoop p k _ _ _
  · exact .modPort p d _
  · exact .refl d

theorem Local.emitClock (d : Device) (b : RunState) (e : PlanEntry) : Local p d (d.emitClock p b e) := by
  unfold Device.emitClock
  split
  · exact .modPort p d _
  · exact .modPort p d _
  · exact .refl d
  · split
    · exact .ite (.modPort p d _) (.refl d)
    · exact .modPort p d _

theorem Local.joinFormReached (d : Device) (k : Nat) : Local p d (d.joinFormReached p k) := by
  unfold Device.joinFormReached
  refine Local.trans ?_ (.modPort p _ _)
  split
  · exact .ite (.queueJoinForm p _ _) (.refl d)
  · exact .refl d

theorem Local.resumeReached (d : Device) (b : Nat) : Local p d (d.resumeReached p b) :=
  Local.trans (.ite (.refl d) (.queueResumeForm p _ _)) (.modPort p _ _)

theorem Local.endResume (d : Device) (k : Nat) : Local p d (d.endResume p k) := by
  unfold Device.endResume
  split
  · exact .refl d
  · exact .ite (.modPort p d _) (.resumeReached p _ _)

theorem Local.haltStep (d : Device) (k : Nat) : Local p d (d.haltStep p k) :=
  ((Local.endResume p d k).trans (.modPort p _ _)).trans (.queueChar p _ _)

theorem Local.emitStep (d : Device) (b : RunState) (e : PlanEntry) : Local p d (d.emitStep p b e) := by
  unfold Device.emitStep
  split
  · exact .haltStep p _ _
  · exact ((Local.modPort p d _).trans (.tryResumeForm p _)).trans (.queueChars p _ _)
  · exact .refl d
  · split
    · exact .ite ((Local.resumeReached p _ _).trans (.queueChars p _ _)) (.queueChars p _ _)
    · exact (Local.joinFormReached p _ _).trans (.queueChars p _ _)

theorem Local.emit (d : Device) (b : RunState) (e : PlanEntry) : Local p d (d.emit p b e) := by
  unfold Device.emit
  split
  · exact .emitClock p _ _ _
  · exact (Local.emitStep p _ _ _).trans (.pump p _)
  · exact .modPort p d _
  · exact .refl d

theorem Local.missLoop (k : Nat) : ∀ (n : Nat) (d : Device), Local p d (Device.missLoop n d p k)
  | 0, d => .refl d
  | n + 1, d => by
    unfold Device.missLoop
    split
    · exact .refl d
    · exact .ite (.refl d) (((Local.modPort p d _).trans (.settleAttempt p _ _)).trans (Local.missLoop k n _))

theorem Local.missPort (k : Nat) (d : Device) : Local p d (Device.missPort k d p) := .ite (.refl d) (.missLoop p k _ _)

end

end Sys2Proof.Machine
end

section
/-! PROOFS. Join forms and join pulses (R119, R128, R134): what taking and dropping them leaves of a port; and the planning of pulses (R32 to R34, R41, R42): what an extension and a re-plan leave as it was. -/
namespace Sys2Proof.Machine

/-- Nothing has been written to the exchange memory, no slot has changed its protection, and no host access was let in. -/
structure Unwritten (d e : Device) : Prop where
  mem : e.mem = d.mem
  prot : e.prot = d.prot
  arbiter : e.arbiter = d.arbiter

theorem Unwritten.refl (d : Device) : Unwritten d d := ⟨rfl, rfl, rfl⟩

theorem Unwritten.trans {d e f : Device} (a : Unwritten d e) (b : Unwritten e f) : Unwritten d f :=
  ⟨b.mem.trans a.mem, b.prot.trans a.prot, b.arbiter.trans a.arbiter⟩

theorem Unwritten.ite {d a b : Device} {c : Prop} [Decidable c] (ha : Unwritten d a) (hb : Unwritten d b) : Unwritten d (if c then a else b) := by
  split <;> assumption

theorem Unwritten.foldl {α : Type} {f : Device → α → Device} (h : ∀ d a, Unwritten d (f d a)) : ∀ (l : List α) (d : Device), Unwritten d (l.foldl f d)
  | [], d => .refl d
  | a :: l, d => (h d a).trans (Unwritten.foldl h l (f d a))

theorem Unwritten.modPort (d : Device) (p : PortIx) (f : Port → Port) : Unwritten d (d.modPort p f) := ⟨rfl, rfl, rfl⟩

theorem Unwritten.requestStatus (d : Device) : Unwritten d d.requestStatus := by
  unfold Device.requestStatus
  split <;> exact ⟨rfl, rfl, rfl⟩

theorem Unwritten.after {d e f : Device} (h : Unwritten e f) (hmem : e.mem = d.mem := by rfl) (hprot : e.prot = d.prot := by rfl)
    (harbiter : e.arbiter = d.arbiter := by rfl) : Unwritten d f := (show Unwritten d e from ⟨hmem, hprot, harbiter⟩).trans h

theorem Unwritten.captureFault (d : Device) (k : FaultKind) (a b : Option Nat) : Unwritten d (d.captureFault k a b) := by
  unfold Device.captureFault
  split
  · exact (Unwritten.requestStatus _).after
  · exact .ite (Unwritten.requestStatus _).after ⟨rfl, rfl, rfl⟩

/-! ## Join forms -/

/-- A join form of port p has been taken, sent or abandoned: only its lines and its Step Link have changed, with the same SENDs in flight. -/
structure Reforms (p : PortIx) (d e : Device) : Prop extends Local p d e, Unwritten d e where
  form : e.port p = { d.port p with clock := (e.port p).clock, step := (e.port p).step }
  flights : (e.port p).step.queue.map (·.cue) = (d.port p).step.queue.map (·.cue)

section
variable {p : PortIx}

theorem Reforms.refl (d : Device) : Reforms p d d := ⟨.refl d, .refl d, rfl, rfl⟩

theorem Reforms.trans {d e f : Device} (a : Reforms p d e) (b : Reforms p e f) : Reforms p d f := by
  refine ⟨a.toLocal.trans b.toLocal, a.toUnwritten.trans b.toUnwritten, ?_, b.flights.trans a.flights⟩
  have hb := b.form
  rw [a.form] at hb
  exact hb

theorem Reforms.ite {d a b : Device} {c : Prop} [Decidable c] (ha : Reforms p d a) (hb : Reforms p d b) : Reforms p d (if c then a else b) := by
  split <;> assumption

theorem Reforms.foldl {α : Type} {f : Device → α → Device} (h : ∀ d a, Reforms p d (f d a)) : ∀ (l : List α) (d : Device), Reforms p d (l.foldl f d)
  | [], d => .refl d
  | a :: l, d => (h d a).trans (Reforms.foldl h l (f d a))

theorem Reforms.modPort {d : Device} {f : Port → Port} (hform : f (d.port p) = { d.port p with clock := (f (d.port p)).clock, step := (f (d.port p)).step } := by rfl)
    (hflights : (f (d.port p)).step.queue.map (·.cue) = (d.port p).step.queue.map (·.cue) := by rfl) : Reforms p d (d.modPort p f) := by
  refine ⟨.modPort p d f, .modPort d p f, ?_, ?_⟩
  · rw [Device.port_modPort_same]
    exact hform
  · rw [Device.port_modPort_same]
    exact hflights

theorem Reforms.captureFault (d : Device) (k : FaultKind) (a b : Option Nat) : Reforms p d (d.captureFault k a b) := by
  have hport : (d.captureFault k a b).port p = d.port p := (congrArg (fun x : Device => x.port p) (HostOnly.captureFault d k a b) :)
  exact ⟨.captureFault p d k a b, .captureFault d k a b, by rw [hport], by rw [hport]⟩

variable (p)

theorem Reforms.queueChar (d : Device) (c : TimingChar) : Reforms p d (d.queueChar p c) := .ite .modPort (.captureFault _ _ _ _)

theorem Reforms.queueChars (d : Device) (l : List TimingChar) : Reforms p d (d.queueChars p l) := .foldl (fun d c => .queueChar p d c) l d

theorem StepLine.startNext_cues (s : StepLine) (m : List Host.Cell) (now : Time) : (s.startNext m now).queue.map (·.cue) = s.queue.map (·.cue) := by
  unfold StepLine.startNext
  split
  · rfl
  · split
    · rfl
    · split
      · rfl
      · split
        · next hq =>
          split
          · rw [hq]
            rfl
          · rfl
        · rfl

theorem Reforms.choose (d : Device) : Reforms p d (d.choose p) := .modPort rfl (StepLine.startNext_cues _ _ _)

theorem Reforms.pump (d : Device) : Reforms p d (d.pump p) := .ite (.refl d) (.choose p d)

theorem Reforms.queueJoinForm (d : Device) (j : Nat) : Reforms p d (d.queueJoinForm p j) := (Reforms.modPort).trans (.queueChars p _ _)

theorem Reforms.tryStepLeadIn (d : Device) : Reforms p d (d.tryStepLeadIn p) := by
  unfold Device.tryStepLeadIn
  split
  · exact .queueJoinForm p _ _
  · exact .refl d

theorem Reforms.tryClockLeadIn (d : Device) : Reforms p d (d.tryClockLeadIn p) := by
  unfold Device.tryClockLeadIn
  split
  · exact .modPort
  · exact .refl d

theorem Reforms.abandonStepForm (d : Device) : Reforms p d (d.abandonStepForm p) := by
  unfold Device.abandonStepForm
  dsimp only
  split
  · exact (Reforms.modPort).trans (.queueChar p _ _)
  · exact .modPort

theorem Reforms.abandonForm (d : Device) : Reforms p d (d.abandonForm p) := by
  unfold Device.abandonForm
  split
  · exact .modPort
  · exact (Reforms.abandonStepForm p _).trans (.pump p _)
  · exact .refl d

theorem Reforms.takeForm (d : Device) (j : Nat) : Reforms p d (d.takeForm p j) := by
  unfold Device.takeForm
  refine .ite (.refl d) ?_
  split
  · exact (Reforms.modPort).trans (.tryClockLeadIn p _)
  · exact ((Reforms.modPort).trans (.tryStepLeadIn p _)).trans (.pump p _)
  · exact .refl d

end

/-! ## Join pulses -/

/-- A join pulse of port p has been chosen or dropped, with its form. -/
structure Rejoins (p : PortIx) (d e : Device) : Prop extends Local p d e, Unwritten d e where
  port : e.port p = { d.port p with
    join := (e.port p).join, cursor := (e.port p).cursor, joinMeter := (e.port p).joinMeter, joinOrigin := (e.port p).joinOrigin
    clock := (e.port p).clock, step := (e.port p).step }
  flights : (e.port p).step.queue.map (·.cue) = (d.port p).step.queue.map (·.cue)

section
variable {p : PortIx}

theorem Rejoins.refl (d : Device) : Rejoins p d d := ⟨.refl d, .refl d, rfl, rfl⟩

theorem Rejoins.trans {d e f : Device} (a : Rejoins p d e) (b : Rejoins p e f) : Rejoins p d f := by
  refine ⟨a.toLocal.trans b.toLocal, a.toUnwritten.trans b.toUnwritten, ?_, b.flights.trans a.flights⟩
  have hb := b.port
  rw [a.port] at hb
  exact hb

theorem Rejoins.ite {d a b : Device} {c : Prop} [Decidable c] (ha : Rejoins p d a) (hb : Rejoins p d b) : Rejoins p d (if c then a else b) := by
  split <;> assumption

theorem Reforms.rejoins {d e : Device} (h : Reforms p d e) : Rejoins p d e := by
  refine ⟨h.toLocal, h.toUnwritten, ?_, h.flights⟩
  rw [h.form]

variable (p)

theorem Rejoins.withJoin (d : Device) (c : JoinChoice) : Rejoins p d (d.modPort p (·.withJoin c)) := by
  refine ⟨.modPort p d _, .modPort d p _, ?_, ?_⟩
  · rw [Device.port_modPort_same]
    rfl
  · rw [Device.port_modPort_same]
    rfl

theorem Rejoins.noJoin (d : Device) : Rejoins p d (d.modPort p fun x => { x with join := none }) := by
  refine ⟨.modPort p d _, .modPort d p _, ?_, ?_⟩
  · rw [Device.port_modPort_same]
  · rw [Device.port_modPort_same]

theorem Rejoins.dropJoin (d : Device) : Rejoins p d (d.dropJoin p) := .ite (.refl d) ((Rejoins.noJoin p d).trans (Reforms.abandonForm p _).rejoins)

theorem Rejoins.takeJoin (d : Device) (c : JoinChoice) : Rejoins p d (d.takeJoin p c) :=
  .ite (.withJoin p d c) (((Rejoins.dropJoin p d).trans (.withJoin p _ c)).trans (Reforms.takeForm p _ _).rejoins)

theorem Rejoins.chooseFirst (d : Device) : Rejoins p d (d.chooseFirst p) := by
  unfold Device.chooseFirst
  refine .ite (.refl d) ?_
  split
  · exact .takeJoin p _ _
  · exact .refl d

theorem Rejoins.chooseAgain (d : Device) : Rejoins p d (d.chooseAgain p) := by
  unfold Device.chooseAgain
  split
  · split
    · exact .takeJoin p _ _
    · exact .dropJoin p _
  · exact .refl d

theorem Rejoins.afterPlanPort (lo : Nat) (d : Device) : Rejoins p d (Device.afterPlanPort lo d p) := by
  unfold Device.afterPlanPort
  split
  · exact .ite (.dropJoin p _) (.ite (.chooseAgain p _) (.refl d))
  · exact .refl d

/-- Only an ACQUIRING port that holds a join pulse chooses anew after planning. -/
theorem Device.afterPlanPort_still (lo : Nat) {d : Device} {p : PortIx} (h : (d.port p).state ≠ .acquiring ∨ (d.port p).join = none) :
    Device.afterPlanPort lo d p = d := by
  unfold Device.afterPlanPort
  split
  · next hstate hjoin => exact absurd h (by simp [hstate, hjoin])
  · rfl

end

/-! ## Planning -/

/-- Pulses from the first soft one on have been planned: the timeline keeps its cursor, horizon, anchor, history and pending inputs, the hard entries stay in the plan, a run does not end, and of the ports only the ACQUIRING ones with a join pulse choose anew. -/
structure Replans (d e : Device) : Prop extends Steady d e where
  planner : e.planner = { d.planner with transport := e.planner.transport, latched := e.planner.latched, plan := e.planner.plan }
  runs : d.planner.transport ≠ .stopped → e.planner.transport ≠ .stopped
  hard : ∀ x ∈ d.planner.plan, x.pi < d.firstSoft → x ∈ e.planner.plan
  ports : ∀ p, e.port p = { d.port p with
    join := (e.port p).join, cursor := (e.port p).cursor, joinMeter := (e.port p).joinMeter, joinOrigin := (e.port p).joinOrigin
    clock := (e.port p).clock, step := (e.port p).step }
  flights : ∀ p, (e.port p).step.queue.map (·.cue) = (d.port p).step.queue.map (·.cue)
  still : ∀ p, (d.port p).state ≠ .acquiring ∨ (d.port p).join = none → e.port p = d.port p

theorem Replans.horizon {d e : Device} (h : Replans d e) : e.planner.horizon = d.planner.horizon := (congrArg Planner.horizon h.planner :)
theorem Replans.cursor {d e : Device} (h : Replans d e) : e.planner.cursor = d.planner.cursor := (congrArg Planner.cursor h.planner :)
theorem Replans.opening {d e : Device} (h : Replans d e) : e.planner.opening = d.planner.opening := (congrArg Planner.opening h.planner :)
theorem Replans.anchor {d e : Device} (h : Replans d e) : e.planner.anchor = d.planner.anchor := (congrArg Planner.anchor h.planner :)
theorem Replans.history {d e : Device} (h : Replans d e) : e.planner.history = d.planner.history := (congrArg Planner.history h.planner :)

theorem Device.firstSoft_congr {d e : Device} (hhorizon : e.planner.horizon = d.planner.horizon) (hopening : e.planner.opening = d.planner.opening) :
    e.firstSoft = d.firstSoft := by
  simp only [Device.firstSoft, Device.runFirst, hhorizon, hopening]

theorem Replans.firstSoft {d e : Device} (h : Replans d e) : e.firstSoft = d.firstSoft := Device.firstSoft_congr h.horizon h.opening

theorem Replans.refl (d : Device) : Replans d d := ⟨.refl d, rfl, id, fun _ h _ => h, fun _ => rfl, fun _ => rfl, fun _ _ => rfl⟩

theorem Replans.trans {d e f : Device} (a : Replans d e) (b : Replans e f) : Replans d f := by
  refine ⟨a.toSteady.trans b.toSteady, ?_, b.runs ∘ a.runs, fun x hx hlt => b.hard x (a.hard x hx hlt) (by rw [a.firstSoft]; exact hlt), fun p => ?_,
    fun p => (b.flights p).trans (a.flights p), fun p h => ?_⟩
  · have hb := b.planner
    rw [a.planner] at hb
    exact hb
  · have hb := b.ports p
    rw [a.ports p] at hb
    exact hb
  · have ha := a.still p h
    exact (b.still p (by rw [ha]; exact h)).trans ha

theorem Replans.ite {d a b : Device} {c : Prop} [Decidable c] (ha : Replans d a) (hb : Replans d b) : Replans d (if c then a else b) := by
  split <;> assumption

theorem Replans.foldl {α : Type} {f : Device → α → Device} (h : ∀ d a, Replans d (f d a)) : ∀ (l : List α) (d : Device), Replans d (l.foldl f d)
  | [], d => .refl d
  | a :: l, d => (h d a).trans (Replans.foldl h l (f d a))

/-- Only the plan, with what it latches, has changed. -/
theorem Replans.of_plan {d e : Device} (hs : Steady d e) (hports : e.ports = d.ports)
    (hplanner : e.planner = { d.planner with transport := e.planner.transport, latched := e.planner.latched, plan := e.planner.plan })
    (hruns : d.planner.transport ≠ .stopped → e.planner.transport ≠ .stopped) (hhard : ∀ x ∈ d.planner.plan, x.pi < d.firstSoft → x ∈ e.planner.plan) :
    Replans d e := by
  have hport : ∀ p, e.port p = d.port p := fun p => congrArg (fun v => v.get p) hports
  exact ⟨hs, hplanner, hruns, hhard, fun p => by rw [hport p], fun p => by rw [hport p], fun p _ => hport p⟩

theorem Replans.of_same {d e : Device} (hs : Steady d e) (hports : e.ports = d.ports) (hplanner : e.planner = d.planner) : Replans d e :=
  .of_plan hs hports (by rw [hplanner]) (by rw [hplanner]; exact id) (by rw [hplanner]; exact fun _ h _ => h)

theorem Replans.withGlobals (d : Device) (g : List Cue) : Replans d { d with globals := g } := .of_same (.of_eq rfl rfl) rfl rfl

theorem Replans.withLatched (d : Device) (k : Option Nat) : Replans d { d with planner := { d.planner with latched := k } } :=
  .of_plan (.of_eq rfl rfl) rfl rfl id fun _ h _ => h

theorem Replans.withStopping (d : Device) : Replans d { d with planner := { d.planner with transport := .stopping } } :=
  .of_plan (.of_eq rfl rfl) rfl rfl (fun _ => Transport.noConfusion) fun _ h _ => h

theorem Replans.latch (d : Device) (c : Cause) : Replans d (d.latch c) := .of_same (.of_eq rfl rfl) rfl rfl

theorem Replans.requestStatus (d : Device) : Replans d d.requestStatus :=
  .of_same (.requestStatus d) (congrArg Device.ports (HostOnly.requestStatus d) :) (congrArg Device.planner (HostOnly.requestStatus d) :)

theorem Replans.latchStop (d : Device) (k : Nat) : Replans d (d.latchStop k) := by
  have hset : ∀ e : Device, Replans e (e.setTransport .stopping) := fun e =>
    .ite (.refl e) (((Replans.withStopping e).trans (.latch _ _)).trans (.requestStatus _))
  exact (Replans.withLatched d (some k)).trans (hset _)

theorem Replans.appendEntry (d : Device) (e : PlanEntry) : Replans d (d.appendEntry e) := by
  have h : Replans d { d with planner := { d.planner with plan := d.planner.plan ++ [e] }, globals := d.globals.map (·.meterMoved e) } :=
    .of_plan (.of_eq rfl rfl) rfl rfl id fun x hx _ => List.mem_append_left _ hx
  unfold Device.appendEntry
  exact .ite (h.trans (.latchStop _ _)) h

theorem Replans.planPulse (d : Device) : Replans d d.planPulse := by
  unfold Device.planPulse
  split
  · exact .appendEntry d _
  · exact .refl d

theorem Replans.extendLoop : ∀ (n : Nat) (d : Device), Replans d (Device.extendLoop n d)
  | 0, d => .refl d
  | n + 1, d => .ite ((Replans.planPulse d).trans (Replans.extendLoop n _)) (.refl d)

theorem Replans.writeProgress (d : Device) (c : Cue) (k : Nat) : Replans d (d.writeProgress c k) :=
  .of_same (Local.writeProgress 0 d c k).toSteady (by simp [Device.writeProgress]) (Local.writeProgress 0 d c k).planner

theorem Replans.moveGlobals (d : Device) : Replans d d.moveGlobals := by
  unfold Device.moveGlobals
  exact .ite (.refl d) ((Replans.withGlobals d _).trans (.foldl (fun d c => .writeProgress d c _) _ _))

theorem Replans.discardSoft (d : Device) : Replans d d.discardSoft :=
  .of_plan (.of_eq rfl rfl) rfl rfl id fun _ hx hlt => List.mem_filter.mpr ⟨hx, decide_eq_true hlt⟩

theorem Replans.afterPlanPort (lo : Nat) (d : Device) (p : PortIx) : Replans d (Device.afterPlanPort lo d p) := by
  have h := Rejoins.afterPlanPort p lo d
  refine ⟨h.toSteady, by rw [h.planner], by rw [h.planner]; exact id, by rw [h.planner]; exact fun _ hx _ => hx, fun q => ?_, fun q => ?_, fun q hq => ?_⟩
  · rcases Classical.em (q = p) with rfl | hne
    · exact h.port
    · rw [h.ports q hne]
  · rcases Classical.em (q = p) with rfl | hne
    · exact h.flights
    · rw [h.ports q hne]
  · rcases Classical.em (q = p) with rfl | hne
    · rw [Device.afterPlanPort_still lo hq]
    · exact h.ports q hne

theorem Unwritten.afterPlan (d : Device) (lo : Nat) : Unwritten d (d.afterPlan lo) := .foldl (fun d p => (Rejoins.afterPlanPort p lo d).toUnwritten) allPorts d

theorem Unwritten.pumpAll (d : Device) : Unwritten d d.pumpAll := .foldl (fun d p => (Reforms.pump p d).toUnwritten) allPorts d

theorem Replans.afterPlan (d : Device) (lo : Nat) : Replans d (d.afterPlan lo) := .foldl (Replans.afterPlanPort lo) allPorts d

theorem Replans.extend (d : Device) : Replans d d.extend := by
  unfold Device.extend
  exact .ite (((Replans.moveGlobals d).trans (.extendLoop _ _)).trans (.afterPlan _ _)) (.refl d)

theorem Replans.replan (d : Device) : Replans d d.replan := by
  unfold Device.replan
  exact .ite (.refl d) (.ite (.moveGlobals d) (((((Replans.discardSoft d).trans (.moveGlobals _)).trans (.planPulse _)).trans (.extendLoop _ _)).trans (.afterPlan _ _)))

theorem Replans.moveWaiting (d : Device) : Replans d d.moveWaiting := .ite (.moveGlobals d) (.refl d)

theorem Replans.replanFor (d : Device) (due : Nat) : Replans d (d.replanFor due) := .ite (.replan d) (.refl d)

/-- While STOPPED nothing is planned. -/
theorem Device.replan_stopped {d : Device} (h : d.planner.transport = .stopped) : d.replan = d := by
  unfold Device.replan
  rw [if_pos (by simp [Device.runUnderWay, h])]

theorem Device.extend_stopped {d : Device} (h : d.planner.transport = .stopped) : d.extend = d := by
  unfold Device.extend
  rw [if_neg (by simp [Device.extendDue, Device.runUnderWay, h])]

end Sys2Proof.Machine
end

section
/-! PROOFS. Nudges (R49, R67), and the marks a SEEKING or HOLDING follower collects (R50, R56 to R58). -/
namespace Sys2Proof.Machine

theorem Device.runUnderWay_iff {d : Device} : d.runUnderWay = true ↔ d.planner.transport ≠ .stopped := by simp [Device.runUnderWay]

theorem Device.firstSoft_of {d : Device} {c : Nat} (h : d.planner.horizon = some c) : d.firstSoft = c + 1 := by
  unfold Device.firstSoft
  rw [h]

/-- A re-plan keeps every hard entry. -/
theorem Replans.below {d e : Device} (h : Replans d e) {c : Nat} (hc : d.planner.horizon = some c) : ∀ x ∈ d.planner.plan, x.pi ≤ c → x ∈ e.planner.plan :=
  fun x hx hle => h.hard x hx (by rw [Device.firstSoft_of hc]; omega)

/-! ## Nudges -/

/-- The device with other pending inputs for C+1. -/
def Device.withPending (d : Device) (period : Option Nat) (spread : Option Spread) (balance : Option Int) : Device :=
  { d with planner := { d.planner with pendPeriod := period, pendSpread := spread, pendBalance := balance } }

theorem Device.nudge_stopped {d : Device} (h : d.planner.transport = .stopped) (w : Word) : d.nudge w = d := by
  unfold Device.nudge
  rw [if_neg (by simp [Device.runUnderWay, h])]

theorem Device.nudge_running {d : Device} (h : d.planner.transport ≠ .stopped) (w : Word) :
    d.nudge w = (d.withPending d.planner.pendPeriod d.planner.pendSpread (some (saturate64 (d.nextBalance + nudgeCount w)))).replan := by
  unfold Device.nudge
  rw [if_pos (Device.runUnderWay_iff.mpr h)]
  rfl

theorem nudgeCount_eq (w : Word) : nudgeCount w = if wordBit w 4 then -((w.toNat % 16 : Nat) : Int) else ((w.toNat % 16 : Nat) : Int) := by
  have hcount : (w.extractLsb' 0 4).toNat = w.toNat % 16 := by simp
  rw [nudgeCount, hcount]

theorem Device.nextBalance_withArbiter (d : Device) (l : List WaitingAccess) : (d.withArbiter l).nextBalance = d.nextBalance := rfl

/-- What a re-plan with other pending inputs leaves of the planner. -/
structure Device.Repended (d e : Device) (period : Option Nat) (spread : Option Spread) (balance : Option Int) : Prop extends Steady d e where
  period : e.planner.pendPeriod = period
  spread : e.planner.pendSpread = spread
  balance : e.planner.pendBalance = balance
  horizon : e.planner.horizon = d.planner.horizon
  hard : ∀ c, d.planner.horizon = some c → ∀ x ∈ d.planner.plan, x.pi ≤ c → x ∈ e.planner.plan

theorem Device.repended (d : Device) (period : Option Nat) (spread : Option Spread) (balance : Option Int) :
    d.Repended (d.withPending period spread balance).replan period spread balance := by
  have h := Replans.replan (d.withPending period spread balance)
  exact { toSteady := h.toSteady.after, period := (congrArg Planner.pendPeriod h.planner :), spread := (congrArg Planner.pendSpread h.planner :),
          balance := (congrArg Planner.pendBalance h.planner :), horizon := h.horizon, hard := fun _ hc => h.below (d := d.withPending period spread balance) hc }

/-- What a nudge during a run does to the planner. -/
structure Device.Nudged (d e : Device) (w : Word) : Prop where
  balance : e.planner.pendBalance = some (saturate64 (d.nextBalance + nudgeCount w))
  horizon : e.planner.horizon = d.planner.horizon
  hard : ∀ c, d.planner.horizon = some c → ∀ x ∈ d.planner.plan, x.pi ≤ c → x ∈ e.planner.plan

theorem Device.nudged {d : Device} (h : d.planner.transport ≠ .stopped) (w : Word) : d.Nudged (d.nudge w) w := by
  rw [Device.nudge_running h]
  have h := d.repended d.planner.pendPeriod d.planner.pendSpread (some (saturate64 (d.nextBalance + nudgeCount w)))
  exact ⟨h.balance, h.horizon, h.hard⟩

/-- Settles O18: a nudge replaces the balance that C+1 is to take, and the soft pulses are planned again. -/
theorem nudge : Obligations.Nudge := by
  intro w s
  refine ⟨nudgeCount_eq w, fun h => exec_of_noEffect rfl (Device.nudge_stopped (d := s.presenting) h w), fun h => ?_⟩
  have hkeeps : Keeps 1 s.presenting (s.presenting.nudge w) := Keeps.nudge _ _
  obtain ⟨hbalance, hhorizon, hhard⟩ := Device.nudged (d := s.presenting) h w
  exact ⟨s.noted (s.presenting.nudge w), exec_noted rfl s, hbalance, hhorizon, hhard, hkeeps.time, hkeeps.follower (Nat.le_refl _), hkeeps.mode (Nat.le_refl _),
    hkeeps.service (Nat.le_refl _), hkeeps.house (Nat.le_refl _)⟩

/-! ## Collected marks -/

/-- The edge is taken: it is on the follower's input, and its debounce time has passed. -/
def Device.takesEdge (d : Device) (input : BeatInput) : Prop :=
  d.follower.source = input ∧ ∀ t, d.follower.prevTaken = some t → 100000 ≤ timeDiff d.time t

theorem Device.debounced_iff {d : Device} : d.debounced = true ↔ ∃ t, d.follower.prevTaken = some t ∧ timeDiff d.time t < 100000 := by
  unfold Device.debounced
  cases d.follower.prevTaken <;> simp

theorem Device.beatEdge_ignored {d : Device} {input : BeatInput} (h : d.follower.state = .off ∨ ¬ d.takesEdge input) : d.beatEdge input = d := by
  unfold Device.beatEdge
  rw [if_pos]
  rcases h with hoff | htaken
  · exact Or.inl hoff
  · refine Or.inr ?_
    rw [Device.debounced_iff]
    unfold Device.takesEdge at htaken
    by_cases hsource : d.follower.source = input
    · exact Or.inr (Classical.byContradiction fun hnone => htaken ⟨hsource, fun t ht => Int.not_lt.mp fun hlt => hnone ⟨t, ht, hlt⟩⟩)
    · exact Or.inl hsource

/-- The device after an edge has been noted as the previous taken mark. -/
def Device.edgeNoted (d : Device) : Device := { d with follower := { d.follower with prevTaken := some d.time } }

theorem Device.beatEdge_taken {d : Device} {input : BeatInput} (hstate : d.follower.state ≠ .off) (h : d.takesEdge input) :
    d.beatEdge input = d.edgeNoted.takeMark (d.time + BitVec.ofInt 48 d.follower.offset) := by
  unfold Device.beatEdge
  obtain ⟨hsource, htime⟩ := h
  rw [if_neg]
  · rfl
  · rintro (hoff | hother | hbounce)
    · exact hstate hoff
    · exact hother hsource
    · obtain ⟨t, ht, hlt⟩ := Device.debounced_iff.mp hbounce
      exact absurd (htime t ht) (by omega)

theorem Device.takeMark_collects {d : Device} (h : d.follower.state = .seeking ∨ d.follower.state = .holding) (tm : Time) : d.takeMark tm = d.collectMark tm := by
  unfold Device.takeMark
  rcases h with h | h <;> rw [h]

theorem Device.correct_stopped {d : Device} (h : d.planner.transport = .stopped) (period : Nat) (spread : Option Spread) : d.correct period spread = d := by
  unfold Device.correct
  rw [if_neg (by simp [Device.runUnderWay, h])]

theorem Device.correct_running {d : Device} (h : d.planner.transport ≠ .stopped) (period : Nat) (spread : Option Spread) :
    d.correct period spread =
      (d.withPending (some period) (spread.or d.planner.pendSpread) d.planner.pendBalance).replan := by
  unfold Device.correct
  rw [if_pos (Device.runUnderWay_iff.mpr h)]
  cases spread <;> rfl

/-- What a correction leaves of the planner: the horizon and every hard entry; while STOPPED, everything. -/
structure Device.Corrected (d e : Device) (period : Nat) (spread : Option Spread) : Prop extends Steady d e, Keeps 1 d e where
  horizon : e.planner.horizon = d.planner.horizon
  stopped : d.planner.transport = .stopped → e = d
  pending : d.planner.transport ≠ .stopped → e.planner.pendPeriod = some period ∧ e.planner.pendSpread = spread.or d.planner.pendSpread
  hard : ∀ c, d.planner.horizon = some c → ∀ x ∈ d.planner.plan, x.pi ≤ c → x ∈ e.planner.plan

theorem Device.corrected (d : Device) (period : Nat) (spread : Option Spread) : d.Corrected (d.correct period spread) period spread := by
  have hkeeps := Keeps.correct d period spread
  by_cases h : d.planner.transport = .stopped
  · have hsame := Device.correct_stopped h period spread
    rw [hsame] at hkeeps ⊢
    exact { toSteady := .refl d, toKeeps := hkeeps, horizon := rfl, stopped := fun _ => rfl, pending := fun hrun => absurd h hrun, hard := fun _ _ _ hx _ => hx }
  · have hrun := Device.correct_running h period spread
    have hre := d.repended (some period) (spread.or d.planner.pendSpread) d.planner.pendBalance
    rw [hrun] at hkeeps ⊢
    exact { toSteady := hre.toSteady, toKeeps := hkeeps, horizon := hre.horizon, stopped := fun hs => absurd hs h, pending := fun _ => ⟨hre.period, hre.spread⟩,
            hard := hre.hard }

/-- The lock: FOLLOW is latched, a status write requested, and the period handed to the planner. -/
theorem Device.lockFollower_eq {d : Device} (h : d.follower.state ≠ .locked) (len : Nat) (t4 : Time) :
    d.lockFollower len t4 =
      ((({ d with follower := { d.follower.locked len t4 with state := .locked } } : Device).latch .follow).requestStatus).correct (intervalPeriod len 3) none := by
  unfold Device.lockFollower
  rw [Device.setFollower_of_ne (show ({ d with follower := d.follower.locked len t4 } : Device).follower.state ≠ .locked from h)]

/-- What the lock leaves: the follower's record, its cause, and the planner corrected by the new period. -/
structure Device.Locked (d e : Device) (len : Nat) (t4 : Time) : Prop where
  follower : e.follower = { d.follower.locked len t4 with state := .locked }
  cause : e.attn.getLsbD 2 = true
  writer : e.writer.isSome = true
  horizon : e.planner.horizon = d.planner.horizon
  stopped : d.planner.transport = .stopped → e.planner = d.planner
  pending : d.planner.transport ≠ .stopped → e.planner.pendPeriod = some (intervalPeriod len 3) ∧ e.planner.pendSpread = d.planner.pendSpread
  hard : ∀ c, d.planner.horizon = some c → ∀ x ∈ d.planner.plan, x.pi ≤ c → x ∈ e.planner.plan

theorem Device.getLsbD_attn_of_keeps {n : Nat} {d e : Device} (h : Keeps n d e) {i : Nat} (hi : d.attn.getLsbD i = true) : e.attn.getLsbD i = true := by
  obtain ⟨x, hx⟩ := h.attn
  rw [hx, BitVec.getLsbD_or, hi, Bool.true_or]

theorem Device.lockFollower_locked {d : Device} (h : d.follower.state ≠ .locked) (len : Nat) (t4 : Time) : d.Locked (d.lockFollower len t4) len t4 := by
  rw [Device.lockFollower_eq h]
  generalize hb : ({ d with follower := { d.follower.locked len t4 with state := .locked } } : Device) = b
  have hfollower : b.follower = { d.follower.locked len t4 with state := .locked } := by rw [← hb]
  have hplanner : (b.latch .follow).requestStatus.planner = d.planner := by rw [Device.requestStatus_planner, Device.latch_planner, ← hb]
  have hcause : (b.latch .follow).requestStatus.attn.getLsbD 2 = true := by
    rw [Device.requestStatus_attn, Device.latch, BitVec.getLsbD_or]
    exact Bool.or_true _
  have h := (b.latch .follow).requestStatus.corrected (intervalPeriod len 3) none
  refine ⟨?_, Device.getLsbD_attn_of_keeps h.toKeeps hcause, h.writer (Device.requestStatus_isSome _), ?_, fun hs => ?_, fun hrun => ?_, fun c hc => ?_⟩
  · rw [h.follower (Nat.le_refl _), Device.requestStatus_follower, Device.latch_follower, hfollower]
  · rw [h.horizon, hplanner]
  · rw [h.stopped (by rw [hplanner]; exact hs), hplanner]
  · have hpending := h.pending (by rw [hplanner]; exact hrun)
    rw [hplanner] at hpending
    exact hpending
  · have hhard := h.hard c (by rw [hplanner]; exact hc)
    rw [hplanner] at hhard
    exact hhard

theorem Device.collectMark_few {d : Device} {tm : Time} (h : (d.follower.marks ++ [tm]).length < 4) :
    d.collectMark tm = { d with follower := { d.follower with marks := d.follower.marks ++ [tm] } } := if_pos h

theorem Device.collectMark_full {d : Device} {tm : Time} (h : 4 ≤ (d.follower.marks ++ [tm]).length) :
    d.collectMark tm = match trainLength (d.follower.marks ++ [tm]) with
      | some len => d.lockFollower len tm
      | none => { d with follower := { d.follower with marks := (d.follower.marks ++ [tm]).tail } } := if_neg (by omega)

/-- Settles O46: three marks are collected; the fourth locks the follower or pushes the oldest out. -/
theorem beatMarkCollected : Obligations.BeatMarkCollected := by
  intro input s tm marks taken
  have hop : ∀ e, operationOf (.beatMark input) e = e.beatEdge input := fun _ => rfl
  refine ⟨fun h => exec_of_noEffect rfl (Device.beatEdge_ignored (d := s.presenting) h), fun htaken hstate => ?_⟩
  have hon : s.follower.state ≠ .off := by rcases hstate with h | h <;> simp [h]
  have hcollects : ∀ l, (s.toDevice.withArbiter l).beatEdge input = (s.toDevice.withArbiter l).edgeNoted.collectMark tm := fun l => by
    rw [Device.beatEdge_taken (d := s.toDevice.withArbiter l) hon htaken]
    exact Device.takeMark_collects (d := (s.toDevice.withArbiter l).edgeNoted) hstate tm
  refine ⟨fun hfew => ?_, fun hfull htrain => ?_, fun len hfull htrain => ?_⟩
  · rw [exec_eq]
    refine State.act_of_noAccess rfl ?_
    rw [hop, hcollects, Device.collectMark_few (d := (s.toDevice.withArbiter s.presented).edgeNoted) hfew]
    rfl
  · rw [exec_eq]
    refine State.act_of_noAccess rfl ?_
    rw [hop, hcollects, Device.collectMark_full (d := (s.toDevice.withArbiter s.presented).edgeNoted) hfull]
    have hnone : trainLength ((s.toDevice.withArbiter s.presented).edgeNoted.follower.marks ++ [tm]) = none := htrain
    rw [hnone]
    rfl
  · have hlocks : operationOf (.beatMark input) s.presenting = s.presenting.edgeNoted.lockFollower len tm := by
      have hsome : trainLength (s.presenting.edgeNoted.follower.marks ++ [tm]) = some len := htrain
      rw [hop, State.presenting, hcollects, ← State.presenting, Device.collectMark_full (d := s.presenting.edgeNoted) hfull, hsome]
    have hfree : s.presenting.edgeNoted.follower.state ≠ .locked := by
      show s.follower.state ≠ .locked
      rcases hstate with h | h <;> simp [h]
    have h := Device.lockFollower_locked hfree len tm
    rw [← hlocks] at h
    refine ⟨s.noted (operationOf (.beatMark input) s.presenting), exec_noted rfl s, ?_, h.cause, h.writer, h.horizon, h.stopped, h.pending, h.hard⟩
    exact h.follower

end Sys2Proof.Machine
end

section
/-! PROOFS. The marks a LOCKED follower judges (R59 to R64, R66): the reference beat, the predicted mark, the window, and what a rejected or an accepted mark does. -/
namespace Sys2Proof.Machine

/-! ## The nearest of a list of instants (R59) -/

/-- How far an instant lies from the target. -/
def instantDistance (target i : Instant) : Nat := (instDiff i target).natAbs

/-- r is the earliest of the instants nearest to the target. -/
def NearestOf (target r : Instant) (l : List Instant) : Prop :=
  ∃ l1 l2, l = l1 ++ r :: l2 ∧ (∀ i ∈ l1, instantDistance target r < instantDistance target i) ∧ ∀ i ∈ l2, instantDistance target r ≤ instantDistance target i

theorem nearer_eq (target a b : Instant) : nearer target a b = if instantDistance target b < instantDistance target a then b else a := rfl

theorem NearestOf.next {target r : Instant} {l : List Instant} (h : NearestOf target r l) (b : Instant) : NearestOf target (nearer target r b) (l ++ [b]) := by
  obtain ⟨l1, l2, rfl, hbefore, hafter⟩ := h
  rw [nearer_eq]
  split
  · next hlt =>
    refine ⟨l1 ++ r :: l2, [], rfl, fun i hi => ?_, fun i hi => absurd hi List.not_mem_nil⟩
    rcases List.mem_append.mp hi with hi | hi
    · exact Nat.lt_trans hlt (hbefore i hi)
    · rcases List.mem_cons.mp hi with rfl | hi
      · exact hlt
      · exact Nat.lt_of_lt_of_le hlt (hafter i hi)
  · next hge =>
    refine ⟨l1, l2 ++ [b], by simp, hbefore, fun i hi => ?_⟩
    rcases List.mem_append.mp hi with hi | hi
    · exact hafter i hi
    · rw [List.mem_singleton.mp hi]
      exact Nat.le_of_not_lt hge

theorem NearestOf.foldl {target : Instant} : ∀ (rest : List Instant) {r : Instant} {l : List Instant}, NearestOf target r l →
    NearestOf target (rest.foldl (nearer target) r) (l ++ rest)
  | [], _, _, h => by simpa using h
  | b :: rest, r, l, h => by
    have hnext := NearestOf.foldl rest (h.next b)
    rwa [List.append_assoc] at hnext

theorem nearestOf_fold (target i : Instant) (rest : List Instant) : NearestOf target (rest.foldl (nearer target) i) (i :: rest) :=
  NearestOf.foldl rest (l := [i]) ⟨[], [], rfl, fun _ h => absurd h List.not_mem_nil, fun _ h => absurd h List.not_mem_nil⟩

/-- The beat starts the planner knows: the history, and those of the plan. -/
def Device.knownBeats (d : Device) : List Instant := d.planner.history ++ (d.planner.plan.filter (·.beatStart)).map (·.instant)

theorem Device.referenceBeat_nearest {d : Device} {tm : Time} (hrun : d.planner.transport ≠ .stopped) (h : d.beatCandidates (timeInstant tm) ≠ []) :
    NearestOf (timeInstant tm) (d.referenceBeat tm) (d.beatCandidates (timeInstant tm)) := by
  unfold Device.referenceBeat
  rw [if_pos (Device.runUnderWay_iff.mpr hrun)]
  cases hcand : d.beatCandidates (timeInstant tm) with
  | nil => exact absurd hcand h
  | cons i rest => exact nearestOf_fold _ i rest

theorem Device.beatCandidates_known {d : Device} {target : Instant} (h : ∃ i ∈ d.knownBeats, 0 < instDiff i target) : d.beatCandidates target = d.knownBeats := by
  unfold Device.beatCandidates
  rw [if_pos]
  · rfl
  · show d.knownBeats.any (fun i => decide (0 < instDiff i target)) = true
    simpa using h

theorem PlanEntry.projected_eq (e : PlanEntry) : e.projected = e.instant + BitVec.ofNat 64 ((96 - e.pi % 96) * e.segValue) := by
  have hnext : nextMultiple 0 96 (e.pi + 1) - e.pi = 96 - e.pi % 96 := by
    unfold nextMultiple
    omega
  rw [PlanEntry.projected, hnext]

theorem Device.beatCandidates_projected {d : Device} {target : Instant} {e : PlanEntry} (h : ∀ i ∈ d.knownBeats, ¬ 0 < instDiff i target)
    (hlast : d.planner.plan.getLast? = some e) : d.beatCandidates target = d.knownBeats ++ [e.instant + BitVec.ofNat 64 ((96 - e.pi % 96) * e.segValue)] := by
  unfold Device.beatCandidates
  rw [if_neg, hlast]
  · show _ ++ [e.projected] = _
    rw [PlanEntry.projected_eq]
    rfl
  · rw [Bool.not_eq_true, List.any_eq_false]
    intro i hi
    simpa using h i hi

/-! ## The predicted mark (R66) -/

/-- A number near D among the multiples of B, the lower on a tie. -/
def NearestMultiple (B k : Nat) (D : Int) : Prop :=
  ∀ j : Nat, ((k * B : Nat) - D).natAbs ≤ ((j * B : Nat) - D).natAbs ∧ (((k * B : Nat) - D).natAbs = ((j * B : Nat) - D).natAbs → k ≤ j)

/-- The multiple at or below D and the one after it: one of the two is the nearest. -/
theorem nearestMultiple_of_floor {B n D : Nat} (hB : 0 < B) (hlo : n * B ≤ D) (hhi : D < (n + 1) * B) :
    NearestMultiple B (if (((n + 1) * B : Nat) - (D : Int)).natAbs < ((n * B : Nat) - (D : Int)).natAbs then n + 1 else n) D := by
  have hstep : (n + 1) * B = n * B + B := Nat.succ_mul n B
  intro j
  rcases Nat.lt_trichotomy j n with hj | rfl | hj
  · have hle : (j + 1) * B ≤ n * B := Nat.mul_le_mul_right B hj
    have hj1 : (j + 1) * B = j * B + B := Nat.succ_mul j B
    split <;> constructor <;> omega
  · split <;> constructor <;> omega
  · have hle : (n + 1) * B ≤ j * B := Nat.mul_le_mul_right B hj
    split <;> constructor <;> omega

/-- The distance of a predicted mark from the target, where nothing wraps. -/
theorem instDiff_predicted {m : Time} {target : Instant} {q n D : Nat} (hD : instDiff target (timeInstant m) = D)
    (hlo : (D : Int) - 2 ^ 62 ≤ (n * (96 * q) : Nat)) (hhi : ((n * (96 * q) : Nat) : Int) ≤ D + 2 ^ 62) :
    instDiff (predictedMark m q n) target = (n * (96 * q) : Nat) - (D : Int) := by
  have hsub : predictedMark m q n - target = BitVec.ofNat 64 (n * (96 * q)) - (target - timeInstant m) := by
    unfold predictedMark
    generalize timeInstant m = a
    bv_omega
  generalize n * (96 * q) = x at *
  unfold instDiff at *
  rw [hsub, BitVec.toInt_sub, hD, BitVec.toInt_ofNat', Int.bmod_sub_bmod]
  exact Int.bmod_eq_of_le (by omega) (by omega)

/-- R66: while STOPPED the reference is the nearest predicted mark, the earlier on a tie. -/
theorem nearestPrediction_nearest {m : Time} {target : Instant} {q : Nat} (hq : 0 < q) (hq' : q ≤ 1024000000) (h : 0 ≤ instDiff target (timeInstant m)) :
    ∃ k : Nat, nearestPrediction m q target = timeInstant m + BitVec.ofNat 64 (k * (96 * q)) ∧
      NearestMultiple (96 * q) k (instDiff target (timeInstant m)) := by
  obtain ⟨D, hD⟩ := Int.eq_ofNat_of_zero_le h
  have hB : 0 < 96 * q := by omega
  have hlo : D / (96 * q) * (96 * q) ≤ D := Nat.div_mul_le_self D (96 * q)
  have hhi : D < (D / (96 * q) + 1) * (96 * q) := by
    rw [Nat.succ_mul]
    exact Nat.lt_div_mul_add hB
  have hstep : (D / (96 * q) + 1) * (96 * q) = D / (96 * q) * (96 * q) + 96 * q := Nat.succ_mul _ _
  have hmult := nearestMultiple_of_floor hB hlo hhi
  have hfirst := instDiff_predicted (q := q) (n := D / (96 * q)) hD (by omega) (by omega)
  have hsecond := instDiff_predicted (q := q) (n := D / (96 * q) + 1) hD (by omega) (by omega)
  have hn : (instDiff target (timeInstant m)).toNat / (96 * q) = D / (96 * q) := by rw [hD]; rfl
  refine ⟨_, ?_, by rw [hD]; exact hmult⟩
  rw [nearestPrediction, hn, nearer_eq, instantDistance, instantDistance, hfirst, hsecond]
  split <;> rfl

theorem Device.referenceBeat_predicted {d : Device} {tm m : Time} {q : Nat} (hstopped : d.planner.transport = .stopped) (hm : d.follower.lastMark = some m)
    (hq : d.follower.period = some q) : d.referenceBeat tm = nearestPrediction m q (timeInstant tm) := by
  unfold Device.referenceBeat
  rw [if_neg (by simp [Device.runUnderWay, hstopped]), hm, hq]

/-! ## The reference period (R60) -/

theorem Device.referencePeriod_running {d : Device} (h : d.planner.transport ≠ .stopped) : d.referencePeriod = match d.planner.horizon with
    | some c => (match d.entryAt c with | some e => e.segValue | none => d.planner.heldPeriod)
    | none => (match d.planner.plan.head? with | some e => e.segValue | none => d.planner.heldPeriod) := by
  unfold Device.referencePeriod Device.entryC
  rw [if_pos (Device.runUnderWay_iff.mpr h)]
  cases d.planner.horizon <;> rfl

theorem Device.referencePeriod_stopped {d : Device} {q : Nat} (h : d.planner.transport = .stopped) (hq : d.follower.period = some q) : d.referencePeriod = q := by
  unfold Device.referencePeriod
  rw [if_neg (by simp [Device.runUnderWay, h]), hq]

/-! ## A judged mark -/

theorem exceedsBeat_iff (err : Int) (d p : Nat) : exceedsBeat err d p = true ↔ 96 * p < err.natAbs * 65536 * d := by simp [exceedsBeat]

/-- The edge taken while LOCKED: the mark is judged with the reference of the state before it. -/
theorem Device.beatEdge_judges {d : Device} {input : BeatInput} (hstate : d.follower.state = .locked) (h : d.takesEdge input) {tm : Time}
    (htm : tm = d.time + BitVec.ofInt 48 d.follower.offset) : d.beatEdge input =
      if exceedsBeat (d.markError tm) (if d.follower.wide then 2 else 4) d.referencePeriod then d.edgeNoted.rejectMark tm (d.markError tm)
      else d.edgeNoted.acceptMark tm (d.markError tm) := by
  rw [Device.beatEdge_taken (by rw [hstate]; decide) h, ← htm]
  have htake : d.edgeNoted.takeMark tm = d.edgeNoted.judgeMark tm := by
    unfold Device.takeMark
    rw [show d.edgeNoted.follower.state = .locked from hstate]
  rw [htake]
  rfl

theorem Device.rejectMark_few {d : Device} (h : d.follower.rejects + 1 < 4) (tm : Time) (err : Int) :
    d.rejectMark tm err = { d with follower := { d.follower with rejects := d.follower.rejects + 1, lastE := err } } := if_pos h

/-- What the fourth rejection in a row leaves. -/
structure Device.Holds (d e : Device) (tm : Time) (err : Int) : Prop where
  follower : e.follower = { d.follower with rejects := 0, lastE := err, marks := [tm], state := .holding }
  planner : e.planner = d.planner
  attn : e.attn = d.attn ||| 20
  writer : e.writer.isSome = true
  capture : d.capture = none → e.capture = some { kind := .followLost, port := none, slot := none, pi := d.currentPI, time := d.time, more := 0 }

theorem Device.captureFault_attn_or (d : Device) (k : FaultKind) (p m : Option Nat) : (d.captureFault k p m).attn = d.attn ||| 16 := by
  unfold Device.captureFault
  split
  · rw [Device.requestStatus_attn]
    rfl
  · split
    · rw [Device.requestStatus_attn]
      rfl
    · rfl

theorem Device.rejectMark_holds {d : Device} (hstate : d.follower.state = .locked) (h : 4 ≤ d.follower.rejects + 1) (tm : Time) (err : Int) :
    d.Holds (d.rejectMark tm err) tm err := by
  unfold Device.rejectMark
  rw [if_neg (by omega), Device.setFollower_of_ne (by show d.follower.state ≠ _; rw [hstate]; decide)]
  generalize hb : ({ d with follower := { d.follower with rejects := 0, lastE := err, marks := [tm], state := .holding } } : Device) = b
  have hhost := HostOnly.captureFault (b.latch .follow).requestStatus .followLost none none
  have hplanner : (b.latch .follow).requestStatus.planner = d.planner := by rw [Device.requestStatus_planner, Device.latch_planner, ← hb]
  have hcapture : (b.latch .follow).requestStatus.capture = d.capture := by rw [Device.requestStatus_writers, ← hb]; rfl
  refine ⟨?_, ?_, ?_, (Steady.captureFault _ _ _ _).writer (Device.requestStatus_isSome _), fun hempty => ?_⟩
  · rw [show _ = _ from (congrArg Device.follower hhost :)]
    show (b.latch .follow).requestStatus.follower = _
    rw [Device.requestStatus_follower, ← hb]
    rfl
  · rw [show _ = _ from (congrArg Device.planner hhost :)]
    exact hplanner
  · rw [Device.captureFault_attn_or, Device.requestStatus_attn, ← hb, Device.latch, BitVec.or_assoc]
    rfl
  · rw [Device.captureFault_capture_of_empty (by rw [hcapture]; exact hempty)]
    have hpi : (b.latch .follow).requestStatus.currentPI = d.currentPI := by simp only [Device.currentPI, Device.runFirst, hplanner]
    have htime : (b.latch .follow).requestStatus.time = d.time := by rw [Device.requestStatus_writers, ← hb]; rfl
    rw [hpi, htime]

theorem phaseCorrection_eq (err : Int) (gp p : Nat) :
    phaseCorrection err gp p = Min.min (6 * (p : Int)) (Max.max (-(6 * (p : Int))) (err * 4096 * gp)) := by
  unfold phaseCorrection
  generalize err * 4096 * gp = x
  dsimp only
  push_cast
  split
  · omega
  · split <;> omega

/-- The follower's record after an accepted mark. -/
def Follower.accepted (f : Follower) (tm : Time) (err : Int) (period pB : Nat) : Follower :=
  { f with rejects := 0, lastE := err, wide := f.wide && !belowBeat err 16 pB, period := some period, lastMark := some tm }

/-- What an accepted mark leaves: the follower's record, and the planner corrected by the period and the phase. -/
structure Device.Accepts (d e : Device) (tm : Time) (err : Int) (period : Nat) : Prop where
  follower : e.follower = d.follower.accepted tm err period d.referencePeriod
  horizon : e.planner.horizon = d.planner.horizon
  stopped : d.planner.transport = .stopped → e = { d with follower := d.follower.accepted tm err period d.referencePeriod }
  pending : d.planner.transport ≠ .stopped → e.planner.pendPeriod = some period ∧
    e.planner.pendSpread = some (Spread.begin (Min.min (6 * (period : Int)) (Max.max (-(6 * (period : Int))) (err * 4096 * d.follower.gp))))
  hard : ∀ c, d.planner.horizon = some c → ∀ x ∈ d.planner.plan, x.pi ≤ c → x ∈ e.planner.plan

theorem Device.acceptMark_accepts (d : Device) (tm : Time) (err : Int) : d.Accepts (d.acceptMark tm err) tm err (d.nextPeriod tm) := by
  have heq : d.acceptMark tm err = ({ d with follower := d.follower.accepted tm err (d.nextPeriod tm) d.referencePeriod } : Device).correct (d.nextPeriod tm)
      (some (Spread.begin (phaseCorrection err d.follower.gp (d.nextPeriod tm)))) := rfl
  rw [heq, phaseCorrection_eq]
  generalize d.nextPeriod tm = period
  generalize hshift : Min.min (6 * (period : Int)) (Max.max (-(6 * (period : Int))) (err * 4096 * d.follower.gp)) = shift
  generalize hf : d.follower.accepted tm err period d.referencePeriod = f
  have h := ({ d with follower := f } : Device).corrected period (some (Spread.begin shift))
  refine ⟨(h.follower (Nat.le_refl _)).trans hf.symm, h.horizon, fun hs => by rw [hf]; exact h.stopped hs, fun hrun => ?_, h.hard⟩
  obtain ⟨hperiod, hspread⟩ := h.pending hrun
  exact ⟨hperiod, hspread.trans (by rw [hshift]; rfl)⟩

theorem Device.nextPeriod_of {d : Device} {tm m : Time} {q : Nat} (hm : d.follower.lastMark = some m) (hq : d.follower.period = some q) :
    d.nextPeriod tm = updatedPeriod q d.follower.gt (beatCount (timeDiff tm m).toNat d.referencePeriod) (timeDiff tm m).toNat := by
  unfold Device.nextPeriod
  rw [hm, hq]

theorem State.noted_of_same {s : State} {e : Device} (h : e.arbiter = s.presented) : s.noted e = { e with arbiter := s.arbiter } := by
  simp only [State.noted, h, Nat.sub_self, Nat.add_zero]

/-- Settles O47: the reference beat is the nearest known one, the window decides, and the planner takes an accepted mark. -/
theorem beatMarkJudged : Obligations.BeatMarkJudged := by
  intro input s tm target tb err pB width known nearest
  refine ⟨⟨rfl, fun hrun hahead => ?_, fun e hrun hnone hlast => ?_, fun m q hstopped hm hq hpos hle hbefore => ?_, fun c e hrun hc he => ?_,
    fun e hrun hc he => ?_, fun q hstopped hq => Device.referencePeriod_stopped hstopped hq⟩, fun hstate hsource htime => ?_⟩
  · have hcand := Device.beatCandidates_known (target := target) hahead
    have h := Device.referenceBeat_nearest (tm := tm) hrun (by
      rw [show s.beatCandidates (timeInstant tm) = _ from hcand]
      obtain ⟨i, hi, _⟩ := hahead
      exact List.ne_nil_of_mem hi)
    rw [show s.beatCandidates (timeInstant tm) = _ from hcand] at h
    exact h
  · have hcand := Device.beatCandidates_projected (target := target) hnone hlast
    have h := Device.referenceBeat_nearest (tm := tm) hrun (by rw [show s.beatCandidates (timeInstant tm) = _ from hcand]; simp)
    rw [show s.beatCandidates (timeInstant tm) = _ from hcand] at h
    exact h
  · have htb : tb = nearestPrediction m q target := Device.referenceBeat_predicted hstopped hm hq
    rw [htb]
    exact nearestPrediction_nearest hpos hle hbefore
  · show s.referencePeriod = _
    rw [Device.referencePeriod_running hrun, hc]
    exact congrArg (fun x : Option PlanEntry => match x with | some e => e.segValue | none => s.planner.heldPeriod) he
  · show s.referencePeriod = _
    rw [Device.referencePeriod_running hrun, hc]
    exact congrArg (fun x : Option PlanEntry => match x with | some e => e.segValue | none => s.planner.heldPeriod) he
  · have hjudges : ∀ l, (s.toDevice.withArbiter l).beatEdge input =
        if exceedsBeat err width pB then (s.toDevice.withArbiter l).edgeNoted.rejectMark tm err else (s.toDevice.withArbiter l).edgeNoted.acceptMark tm err :=
      fun l => Device.beatEdge_judges (d := s.toDevice.withArbiter l) hstate ⟨hsource, htime⟩ rfl
    have hop : ∀ e, operationOf (.beatMark input) e = e.beatEdge input := fun _ => rfl
    refine ⟨fun hout hfew => ?_, fun hout hfull => ?_, fun m q hin hm hq => ?_⟩
    · rw [exec_eq]
      refine State.act_of_noAccess rfl ?_
      rw [hop, hjudges, if_pos ((exceedsBeat_iff err width pB).mpr hout), Device.rejectMark_few (d := (s.toDevice.withArbiter s.presented).edgeNoted) hfew]
      rfl
    · have hop : operationOf (.beatMark input) s.presenting = s.presenting.edgeNoted.rejectMark tm err := by
        rw [hop, State.presenting, hjudges, if_pos ((exceedsBeat_iff err width pB).mpr hout)]
      have h := Device.rejectMark_holds (d := s.presenting.edgeNoted) hstate hfull tm err
      rw [← hop] at h
      exact ⟨s.noted (operationOf (.beatMark input) s.presenting), exec_noted rfl s, h.follower, h.planner, h.attn, h.writer, h.capture⟩
    · intro i n newP
      have hop : operationOf (.beatMark input) s.presenting = s.presenting.edgeNoted.acceptMark tm err := by
        rw [hop, State.presenting, hjudges, if_neg (by rw [exceedsBeat_iff]; exact Nat.not_lt.mpr hin)]
      have hnew : s.presenting.edgeNoted.nextPeriod tm = newP := Device.nextPeriod_of (d := s.presenting.edgeNoted) hm hq
      have h := s.presenting.edgeNoted.acceptMark_accepts tm err
      rw [← hop, hnew] at h
      refine ⟨s.noted (operationOf (.beatMark input) s.presenting), exec_noted rfl s, h.follower, h.horizon, fun hstopped => ?_, h.pending, h.hard⟩
      rw [h.stopped hstopped]
      exact State.noted_of_same rfl

end Sys2Proof.Machine
end

section
/-! PROOFS. The extension of the plan (R33, R34): when it is due, and the entries it appends. -/
namespace Sys2Proof.Machine

/-! ## When the plan is extended -/

theorem Device.planEnded_iff {d : Device} : d.planEnded = true ↔ ∃ k e, d.planner.latched = some k ∧ d.planner.plan.getLast? = some e ∧ k ≤ e.pi := by
  unfold Device.planEnded
  split
  · next k e hk he => simp [hk, he]
  · next h =>
    exact ⟨fun hf => absurd hf (by decide), fun ⟨k, e, hk, he, _⟩ => absurd he (h k e hk)⟩

theorem Device.belowLimit_iff {d : Device} : d.belowLimit = true ↔ ∀ e, d.planner.plan.getLast? = some e → instDiff e.instant d.limit < 0 := by
  unfold Device.belowLimit
  cases d.planner.plan.getLast? <;> simp

theorem Device.extendDue_iff {d : Device} : d.extendDue = true ↔ d.planner.transport ≠ .stopped ∧ ∀ e, d.planner.plan.getLast? = some e →
    (∀ k, d.planner.latched = some k → e.pi < k) ∧ instDiff e.instant d.limit < 0 := by
  have hopen : (!d.planEnded) = true ↔ ¬ ∃ k e, d.planner.latched = some k ∧ d.planner.plan.getLast? = some e ∧ k ≤ e.pi := by
    rw [Bool.not_eq_true', ← Bool.not_eq_true, Device.planEnded_iff]
  rw [Device.extendDue, Bool.and_eq_true, Bool.and_eq_true, Device.runUnderWay_iff, Device.belowLimit_iff, hopen]
  constructor
  · rintro ⟨⟨hrun, hended⟩, hlimit⟩
    exact ⟨hrun, fun e he => ⟨fun k hk => Nat.lt_of_not_le fun hle => hended ⟨k, e, hk, he, hle⟩, hlimit e he⟩⟩
  · rintro ⟨hrun, h⟩
    refine ⟨⟨hrun, ?_⟩, fun e he => (h e he).2⟩
    rintro ⟨k, e, hk, he, hle⟩
    exact absurd ((h e he).1 k hk) (Nat.not_lt.mpr hle)

theorem Device.lmax_congr {d e : Device} (hstate : ∀ p, (e.port p).state = (d.port p).state) (hsettings : ∀ p, (e.port p).settings = (d.port p).settings) :
    e.lmax = d.lmax := by
  simp only [Device.lmax, hstate, hsettings]

theorem Device.extendDue_congr {d e : Device} (hplanner : e.planner = d.planner) (htime : e.time = d.time) (hstate : ∀ p, (e.port p).state = (d.port p).state)
    (hsettings : ∀ p, (e.port p).settings = (d.port p).settings) : e.extendDue = d.extendDue := by
  have hlimit : e.limit = d.limit := by rw [Device.limit, Device.limit, htime, Device.lmax_congr hstate hsettings]
  rw [Bool.eq_iff_iff, Device.extendDue_iff, Device.extendDue_iff, hplanner, hlimit]

theorem Device.extend_idle {d : Device} (h : d.extendDue = false) : d.extend = d := by
  unfold Device.extend
  rw [if_neg (by simp [h])]

/-! ## Chains of new entries -/

/-- From place k on, each entry of the list is the one planned after the entry before it. -/
def ChainFrom (k : Nat) (l : List PlanEntry) : Prop := ∀ l1 e f l2, l = l1 ++ e :: f :: l2 → k ≤ l1.length + 1 → e.Follows f

theorem chainFrom_length (l : List PlanEntry) : ChainFrom l.length l := by
  intro l1 e f l2 hl hk
  have hlen := congrArg List.length hl
  rw [List.length_append, List.length_cons, List.length_cons] at hlen
  omega

theorem ChainFrom.concat {k : Nat} {l : List PlanEntry} {x : PlanEntry} (h : ChainFrom k l) (hlast : ∀ a, l.getLast? = some a → a.Follows x) :
    ChainFrom k (l ++ [x]) := by
  intro l1 e f l2 hl hk
  rcases List.eq_nil_or_concat l2 with rfl | ⟨l2, y, rfl⟩
  · have hsplit : l ++ [x] = (l1 ++ [e]) ++ [f] := by rw [hl]; simp
    obtain ⟨hl1, hx⟩ := List.append_inj' hsplit rfl
    obtain rfl : x = f := by simpa using hx
    exact hlast e (by rw [hl1]; simp)
  · have hsplit : l ++ [x] = (l1 ++ e :: f :: l2) ++ [y] := by rw [hl]; simp
    exact h l1 e f l2 (List.append_inj' hsplit rfl).1 hk

/-! ## The entries an extension appends -/

/-- The plan of d with the entries l appended : of which a stop entry is latched. -/
structure Device.Appended (d e : Device) (l : List PlanEntry) : Prop where
  plan : e.planner.plan = d.planner.plan ++ l
  stops : ∀ x ∈ l, x.stop = true → e.planner.latched = some x.pi ∧ e.planner.transport = .stopping
  runsOn : (∀ x ∈ l, x.stop = false) → e.planner.latched = d.planner.latched ∧ e.planner.transport = d.planner.transport

theorem Device.Appended.none (d : Device) : d.Appended d [] :=
  ⟨by simp, fun _ hx => absurd hx List.not_mem_nil, fun _ => ⟨rfl, rfl⟩⟩

/-- A planned pulse is appended, and the latched stop follows from it. -/
theorem Device.planPulse_some {d : Device} {b : PlanBase} (h : d.planBase = some b) :
    d.planPulse.planner.plan = d.planner.plan ++ [d.buildEntry b] ∧
      ((d.buildEntry b).stop = false → d.planPulse.planner.latched = d.planner.latched ∧ d.planPulse.planner.transport = d.planner.transport) ∧
      ((d.buildEntry b).stop = true → d.planPulse.planner.latched = some (d.buildEntry b).pi ∧ d.planPulse.planner.transport = .stopping) := by
  have hset : ∀ e : Device, (e.setTransport .stopping).planner = { e.planner with transport := .stopping } := fun e => by
    unfold Device.setTransport
    split
    · next h => rw [← h]
    · rw [Device.requestStatus_planner, Device.latch_planner]
  have hpulse : d.planPulse = d.appendEntry (d.buildEntry b) := by
    unfold Device.planPulse
    rw [h]
  rw [hpulse]
  generalize d.buildEntry b = e
  unfold Device.appendEntry
  cases e.stop with
  | false => exact ⟨rfl, fun _ => ⟨rfl, rfl⟩, fun hf => absurd hf (by decide)⟩
  | true =>
    refine ⟨?_, fun hf => absurd hf (by decide), fun _ => ⟨?_, ?_⟩⟩ <;>
      simp only [if_true, Device.latchStop, hset]

theorem Device.planPulse_none {d : Device} (h : d.planBase = none) : d.planPulse = d := by
  unfold Device.planPulse
  rw [h]

theorem Device.planBase_of_concat {d : Device} {l : List PlanEntry} {x : PlanEntry} (h : d.planner.plan = l ++ [x]) : d.planBase = some (PlanBase.after x) :=
  Device.planBase_last (by rw [h]; simp)

/-- The new pulse follows the tail. -/
theorem Device.buildEntry_followsTail {d : Device} {b : PlanBase} (h : d.planBase = some b) {a : PlanEntry} (ha : d.planner.plan.getLast? = some a) :
    a.Follows (d.buildEntry b) := by
  rw [Device.planBase_last ha] at h
  obtain rfl := Option.some.inj h
  exact d.buildEntry_follows a

theorem Device.extendDue_ended {d : Device} {k : Nat} {e : PlanEntry} (hk : d.planner.latched = some k) (he : d.planner.plan.getLast? = some e) (hle : k ≤ e.pi) :
    d.extendDue = false := by
  rw [Bool.eq_false_iff, ne_eq, Device.extendDue_iff]
  rintro ⟨_, h⟩
  exact absurd ((h e he).1 k hk) (Nat.not_lt.mpr hle)

theorem Device.extendLoop_idle {d : Device} (h : d.extendDue = false) : ∀ n, Device.extendLoop n d = d
  | 0 => rfl
  | n + 1 => by rw [Device.extendLoop, if_neg (by simp [h])]

theorem Device.Appended.cons {d e : Device} {b : PlanBase} {l : List PlanEntry} (hb : d.planBase = some b) (hgo : (d.buildEntry b).stop = false)
    (h : d.planPulse.Appended e l) : d.Appended e (d.buildEntry b :: l) := by
  obtain ⟨hplan, hsame, _⟩ := Device.planPulse_some hb
  obtain ⟨hlatched, htransport⟩ := hsame hgo
  refine ⟨by rw [h.plan, hplan]; simp, fun x hx hstop => ?_, fun hall => ?_⟩
  · rcases List.mem_cons.mp hx with rfl | hx
    · rw [hgo] at hstop
      cases hstop
    · exact h.stops x hx hstop
  · obtain ⟨hl, ht⟩ := h.runsOn fun x hx => hall x (List.mem_cons_of_mem _ hx)
    exact ⟨hl.trans hlatched, ht.trans htransport⟩

/-- A pulse that ends the run is the last one appended. -/
theorem Device.planPulse_stop {d : Device} {b : PlanBase} (hb : d.planBase = some b) (hstop : (d.buildEntry b).stop = true) :
    d.Appended d.planPulse [d.buildEntry b] ∧ d.planPulse.extendDue = false := by
  obtain ⟨hplan, _, hlatches⟩ := Device.planPulse_some hb
  obtain ⟨hlatched, htransport⟩ := hlatches hstop
  refine ⟨⟨hplan, fun x hx _ => ?_, fun hall => ?_⟩, Device.extendDue_ended hlatched (by rw [hplan]; simp) (Nat.le_refl _)⟩
  · rw [List.mem_singleton.mp hx]
    exact ⟨hlatched, htransport⟩
  · rw [hall _ (List.mem_singleton_self _)] at hstop
    cases hstop

/-- The loop appends until the plan reaches the limit, or as many entries as it has turns. -/
theorem Device.extendLoop_appended : ∀ (n : Nat) (d : Device), ∃ l, d.Appended (Device.extendLoop n d) l ∧
    (d.planBase.isSome = true → (d.extendDue = true → n ≠ 0 → l ≠ []) ∧ ((Device.extendLoop n d).extendDue = false ∨ l.length = n))
  | 0, d => ⟨[], .none d, fun _ => ⟨fun _ h => absurd rfl h, Or.inr rfl⟩⟩
  | n + 1, d => by
    by_cases hdue : d.extendDue = true
    · rw [Device.extendLoop, if_pos hdue]
      cases hb : d.planBase with
      | none =>
        obtain ⟨l, hl, _⟩ := Device.extendLoop_appended n d
        exact ⟨l, by rw [Device.planPulse_none hb]; exact hl, fun hf => absurd hf (by simp)⟩
      | some b =>
        cases hstop : (d.buildEntry b).stop with
        | true =>
          obtain ⟨happ, hended⟩ := Device.planPulse_stop hb hstop
          rw [Device.extendLoop_idle hended]
          exact ⟨_, happ, fun _ => ⟨fun _ _ => List.cons_ne_nil _ _, Or.inl hended⟩⟩
        | false =>
          obtain ⟨l, hl, hlen⟩ := Device.extendLoop_appended n d.planPulse
          refine ⟨_, hl.cons hb hstop, fun _ => ⟨fun _ _ => List.cons_ne_nil _ _, ?_⟩⟩
          have hbase : d.planPulse.planBase.isSome = true := by
            rw [Device.planBase_of_concat (Device.planPulse_some hb).1]
            rfl
          exact (hlen hbase).2.imp id fun h => by rw [List.length_cons, h]
    · rw [Device.extendLoop, if_neg hdue]
      exact ⟨[], .none d, fun _ => ⟨fun h => absurd h hdue, Or.inl (by simpa using hdue)⟩⟩

theorem ChainFrom.planPulse {k : Nat} {d : Device} (h : ChainFrom k d.planner.plan) : ChainFrom k d.planPulse.planner.plan := by
  cases hb : d.planBase with
  | none => rw [Device.planPulse_none hb]; exact h
  | some b =>
    rw [(Device.planPulse_some hb).1]
    exact h.concat fun _ ha => Device.buildEntry_followsTail hb ha

theorem ChainFrom.extendLoop {k : Nat} : ∀ (n : Nat) {d : Device}, ChainFrom k d.planner.plan → ChainFrom k (Device.extendLoop n d).planner.plan
  | 0, _, h => h
  | n + 1, d, h => by
    rw [Device.extendLoop]
    split
    · exact ChainFrom.extendLoop n h.planPulse
    · exact h

theorem Device.moveGlobals_planner (d : Device) : d.moveGlobals.planner = d.planner := (Keeps.moveGlobals (n := 3) d).planner (Nat.le_refl _)

theorem Device.afterPlan_planner (d : Device) (lo : Nat) : (d.afterPlan lo).planner = d.planner := (Keeps.afterPlan (n := 3) d lo).planner (Nat.le_refl _)

theorem Replans.extendDue {d e : Device} (h : Replans d e) (hplanner : e.planner = d.planner) (htime : e.time = d.time) : e.extendDue = d.extendDue :=
  Device.extendDue_congr hplanner htime (fun p => (congrArg Port.state (h.ports p) :)) (fun p => (congrArg Port.settings (h.ports p) :))

theorem Device.planBase_congr {d e : Device} (h : e.planner = d.planner) : e.planBase = d.planBase := by
  rw [Device.planBase, Device.planBase, h]

/-- What an extension that is due appends. -/
theorem Device.extend_appended {d : Device} (h : d.extendDue = true) : ∃ l, d.Appended d.extend l ∧ ChainFrom d.planner.plan.length d.extend.planner.plan ∧
    (d.planBase.isSome = true → l ≠ [] ∧ (d.extend.extendDue = false ∨ l.length = 256)) := by
  have hmoved : d.moveGlobals.planner = d.planner := d.moveGlobals_planner
  have hafter := (Device.extendLoop 256 d.moveGlobals).afterPlan_planner d.nextPlanned
  have hdue : d.moveGlobals.extendDue = true := by rw [(Replans.moveGlobals d).extendDue hmoved (Keeps.moveGlobals (n := 0) d).time]; exact h
  obtain ⟨l, happ, hgrows⟩ := Device.extendLoop_appended 256 d.moveGlobals
  have hchain : ChainFrom d.planner.plan.length (Device.extendLoop 256 d.moveGlobals).planner.plan :=
    ChainFrom.extendLoop 256 (by rw [hmoved]; exact chainFrom_length _)
  have hextend : d.extend = (Device.extendLoop 256 d.moveGlobals).afterPlan d.nextPlanned := by
    unfold Device.extend
    rw [if_pos h]
  have hended := (Replans.afterPlan (Device.extendLoop 256 d.moveGlobals) d.nextPlanned).extendDue hafter (Keeps.afterPlan (n := 0) _ _).time
  rw [hextend]
  refine ⟨l, ⟨?_, ?_, ?_⟩, by rw [hafter]; exact hchain, fun hbase => ?_⟩
  · rw [hafter, happ.plan, hmoved]
  · rw [hafter]
    exact happ.stops
  · rw [hafter, ← hmoved]
    exact happ.runsOn
  · obtain ⟨hne, hlen⟩ := hgrows (by rw [Device.planBase_congr hmoved]; exact hbase)
    exact ⟨hne hdue (by decide), by rw [hended]; exact hlen⟩

/-- Settles O39: the loop of the extension appends a chain of entries until the limit, and nothing else of the timeline changes. -/
theorem planExtension : Obligations.PlanExtension := by
  intro s
  refine ⟨Device.extendDue_iff, fun h => exec_of_noEffect rfl (Device.extend_idle (d := s.presenting) h), fun h => ?_⟩
  obtain ⟨l, happ, hchain, hgrows⟩ := Device.extend_appended (d := s.presenting) h
  have hplans := Replans.extend s.presenting
  have hkeeps := Keeps.extend s.presenting
  exact ⟨s.noted s.presenting.extend, l, exec_noted rfl s, happ.plan, hgrows, hchain, happ.stops, happ.runsOn, hplans.horizon, hplans.cursor, hplans.anchor,
    hplans.history, hkeeps.time, hkeeps.follower (Nat.le_refl _), hkeeps.mode (Nat.le_refl _), hkeeps.service (Nat.le_refl _), hkeeps.house (Nat.le_refl _)⟩

end Sys2Proof.Machine
end

section
/-! PROOFS. The notice list and the sweep (R83, R84, R160). A status write under way and the accesses served ahead are left by every take, so that a sweep of several visits is as many sweeps of one. -/
namespace Sys2Proof.Machine

/-! ## Takes give up no status write -/

theorem Local.steady {p : PortIx} {d e : Device} (h : Local p d e) : Steady d e := h.toSteady

theorem Steady.finishSlot (d : Device) (n st : Nat) (r : Result) : Steady d (d.finishSlot n st r) := (Local.finishSlot 0 d n st r).steady

theorem Steady.refuse (d : Device) (n : Nat) (r : Reason) : Steady d (d.refuse n r) := by
  unfold Device.refuse
  exact .finishSlot _ _ _ _

theorem Steady.poke (d : Device) (a n v : Nat) : Steady d (d.poke a n v) := (Local.poke 0 d a n v).steady

theorem Steady.endCue (d : Device) (c : Cue) (st : Nat) (r : Reason) (k : Nat) (t : Time) : Steady d (d.endCue c st r k t) := (Local.endCue 0 d c st r k t).steady

theorem Steady.replan (d : Device) : Steady d d.replan := (Replans.replan d).toSteady

theorem Steady.extend (d : Device) : Steady d d.extend := (Replans.extend d).toSteady

theorem Steady.setTransport (d : Device) (t : Transport) : Steady d (d.setTransport t) := by
  unfold Device.setTransport
  exact .ite (.refl d) (Steady.requestStatus _).after

theorem Steady.setFollower (d : Device) (st : FollowerState) : Steady d (d.setFollower st) := by
  unfold Device.setFollower
  exact .ite (.refl d) (Steady.requestStatus _).after

theorem Steady.cancelSlot (d : Device) (r : Reason) (n : Nat) : Steady d (d.cancelSlot r n) := by
  unfold Device.cancelSlot
  split
  · exact .refl d
  · exact (Steady.endCue _ _ _ _ _ _).after
  · exact (Steady.modPort d _ _).trans (.endCue _ _ _ _ _ _)
  · split
    · exact .refl d
    · exact (Steady.modPort d _ _).trans (.endCue _ _ _ _ _ _)

theorem Steady.cancelSlots (d : Device) (r : Reason) (l : List Nat) : Steady d (d.cancelSlots r l) := .foldl (fun d n => .cancelSlot d r n) _ d

theorem Steady.pumpAll (d : Device) : Steady d d.pumpAll := .eachPort (fun d p => (Local.pump p d).steady) d

theorem Steady.cancelCues (d : Device) (r : Reason) (l : List Nat) : Steady d (d.cancelCues r l) := by
  unfold Device.cancelCues
  exact (Steady.trans (.cancelSlots d r l) (.ite (.replan _) (.refl _))).trans (.pumpAll _)

theorem Steady.scheduleGlobal (d : Device) (n : Nat) (q : BitVec 32) (b : CueBody) (cl : Bool) : Steady d (d.scheduleGlobal n q b cl) := by
  unfold Device.scheduleGlobal Device.enterGlobal
  exact (((Local.writeProgress 0 _ _ _).steady.after.trans (Replans.moveWaiting _).toSteady).trans (Local.showHeld 0 _ _).steady).trans (Replans.replanFor _ _).toSteady

theorem Steady.beginPort (o : Opening) (d : Device) (p : PortIx) : Steady d (Device.beginPort o d p) := by
  have hreform : ∀ e : Device, Steady e (e.reform p o) := fun e => by
    unfold Device.reform
    split
    · exact .ite (.ite (.modPort e p _) (.refl e)) (Local.takeForm p e _).steady
    · exact (Local.takeForm p e _).steady
    · exact .refl e
  unfold Device.beginPort
  dsimp only
  split
  · exact (Steady.modPort d p _).trans (Local.takeForm p _ _).steady
  · exact (Steady.modPort d p _).trans (hreform _)
  · exact (Steady.modPort d p _).trans (hreform _)
  · exact .modPort d p _

theorem Steady.judgeAll (d : Device) (first : Nat) : Steady d (d.judgeAll first) :=
  .foldl (fun d n => .foldl (fun d p => (Local.judgeAtStart p d first n).steady) allPorts d) _ d

theorem Steady.beginRun (d : Device) (o : Opening) : Steady d (d.beginRun o) := by
  unfold Device.beginRun
  exact ((((((Steady.setTransport _ _).after).trans (Replans.moveGlobals _).toSteady).trans (Replans.planPulse _).toSteady).trans (.extend _)).trans
    (.eachPort (Steady.beginPort o) _)).trans (.judgeAll _ _)

theorem Steady.enter (d : Device) (p : PortIx) : Steady d (d.enter p) := by
  unfold Device.enter
  split
  · exact ((Local.setState p d _).steady.trans (.extend _)).trans (Local.chooseFirst p _).steady
  · exact (((Local.setState p d _).steady.trans (.extend _)).trans (Local.levelJoin p _).steady).trans (Local.firstFrame p _).steady
  · exact (Local.dropTo p d _).steady

theorem Steady.freshJoin (d : Device) (p : PortIx) : Steady d (d.freshJoin p) := by
  unfold Device.freshJoin
  split
  · exact ((((Local.latch p d _).trans (.requestStatus p _)).steady).trans (.extend _)).trans (Local.levelJoin p _).steady
  · have h := ((Local.modPort p d Port.unjoined).trans (.setState p _ .acquiring)).trans (.skipFlights p _ (d.port p).step.queue)
    refine Steady.trans ?_ ((Steady.extend _).trans (Local.chooseFirst p _).steady)
    exact (Local.ite (h.trans ((Local.queueChar p _ _).trans (.pump p _))) h).steady

theorem Steady.changeKind (d : Device) (p : PortIx) (new : Settings) : Steady d (d.changeKind p new) := by
  have h := ((Steady.cancelSlots d .portSetup (d.heldOfPort p)).trans (.modPort _ p fun x => ((x.stopped true d.time).clearedFlaps new).newKind new)).trans (Local.pump p _).steady
  exact .ite h (h.trans (((Local.setState p _ _).trans (.latch p _ _)).steady.trans (.enter _ _)))

theorem Steady.applySetup (d : Device) (p : PortIx) (new : Settings) : Steady d (d.applySetup p new) := by
  have h : ∀ f, Steady d (d.modPort p f) := fun f => .modPort d p f
  refine .ite (h _) (.ite (.changeKind d p new) (.ite ((h _).trans (.enter _ _)) (.ite ((h _).trans (Local.dropTo p _ _).steady)
    (.ite ((h _).trans (.freshJoin _ _)) (.ite ((h _).trans ((Steady.extend _).trans (Local.chooseAgain p _).steady)) (h _))))))

theorem Steady.amendTarget (d : Device) (n : Nat) : Steady d (d.amendTarget n) := by
  unfold Device.amendTarget
  split
  · unfold Device.amendGlobal Device.enterGlobal
    have h : ∀ c g, Steady d ((({ d with globals := g } : Device).writeProgress c c.due).moveWaiting) := fun c g =>
      ((Local.writeProgress 0 _ _ _).steady.after).trans (Replans.moveWaiting _).toSteady
    exact .ite ((h _ _).trans (.replan _)) (h _ _)
  · exact ((Local.modPort _ d _).trans (.judge _ _ _)).steady
  · exact .refl d

theorem Steady.setupFollower (d : Device) (g : FollowSettings) : Steady d (d.setupFollower g) := by
  unfold Device.setupFollower
  dsimp only
  split
  · exact (Steady.setFollower _ _).after
  split
  · exact (Steady.setFollower _ _).after
  split
  · exact (Steady.setFollower _ _).after
  split
  · exact (Steady.setFollower _ _).after
  · exact .of_eq rfl rfl

theorem Steady.takePortCue (b : CueBody) (n : Nat) (q : BitVec 32) (d : Device) : Steady d (Device.takePortCue b n q d) := by
  unfold Device.takePortCue
  split
  · exact ((Local.judge _ d _).trans (.showHeld _ _ _)).steady
  · exact .finishSlot _ _ _ _

theorem Steady.done {d e : Device} (h : Steady d e) (n : Nat) (r : Result) : Steady d (e.done n r) := by
  unfold Device.done
  exact h.trans (.finishSlot _ _ _ _)

theorem Steady.firedAtOnce {d e : Device} (h : Steady d e) (n k : Nat) (c : Bool) : Steady d (e.firedAtOnce n k c) := by
  unfold Device.firedAtOnce
  exact h.trans (.finishSlot _ _ _ _)

theorem Steady.withService (d : Device) (x : Service) : Steady d { d with service := x } := .of_eq rfl rfl

theorem Steady.withKeepPending (d : Device) (x : Option (Bool × Nat)) : Steady d { d with keepPending := x } := .of_eq rfl rfl

theorem Steady.withHouse (d : Device) (x : Levels) : Steady d { d with house := x } := .of_eq rfl rfl

theorem Steady.withHeldPeriod (d : Device) (k : Nat) : Steady d { d with planner := { d.planner with heldPeriod := k } } := .of_eq rfl rfl

theorem Steady.takeTempo (n : Nat) (q : BitVec 32) (d : Device) : Steady d (Device.takeTempo n q d) := by
  unfold Device.takeTempo Device.holdTempo
  exact .ite ((Steady.withHeldPeriod d _).firedAtOnce _ _ _) (.scheduleGlobal _ _ _ _ _)

theorem Steady.takeMeter (n : Nat) (q : BitVec 32) (d : Device) : Steady d (Device.takeMeter n q d) := by
  unfold Device.takeMeter
  exact .scheduleGlobal _ _ _ _ _

theorem Steady.takeStop (n : Nat) (q : BitVec 32) (d : Device) : Steady d (Device.takeStop n q d) := by
  unfold Device.takeStop
  exact .scheduleGlobal _ _ _ _ _

theorem Steady.takeStart (n : Nat) (q : BitVec 32) (d : Device) : Steady d (Device.takeStart n q d) := by
  unfold Device.takeStart
  exact (Steady.beginRun d _).firedAtOnce _ _ _

theorem Steady.takeContinue (n : Nat) (q : BitVec 32) (d : Device) : Steady d (Device.takeContinue n q d) := by
  unfold Device.takeContinue
  split
  · exact (Steady.beginRun d _).firedAtOnce _ _ _
  · exact .refuse _ _ _

theorem Steady.takeSceneHouse (n : Nat) (q : BitVec 32) (d : Device) : Steady d (Device.takeSceneHouse n q d) := by
  unfold Device.takeSceneHouse
  exact ((Local.copyLevels 0 d _).steady.trans (.withHouse _ _)).done _ _

theorem Steady.takeCancelSlot (n : Nat) (q : BitVec 32) (d : Device) : Steady d (Device.takeCancelSlot n q d) := by
  unfold Device.takeCancelSlot
  split
  · exact .refuse _ _ _
  · exact (Steady.cancelCues d _ _).done _ _

theorem Steady.takeCancelSelector (n : Nat) (q : BitVec 32) (d : Device) : Steady d (Device.takeCancelSelector n q d) := by
  unfold Device.takeCancelSelector
  exact (Steady.cancelCues d _ _).done _ _

theorem Steady.takeAmend (n : Nat) (q : BitVec 32) (d : Device) : Steady d (Device.takeAmend n q d) := by
  unfold Device.takeAmend
  split
  · exact .refuse _ _ _
  · exact (Steady.amendTarget d n).done _ _

theorem Steady.takeReport (n : Nat) (q : BitVec 32) (d : Device) : Steady d (Device.takeReport n q d) := by
  unfold Device.takeReport Device.writeReport
  exact ((Steady.poke d _ _ _).trans (.foldl (fun d i => .poke d _ _ _) _ _)).done _ _

theorem Steady.takePortSetup (n : Nat) (q : BitVec 32) (d : Device) : Steady d (Device.takePortSetup n q d) := by
  unfold Device.takePortSetup
  split
  · exact (Steady.applySetup d _ _).done _ _
  · exact .refuse _ _ _

theorem Steady.takeFollowSetup (n : Nat) (q : BitVec 32) (d : Device) : Steady d (Device.takeFollowSetup n q d) := by
  unfold Device.takeFollowSetup
  exact (Steady.setupFollower d _).done _ _

theorem Steady.takeSupervise (n : Nat) (q : BitVec 32) (d : Device) : Steady d (Device.takeSupervise n q d) := by
  unfold Device.takeSupervise
  exact (Steady.withService d _).done _ _

theorem Steady.takeKeep (n : Nat) (q : BitVec 32) (d : Device) : Steady d (Device.takeKeep n q d) := by
  unfold Device.takeKeep
  exact (Steady.withKeepPending d _).done _ _

theorem Steady.effect (row : TakeRow) (n : Nat) (q : BitVec 32) (d : Device) : Steady d (row.effect n q d) := by
  cases row with
  | badKind => exact .refuse d n .badKind
  | tempo => exact .takeTempo n q d
  | meter => exact .takeMeter n q d
  | transportStart => exact .takeStart n q d
  | transportContinue => exact .takeContinue n q d
  | transportStop => exact .takeStop n q d
  | send => exact .takePortCue _ n q d
  | portRun => exact .takePortCue _ n q d
  | scene => exact .takePortCue _ n q d
  | sceneHouse => exact .takeSceneHouse n q d
  | cancelBySlot => exact .takeCancelSlot n q d
  | cancelBySelector => exact .takeCancelSelector n q d
  | amend => exact .takeAmend n q d
  | report => exact .takeReport n q d
  | portSetup => exact .takePortSetup n q d
  | followSetup => exact .takeFollowSetup n q d
  | supervise => exact .takeSupervise n q d
  | keep => exact .takeKeep n q d

theorem Steady.advance (d : Device) : Steady d d.advance := by
  have hcheck : ∀ e : Device, Steady e e.checkOverflow := fun e => .ite (Steady.requestStatus _).after (.refl e)
  unfold Device.advance
  split
  · exact .ite (.of_eq rfl rfl) (hcheck _).after
  · exact (hcheck _).after

theorem Steady.runTake (d : Device) (n : Nat) (row : TakeRow) (q : BitVec 32) : Steady d (d.runTake n (row.effect n q)) := by
  have hbegun : Steady d (d.beginTake n) := (Steady.advance d).trans (.of_eq rfl rfl)
  have hread : Steady d (d.readRecord n) := (hbegun.trans (.pass _)).trans (.pass _)
  unfold Device.runTake
  split
  · exact hread.trans (.refuse _ _ _)
  · exact hread.trans (.effect _ _ _ _)

theorem Steady.visit (d : Device) : Steady d d.visit := by
  unfold Device.visit
  split
  · exact .ite (.runTake _ _ _ _) (.advance d)
  · exact .refl d

/-! ## A notice that is discarded, a slot that is passed over -/

theorem NoAccess.checkOverflow : NoAccess Device.checkOverflow := by
  intro d l
  unfold Device.checkOverflow
  by_cases h : d.notices = [] ∧ d.overflow = true
  · rw [if_pos h, if_pos (show (d.withArbiter l).notices = [] ∧ (d.withArbiter l).overflow = true from h)]
    exact NoAccess.requestStatus { d with sweep := .visiting 0, overflow := false } l
  · rw [if_neg h, if_neg (show ¬ ((d.withArbiter l).notices = [] ∧ (d.withArbiter l).overflow = true) from h)]

theorem Device.advance_listed {d : Device} (h : d.sweep = .none) : d.advance = ({ d with notices := d.notices.tail } : Device).checkOverflow := by
  unfold Device.advance
  rw [h]

theorem Device.advance_visiting {d : Device} {n : Nat} (h : d.sweep = .visiting n) :
    d.advance = if n < 511 then { d with sweep := .visiting (n + 1) } else ({ d with sweep := .none } : Device).checkOverflow := by
  unfold Device.advance
  rw [h]
  by_cases hn : n < 511
  · rw [if_pos hn]
    exact if_pos (by omega)
  · rw [if_neg hn]
    exact if_neg (by omega)

theorem NoAccess.advance : NoAccess Device.advance := by
  intro d l
  cases h : d.sweep with
  | none =>
    rw [Device.advance_listed h, Device.advance_listed (d := d.withArbiter l) h]
    exact NoAccess.checkOverflow { d with notices := d.notices.tail } l
  | visiting n =>
    rw [Device.advance_visiting h, Device.advance_visiting (d := d.withArbiter l) h]
    split
    · rfl
    · exact NoAccess.checkOverflow { d with sweep := .none } l

theorem Device.checkOverflow_none {d : Device} (h : ¬ (d.notices = [] ∧ d.overflow = true)) : d.checkOverflow = d := if_neg h

theorem Device.checkOverflow_sweeps {d : Device} (h : d.notices = [] ∧ d.overflow = true) :
    d.checkOverflow = ({ d with sweep := .visiting 0, overflow := false } : Device).requestStatus := if_pos h

theorem Device.discardNotice_stale {d : Device} {n : Nat} {rest : List Nat} (hsweep : d.sweep = .none) (hnotices : d.notices = n :: rest)
    (hstate : d.slotState n ≠ stPosted) : d.discardNotice = d.advance := by
  unfold Device.discardNotice
  rw [hsweep, hnotices]
  exact if_neg hstate

theorem exec_noticeDiscarded {s : State} {n : Nat} {rest : List Nat} (hsweep : s.sweep = .none) (hnotices : s.notices = n :: rest)
    (hstate : s.slotState n ≠ stPosted) : exec .noticeDiscarded s = .next { s with toDevice := ({ s.toDevice with notices := rest } : Device).checkOverflow } := by
  have hadvance : s.toDevice.advance = ({ s.toDevice with notices := rest } : Device).checkOverflow := by
    rw [Device.advance_listed hsweep, hnotices]
    rfl
  rw [exec_eq, ← hadvance]
  exact State.act_of_noAccess (NoAccess.advance.arbiter _)
    ((Device.discardNotice_stale (d := s.toDevice.withArbiter s.presented) hsweep hnotices hstate).trans (NoAccess.advance _ _))

theorem Device.visit_passes {d : Device} {n : Nat} (hsweep : d.sweep = .visiting n) (hstate : d.slotState n ≠ stPosted) : d.visit = d.advance := by
  unfold Device.visit
  rw [hsweep]
  exact if_neg hstate

theorem Device.visit_takes {d : Device} {n : Nat} (hsweep : d.sweep = .visiting n) (hstate : d.slotState n = stPosted) :
    d.visit = d.takeNext (d.takeRow n) (d.takeRow n).effect := by
  have htakes : d.takes (d.takeRow n) = some n := Device.takes_of (by rw [Device.nextSlot, hsweep]) hstate rfl
  unfold Device.visit Device.takeNext
  rw [hsweep, htakes]
  exact if_pos hstate

theorem exec_sweep_passes {s : State} {n : Nat} (hsweep : s.sweep = .visiting n) (hstate : s.slotState n ≠ stPosted) :
    exec (.sweep 1) s = .next { s with toDevice := s.toDevice.advance } := by
  rw [exec_eq]
  exact State.act_of_noAccess (NoAccess.advance.arbiter _)
    ((Device.visit_passes (d := s.toDevice.withArbiter s.presented) hsweep hstate).trans (NoAccess.advance _ _))

/-! ## Several visits -/

theorem Device.advance_arbiter (d : Device) : d.advance.arbiter = d.arbiter := NoAccess.advance.arbiter d

theorem Device.runTake_arbiter {d : Device} (h : d.arbiter = []) (n : Nat) (row : TakeRow) (q : BitVec 32) : (d.runTake n (row.effect n q)).arbiter = [] := by
  have hread : (d.readRecord n).arbiter = [] := by
    rw [Device.readRecord_quiet h, Device.beginTake_arbiter]
    exact h
  unfold Device.runTake
  split
  · exact Device.finishSlot_arbiter hread _ _ _
  · exact row.effect_arbiter n q hread

theorem Device.visit_arbiter {d : Device} (h : d.arbiter = []) : d.visit.arbiter = [] := by
  unfold Device.visit
  split
  · split
    · exact Device.runTake_arbiter h _ _ _
    · rw [Device.advance_arbiter]
      exact h
  · exact h

theorem Device.visits_arbiter : ∀ (n : Nat) {d : Device}, d.arbiter = [] → (Device.visits n d).arbiter = []
  | 0, _, h => h
  | n + 1, _, h => Device.visits_arbiter n (Device.visit_arbiter h)

/-- How many host accesses stand at the front of a queue does not depend on their free choices. -/
theorem hostAhead_length : ∀ (q : List Instr) (i j : Nat), (hostAhead i q).length = (hostAhead j q).length
  | [], _, _ => rfl
  | c :: q, i, j => by
    cases c <;> simp [hostAhead, waitingOf, hostAhead_length q (i + 1) (j + 1)]

theorem State.Quiet.after {s : State} (h : s.Quiet) {e : Device} (harbiter : e.arbiter = []) (hahead : e.ahead = s.ahead) :
    ({ s with toDevice := e } : State).Quiet := by
  refine ⟨?_, harbiter⟩
  have hnone : (hostAhead s.turns s.pending).length ≤ s.ahead := List.drop_eq_nil_iff.mp h.1
  show (hostAhead e.turns s.pending).drop e.ahead = []
  rw [List.drop_eq_nil_iff, hahead, hostAhead_length s.pending e.turns s.turns]
  exact hnone

theorem exec_sweep_quiet {s : State} (h : s.Quiet) (n : Nat) : exec (.sweep n) s = .next { s with toDevice := Device.visits n s.toDevice } :=
  exec_of_quiet h rfl (Device.visits_arbiter n h.idle)

/-- Settles O19: a notice or a visit moves on or takes, and the visits of a sweep follow one another. -/
theorem noticesAndSweep : Obligations.NoticesAndSweep := by
  intro s
  refine ⟨fun n rest hsweep hnotices hstate hno => ?_, fun n hsweep hnotices hstate hover => ?_, fun n hsweep hn hstate => ?_, fun hsweep hstate hno => ?_,
    fun hsweep hstate hnotices hover => ?_, fun n hsweep hstate => ?_, fun n t hquiet hexec => ?_⟩
  · rw [exec_noticeDiscarded hsweep hnotices hstate, Device.checkOverflow_none (d := { s.toDevice with notices := rest }) hno]
  · rw [exec_noticeDiscarded hsweep hnotices hstate, Device.checkOverflow_sweeps (d := { s.toDevice with notices := [] }) ⟨rfl, hover⟩]
  · rw [exec_sweep_passes hsweep hstate, Device.advance_visiting hsweep, if_pos hn]
  · rw [exec_sweep_passes hsweep hstate, Device.advance_visiting hsweep, if_neg (by decide), Device.checkOverflow_none (d := { s.toDevice with sweep := .none }) hno]
  · rw [exec_sweep_passes hsweep hstate, Device.advance_visiting hsweep, if_neg (by decide),
      Device.checkOverflow_sweeps (d := { s.toDevice with sweep := .none }) ⟨hnotices, hover⟩]
  · have hvisit : operationOf (.sweep 1) s.presenting = operationOf (s.takeRow n).command s.presenting := by
      rw [operationOf_command]
      exact Device.visit_takes (d := s.presenting) hsweep hstate
    rw [exec_noted rfl, exec_noted (s.takeRow n).command_alone, hvisit]
  · rw [exec_sweep_quiet hquiet] at hexec
    obtain rfl : _ = t := by injection hexec
    have hafter : ({ s with toDevice := Device.visits 1 s.toDevice } : State).Quiet :=
      hquiet.after (Device.visits_arbiter 1 hquiet.idle) (Steady.visit s.toDevice).ahead
    rw [exec_sweep_quiet hquiet, exec_sweep_quiet hafter]
    rfl

end Sys2Proof.Machine
end

section
/-! PROOFS. Cancelling HELD cues (R102 to R105): what ending one HELD cue shows in its slot and leaves of the rest, and what ending many of them leaves HELD. -/
namespace Sys2Proof.Machine

/-! ## What ending HELD cues leaves as it was -/

/-- HELD cues have been ended: only the memory, the protection flags, the status page's sequence number, the causes and the lists they stood in have changed, with an ABORT owed where a message was cut. -/
structure Cancels (d e : Device) : Prop where
  frame : e = { d with mem := e.mem, prot := e.prot, seq := e.seq, attn := e.attn, globals := e.globals, ports := e.ports }
  ports : ∀ p, e.port p = { d.port p with
    cues := (e.port p).cues, step := { (d.port p).step with queue := (e.port p).step.queue, owed := (e.port p).step.owed } }

theorem Cancels.refl (d : Device) : Cancels d d := ⟨rfl, fun _ => rfl⟩

theorem Cancels.trans {d e f : Device} (a : Cancels d e) (b : Cancels e f) : Cancels d f := by
  refine ⟨?_, fun p => ?_⟩
  · have hb := b.frame
    rw [a.frame] at hb
    exact hb
  · have hb := b.ports p
    rw [a.ports p] at hb
    exact hb

theorem Wrote.cancels {d e : Device} (h : Wrote d e) : Cancels d e := by
  have hports : e.ports = d.ports := (congrArg Device.ports h :)
  have hglobals : e.globals = d.globals := (congrArg Device.globals h :)
  refine ⟨?_, fun p => ?_⟩
  · calc e = { d with mem := e.mem, prot := e.prot, seq := e.seq, attn := e.attn } := h
      _ = { d with mem := e.mem, prot := e.prot, seq := e.seq, attn := e.attn, globals := e.globals, ports := e.ports } := by rw [hports, hglobals]
  · have hport : e.port p = d.port p := by unfold Device.port; rw [hports]
    rw [hport]

theorem Cancels.withGlobals (d : Device) (g : List Cue) : Cancels d { d with globals := g } := ⟨rfl, fun _ => rfl⟩

theorem Cancels.modPort {d : Device} {p : PortIx} {f : Port → Port}
    (h : f (d.port p) = { d.port p with
      cues := (f (d.port p)).cues, step := { (d.port p).step with queue := (f (d.port p)).step.queue, owed := (f (d.port p)).step.owed } }) :
    Cancels d (d.modPort p f) := by
  refine ⟨rfl, fun q => ?_⟩
  rw [Device.port_modPort]
  split
  · next hq => rw [hq]; exact h
  · rfl

/-- No two HELD cues have the same slot. -/
def Device.HeldApart (d : Device) : Prop := ∀ place c place' c', d.Stands place c → d.Stands place' c' → c.slot = c'.slot → place = place' ∧ c = c'

theorem eq_of_nodup_map {α β : Type} {f : α → β} : ∀ {l : List α}, (l.map f).Nodup → ∀ {x y : α}, x ∈ l → y ∈ l → f x = f y → x = y
  | a :: l, h, x, y, hx, hy, heq => by
    obtain ⟨hnot, hrest⟩ := List.nodup_cons.mp h
    rcases List.mem_cons.mp hx with rfl | hx'
    · rcases List.mem_cons.mp hy with rfl | hy'
      · rfl
      · exact absurd (heq ▸ List.mem_map_of_mem hy') hnot
    · rcases List.mem_cons.mp hy with rfl | hy'
      · exact absurd (heq ▸ List.mem_map_of_mem hx') hnot
      · exact eq_of_nodup_map hrest hx' hy' heq

theorem Device.heldApart_of_nodup {d : Device} (h : d.heldSlots.Nodup) : d.HeldApart := by
  intro place c place' c' hc hc' hslot
  have heq := eq_of_nodup_map h (Device.mem_held_iff.mpr hc) (Device.mem_held_iff.mpr hc') hslot
  exact Prod.mk.inj heq

theorem Device.mem_heldSlots {d : Device} {n : Nat} : n ∈ d.heldSlots ↔ ∃ place c, d.Stands place c ∧ c.slot = n := by
  simp only [Device.heldSlots, List.mem_map, Prod.exists, Device.mem_held_iff]

theorem Device.heldAt_isSome_iff {d : Device} {n : Nat} : (∃ x, d.heldAt n = some x) ↔ n ∈ d.heldSlots := by
  rw [Device.mem_heldSlots]
  constructor
  · rintro ⟨⟨place, c⟩, h⟩
    exact ⟨place, c, Device.heldAt_stands h⟩
  · rintro ⟨place, c, hstands, hslot⟩
    exact Option.ne_none_iff_exists'.mp fun h => Device.heldAt_none_iff.mp h place c hstands hslot

/-- The device with the HELD cue of slot n taken out of the place where it stands. -/
def Device.removed (d : Device) (place : Place) (n : Nat) : Device :=
  match place with
  | .global => { d with globals := dropCue n d.globals }
  | .list p => d.modPort p fun x => { x with cues := dropCue n x.cues }
  | .flight p => d.modPort p fun x => { x with step := x.step.cancel n }

@[simp] theorem Device.removed_arbiter (d : Device) (place : Place) (n : Nat) : (d.removed place n).arbiter = d.arbiter := by cases place <;> rfl
@[simp] theorem Device.removed_mem (d : Device) (place : Place) (n : Nat) : (d.removed place n).mem = d.mem := by cases place <;> rfl
@[simp] theorem Device.removed_time (d : Device) (place : Place) (n : Nat) : (d.removed place n).time = d.time := by cases place <;> rfl
@[simp] theorem Device.removed_prot (d : Device) (place : Place) (n : Nat) : (d.removed place n).prot = d.prot := by cases place <;> rfl

theorem StepLine.cancel_queue (s : StepLine) (n : Nat) : (s.cancel n).queue = s.queue.filter (·.cue.slot != n) := by
  unfold StepLine.cancel
  split
  · next h => rw [h]; rfl
  · rfl

theorem StepLine.cancel_eq (s : StepLine) (n : Nat) : s.cancel n = { s with queue := (s.cancel n).queue, owed := (s.cancel n).owed } := by
  unfold StepLine.cancel
  split <;> rfl

theorem Cancels.removed (d : Device) (place : Place) (n : Nat) : Cancels d (d.removed place n) := by
  cases place with
  | global => exact .withGlobals d _
  | list p => exact .modPort (f := fun x => { x with cues := dropCue n x.cues }) rfl
  | flight p => exact .modPort (f := fun x => { x with step := x.step.cancel n }) (congrArg (fun s => { d.port p with step := s }) (StepLine.cancel_eq _ n))

/-- The result a cancelled cue's slot shows: its fire PI is the one it was to fire at. -/
def Device.cancelPI (d : Device) (place : Place) (c : Cue) : Nat :=
  match place with
  | .flight p => match (d.port p).step.queue.find? (·.cue.slot == c.slot) with
    | some f => f.pi
    | none => c.due
  | _ => c.due

/-- One cancelled cue leaves its place, and its slot is ended. -/
theorem Device.cancelSlot_held {d : Device} {r : Reason} {n : Nat} {place : Place} {c : Cue} (h : d.heldAt n = some (place, c)) :
    ∃ res : Result, d.cancelSlot r n = (d.removed place n).finishSlot n stCancelled res ∧ res.reason = r ∧ res.firePI = d.cancelPI place c ∧
      res.fireTime = timeLow32 d.time := by
  obtain ⟨hstands, hslot⟩ := Device.heldAt_stands h
  unfold Device.cancelSlot
  rw [h]
  cases place with
  | global => exact ⟨_, by rw [← hslot]; rfl, rfl, rfl, rfl⟩
  | list p => exact ⟨_, by rw [← hslot]; rfl, rfl, rfl, rfl⟩
  | flight p =>
    cases hf : (d.port p).step.queue.find? (·.cue.slot == n) with
    | none =>
      obtain ⟨f, hmem, rfl⟩ := hstands
      rw [List.find?_eq_none] at hf
      exact absurd hslot (by simpa using hf f hmem)
    | some f =>
      refine ⟨{ reason := r, flags := c.flags, revision := c.revision, firePI := f.pi, fireTime := timeLow32 d.time, fired := c.fired,
                aux := ({ c with bytes := (d.port p).step.bytesOf n } : Cue).aux }, ?_, rfl, ?_, rfl⟩
      · simp only [hf]
        rw [Device.endCue, hslot]
        rfl
      · simp only [Device.cancelPI, hslot, hf]

theorem Device.cancelSlot_free {d : Device} {r : Reason} {n : Nat} (h : n ∉ d.heldSlots) : d.cancelSlot r n = d := by
  have hnone : d.heldAt n = none := by
    cases hheld : d.heldAt n with
    | none => rfl
    | some x => exact absurd (Device.heldAt_isSome_iff.mp ⟨x, hheld⟩) h
  unfold Device.cancelSlot
  rw [hnone]

theorem Cancels.cancelSlot {d : Device} (h : d.arbiter = []) (r : Reason) (n : Nat) : Cancels d (d.cancelSlot r n) := by
  cases hheld : d.heldAt n with
  | none =>
    unfold Device.cancelSlot
    rw [hheld]
    exact .refl d
  | some x =>
    obtain ⟨res, heq, _⟩ := Device.cancelSlot_held (r := r) (place := x.1) (c := x.2) hheld
    rw [heq]
    exact (Cancels.removed d _ n).trans (Wrote.finishSlot (by rw [Device.removed_arbiter]; exact h) _ _ _).cancels

/-! ## What is HELD afterwards -/

theorem Wrote.stands {d e : Device} (h : Wrote d e) {place : Place} {c : Cue} : e.Stands place c ↔ d.Stands place c := by
  rw [← Device.mem_held_iff, ← Device.mem_held_iff, h.held]

theorem Device.stands_removed {d : Device} {place : Place} {n : Nat} {place' : Place} {c' : Cue} :
    (d.removed place n).Stands place' c' ↔ d.Stands place' c' ∧ (place' = place → c'.slot ≠ n) := by
  have helse : place' ≠ place → ((d.removed place n).Stands place' c' ↔ d.Stands place' c') →
      ((d.removed place n).Stands place' c' ↔ d.Stands place' c' ∧ (place' = place → c'.slot ≠ n)) := fun hne h => by
    rw [h]
    exact ⟨fun hs => ⟨hs, fun heq => absurd heq hne⟩, And.left⟩
  have hport : ∀ {p q : PortIx} {f : Port → Port}, q ≠ p → (d.modPort p f).port q = d.port q := fun h => Device.port_modPort_ne _ _ h
  cases place with
  | global =>
    cases place' with
    | global => simpa [Device.removed, Device.Stands] using mem_dropCue
    | list q => exact helse (by simp) Iff.rfl
    | flight q => exact helse (by simp) Iff.rfl
  | list p =>
    cases place' with
    | global => exact helse (by simp) Iff.rfl
    | list q =>
      rcases Classical.em (q = p) with rfl | hq
      · simpa [Device.removed, Device.Stands] using mem_dropCue
      · exact helse (by simpa using hq) (by simp only [Device.removed, Device.Stands, hport hq])
    | flight q =>
      refine helse (by simp) ?_
      rcases Classical.em (q = p) with rfl | hq
      · simp only [Device.removed, Device.Stands, Device.port_modPort_same]
      · simp only [Device.removed, Device.Stands, hport hq]
  | flight p =>
    cases place' with
    | global => exact helse (by simp) Iff.rfl
    | list q =>
      refine helse (by simp) ?_
      rcases Classical.em (q = p) with rfl | hq
      · simp only [Device.removed, Device.Stands, Device.port_modPort_same]
      · simp only [Device.removed, Device.Stands, hport hq]
    | flight q =>
      rcases Classical.em (q = p) with rfl | hq
      · simp only [Device.removed, Device.Stands, Device.port_modPort_same, StepLine.cancel_queue, List.mem_filter, bne_iff_ne, ne_eq, forall_const]
        constructor
        · rintro ⟨f, ⟨hf, hne⟩, rfl⟩
          exact ⟨⟨f, hf, rfl⟩, hne⟩
        · rintro ⟨⟨f, hf, rfl⟩, hne⟩
          exact ⟨f, ⟨hf, hne⟩, rfl⟩
      · exact helse (by simpa using hq) (by simp only [Device.removed, Device.Stands, hport hq])

/-- Cancelling a slot takes the cue it finds there out of its place, and leaves the others HELD. -/
theorem Device.stands_cancelSlot_held {d : Device} (hquiet : d.arbiter = []) (r : Reason) {n : Nat} {place : Place} {c : Cue} (h : d.heldAt n = some (place, c))
    {place' : Place} {c' : Cue} : (d.cancelSlot r n).Stands place' c' ↔ d.Stands place' c' ∧ (place' = place → c'.slot ≠ n) := by
  obtain ⟨res, heq, _⟩ := Device.cancelSlot_held (r := r) h
  rw [heq, (Wrote.finishSlot (by rw [Device.removed_arbiter]; exact hquiet) _ _ _).stands]
  exact Device.stands_removed

theorem Device.stands_of_cancelSlot {d : Device} (hquiet : d.arbiter = []) (r : Reason) {n : Nat} {place : Place} {c : Cue} (h : (d.cancelSlot r n).Stands place c) :
    d.Stands place c := by
  by_cases hn : n ∈ d.heldSlots
  · obtain ⟨⟨place, c⟩, hheld⟩ := Device.heldAt_isSome_iff.mpr hn
    exact ((Device.stands_cancelSlot_held hquiet r hheld).mp h).1
  · rw [Device.cancelSlot_free hn] at h
    exact h

theorem Device.stands_cancelSlot_other {d : Device} (hquiet : d.arbiter = []) (r : Reason) {n : Nat} {place : Place} {c : Cue} (h : d.Stands place c) (hne : c.slot ≠ n) :
    (d.cancelSlot r n).Stands place c := by
  by_cases hn : n ∈ d.heldSlots
  · obtain ⟨⟨place, c⟩, hheld⟩ := Device.heldAt_isSome_iff.mpr hn
    exact (Device.stands_cancelSlot_held hquiet r hheld).mpr ⟨h, fun _ => hne⟩
  · rw [Device.cancelSlot_free hn]
    exact h

/-- Where no two HELD cues have the same slot, a cancelled slot has none left. -/
theorem Device.stands_cancelSlot_slot {d : Device} (hquiet : d.arbiter = []) (hapart : d.HeldApart) (r : Reason) {n : Nat} {place : Place} {c : Cue}
    (h : (d.cancelSlot r n).Stands place c) : c.slot ≠ n := by
  rintro rfl
  have hstands := Device.stands_of_cancelSlot hquiet r h
  obtain ⟨⟨place', c'⟩, hheld⟩ := Device.heldAt_isSome_iff.mpr (Device.mem_heldSlots.mpr ⟨place, c, hstands, rfl⟩)
  obtain ⟨hstands', hslot⟩ := Device.heldAt_stands hheld
  exact ((Device.stands_cancelSlot_held hquiet r hheld).mp h).2 (hapart _ _ _ _ hstands hstands' hslot.symm).1 rfl

/-! ## What the slots show -/

/-- Slot n shows CANCELLED with this reason and time, and is not protected. -/
structure Device.ShowsCancelled (d : Device) (r : Reason) (t : Time) (n : Nat) : Prop where
  state : d.slotState n = stCancelled
  reason : d.field n 48 1 = r.code
  time : d.field n 56 4 = timeLow32 t
  free : n ∉ d.prot

/-- Slot n and its protection are left as they were. -/
structure Device.SlotKept (d e : Device) (n : Nat) : Prop where
  slot : SameSlot n d e
  prot : n ∈ e.prot → n ∈ d.prot

theorem Device.SlotKept.refl (d : Device) (n : Nat) : d.SlotKept d n := ⟨.ofMem rfl, id⟩

theorem Device.SlotKept.trans {d e f : Device} {n : Nat} (a : d.SlotKept e n) (b : e.SlotKept f n) : d.SlotKept f n := ⟨a.slot.trans b.slot, a.prot ∘ b.prot⟩

theorem Device.SlotKept.of_eq {d e : Device} {n : Nat} (hmem : e.mem = d.mem) (hprot : e.prot = d.prot) : d.SlotKept e n := ⟨.ofMem hmem, by rw [hprot]; exact id⟩

theorem Device.ShowsCancelled.kept {d e : Device} {r : Reason} {t : Time} {n : Nat} (h : d.ShowsCancelled r t n) (hk : d.SlotKept e n) : e.ShowsCancelled r t n :=
  ⟨by rw [hk.slot.slotState]; exact h.state, by rw [hk.slot.field 48 1]; exact h.reason, by rw [hk.slot.field 56 4]; exact h.time, fun hp => h.free (hk.prot hp)⟩

/-- The ending of another slot leaves slot n. -/
theorem Device.SlotKept.of_ended {d e : Device} {n m : Nat} (hbytes : d.SameBytes e (endBytes m)) (hprot : e.prot = d.prot.filter (· != m)) (hm : m < 512)
    (hne : n ≠ m) : d.SlotKept e n := by
  refine ⟨fun a hlo hhi => hbytes a ?_, fun hp => ?_⟩
  · unfold endBytes slotBase mapBase at *
    omega
  · rw [hprot] at hp
    exact (List.mem_filter.mp hp).1

theorem Device.SlotKept.finishSlot {d : Device} (h : d.arbiter = []) {n m : Nat} (hm : m < 512) (hne : n ≠ m) (st : Nat) (res : Result) :
    d.SlotKept (d.finishSlot m st res) n := .of_ended (Device.finishSlot_bytes h m st res) (Device.finishSlot_prot d m st res) hm hne

theorem Device.cancelSlot_shows {d : Device} (hquiet : d.arbiter = []) (hmem : d.MemOk) (r : Reason) {n : Nat} (hn : n < 512) {place : Place} {c : Cue}
    (h : d.heldAt n = some (place, c)) : (d.cancelSlot r n).ShowsCancelled r d.time n ∧ (d.cancelSlot r n).field n 52 4 = d.cancelPI place c % 4294967296 := by
  obtain ⟨res, heq, hreason, hpi, htime⟩ := Device.cancelSlot_held (r := r) h
  have hidle : (d.removed place n).arbiter = [] := by rw [Device.removed_arbiter]; exact hquiet
  have hok : (d.removed place n).MemOk := by rw [Device.MemOk, Device.removed_mem]; exact hmem
  have hshows := Device.finishSlot_shows hidle res hok hn (show stCancelled < 256 by decide)
  rw [heq]
  refine ⟨⟨hshows.state, by rw [hshows.reason, hreason], ?_, hshows.unprotected⟩, by rw [hshows.firePI, hpi]⟩
  rw [hshows.fireTime, htime]
  unfold timeLow32
  omega

theorem Device.SlotKept.cancelSlot {d : Device} (h : d.arbiter = []) (hbound : ∀ m ∈ d.heldSlots, m < 512) (r : Reason) {n m : Nat} (hne : n ≠ m) :
    d.SlotKept (d.cancelSlot r m) n := by
  by_cases hheld : m ∈ d.heldSlots
  · obtain ⟨⟨place, c⟩, hat⟩ := Device.heldAt_isSome_iff.mpr hheld
    obtain ⟨res, heq, _⟩ := Device.cancelSlot_held (r := r) hat
    rw [heq]
    exact (Device.SlotKept.of_eq (Device.removed_mem _ _ _) (Device.removed_prot _ _ _)).trans
      (.finishSlot (by rw [Device.removed_arbiter]; exact h) (hbound m hheld) hne _ _)
  · rw [Device.cancelSlot_free hheld]
    exact .refl d n

/-! ## Ending many HELD cues -/

theorem Device.cancelSlot_keepsShown {d : Device} (hquiet : d.arbiter = []) (hmem : d.MemOk) (hbound : ∀ m ∈ d.heldSlots, m < 512) (r : Reason) (m : Nat) {n : Nat}
    (h : d.ShowsCancelled r d.time n ∨ n ∈ d.heldSlots ∧ n = m) : (d.cancelSlot r m).ShowsCancelled r d.time n := by
  by_cases hn : n = m
  · subst hn
    by_cases hheld : n ∈ d.heldSlots
    · obtain ⟨⟨place, c⟩, hat⟩ := Device.heldAt_isSome_iff.mpr hheld
      exact (Device.cancelSlot_shows hquiet hmem r (hbound n hheld) hat).1
    · rw [Device.cancelSlot_free hheld]
      exact h.resolve_right fun hh => hheld hh.1
  · exact (h.resolve_right fun hh => hn hh.2).kept (.cancelSlot hquiet hbound r hn)

/-- The slots of l have been cancelled one after the other. -/
structure Device.CancelsAll (d e : Device) (r : Reason) (l : List Nat) : Prop extends Cancels d e where
  keeps : ∀ n, Keeps n d e
  stands : ∀ place c, e.Stands place c → d.Stands place c
  others : ∀ place c, d.Stands place c → c.slot ∉ l → e.Stands place c
  gone : d.HeldApart → ∀ place c, e.Stands place c → c.slot ∉ l
  shows : ∀ n, d.ShowsCancelled r d.time n ∨ n ∈ d.heldSlots ∧ n ∈ l → e.ShowsCancelled r d.time n
  kept : ∀ n, n ∉ l → d.SlotKept e n

theorem Device.cancel_fold (r : Reason) : ∀ (l : List Nat) {d : Device}, d.arbiter = [] → d.MemOk → (∀ n ∈ d.heldSlots, n < 512) →
    d.CancelsAll (l.foldl (fun d n => d.cancelSlot r n) d) r l
  | [], d, _, _, _ => ⟨.refl d, fun _ => .refl d, fun _ _ => id, fun _ _ hs _ => hs, fun _ _ _ _ => List.not_mem_nil,
      fun _ h => h.resolve_right fun hh => List.not_mem_nil hh.2, fun n _ => .refl d n⟩
  | m :: l, d, hquiet, hmem, hbound => by
    have hkeeps : ∀ n, Keeps n d (d.cancelSlot r m) := fun n => Keeps.cancelSlot d r m
    have hof := fun place c => Device.stands_of_cancelSlot hquiet r (n := m) (place := place) (c := c)
    have hrest := Device.cancel_fold r l ((hkeeps 0).arbiter hquiet) ((hkeeps 0).mem hmem) fun n hn => by
      obtain ⟨place, c, hs, hslot⟩ := Device.mem_heldSlots.mp hn
      exact hbound n (Device.mem_heldSlots.mpr ⟨place, c, hof _ _ hs, hslot⟩)
    rw [List.foldl_cons]
    refine ⟨(Cancels.cancelSlot hquiet r m).trans hrest.toCancels, fun n => (hkeeps n).trans (hrest.keeps n), fun place c h => hof _ _ (hrest.stands _ _ h),
      fun place c h hl => ?_, fun hapart place c h => ?_, fun n hn => ?_, fun n hl => ?_⟩
    · rw [List.mem_cons, not_or] at hl
      exact hrest.others _ _ (Device.stands_cancelSlot_other hquiet r h hl.1) hl.2
    · have hleft := Device.stands_cancelSlot_slot hquiet hapart r (hrest.stands _ _ h)
      have hgone := hrest.gone (fun place c place' c' hs hs' => hapart place c place' c' (hof _ _ hs) (hof _ _ hs')) _ _ h
      simp [hleft, hgone]
    · rw [← (hkeeps 0).time]
      refine hrest.shows n ?_
      rw [(hkeeps 0).time]
      rcases hn with hshown | ⟨hheld, hl⟩
      · exact .inl (Device.cancelSlot_keepsShown hquiet hmem hbound r m (.inl hshown))
      · rcases Classical.em (n = m) with rfl | hne
        · exact .inl (Device.cancelSlot_keepsShown hquiet hmem hbound r n (.inr ⟨hheld, rfl⟩))
        · obtain ⟨place, c, hs, rfl⟩ := Device.mem_heldSlots.mp hheld
          exact .inr ⟨Device.mem_heldSlots.mpr ⟨place, c, Device.stands_cancelSlot_other hquiet r hs hne, rfl⟩, (List.mem_cons.mp hl).resolve_left hne⟩
    · rw [List.mem_cons, not_or] at hl
      exact (Device.SlotKept.cancelSlot hquiet hbound r hl.1).trans (hrest.kept n hl.2)

theorem mem_sortNats {a : Nat} : ∀ {l : List Nat}, a ∈ sortNats l ↔ a ∈ l
  | [] => Iff.rfl
  | b :: l => by
    show a ∈ insertNat b (sortNats l) ↔ a ∈ b :: l
    rw [mem_insertNat, mem_sortNats, List.mem_cons]

theorem Device.cancelSlots_all {d : Device} (hquiet : d.arbiter = []) (hmem : d.MemOk) (hbound : ∀ n ∈ d.heldSlots, n < 512) (r : Reason) (l : List Nat) :
    d.CancelsAll (d.cancelSlots r l) r l := by
  have h := Device.cancel_fold r (sortNats l) hquiet hmem hbound
  exact ⟨h.toCancels, h.keeps, h.stands, fun place c hs hl => h.others _ _ hs (fun hm => hl (mem_sortNats.mp hm)), fun hapart place c hs => fun hm => h.gone hapart _ _ hs (mem_sortNats.mpr hm),
    fun n hn => h.shows n (hn.imp_right fun hh => ⟨hh.1, mem_sortNats.mpr hh.2⟩), fun n hl => h.kept n (fun hm => hl (mem_sortNats.mp hm))⟩

/-- All HELD cues have been cancelled: none is left. -/
theorem Device.CancelsAll.none_left {d e : Device} {r : Reason} (h : d.CancelsAll e r d.heldSlots) (hnodup : d.heldSlots.Nodup) :
    e.globals = [] ∧ ∀ p, (e.port p).cues = [] ∧ (e.port p).step.queue = [] := by
  have hnone : ∀ place c, ¬ e.Stands place c := fun place c hs =>
    h.gone (Device.heldApart_of_nodup hnodup) place c hs (Device.mem_heldSlots.mpr ⟨place, c, h.stands _ _ hs, rfl⟩)
  refine ⟨List.eq_nil_iff_forall_not_mem.mpr fun c hc => hnone .global c hc, fun p => ⟨?_, ?_⟩⟩
  · exact List.eq_nil_iff_forall_not_mem.mpr fun c hc => hnone (.list p) c hc
  · exact List.eq_nil_iff_forall_not_mem.mpr fun f hf => hnone (.flight p) f.cue ⟨f, hf, rfl⟩

end Sys2Proof.Machine
end

section
/-! PROOFS. Planning as the global list and the slots see it (R47, R6, R80): the HELD cues stay HELD, and a cue at or above the first soft pulse keeps its fire PI and its slot. -/
namespace Sys2Proof.Machine

/-! ## An operation of every port in turn -/

/-- Operations of single ports have been done: the planner and the global list stay. -/
structure Ported (d e : Device) : Prop extends Steady d e where
  planner : e.planner = d.planner
  globals : e.globals = d.globals

theorem Local.ported {p : PortIx} {d e : Device} (h : Local p d e) : Ported d e := ⟨h.toSteady, h.planner, h.globals⟩

theorem Ported.refl (d : Device) : Ported d d := ⟨.refl d, rfl, rfl⟩

theorem Ported.trans {d e f : Device} (a : Ported d e) (b : Ported e f) : Ported d f :=
  ⟨a.toSteady.trans b.toSteady, b.planner.trans a.planner, b.globals.trans a.globals⟩

theorem Ported.foldl {f : Device → PortIx → Device} (h : ∀ p d, Local p d (f d p)) : ∀ (l : List PortIx) (d : Device), Ported d (l.foldl f d)
  | [], d => .refl d
  | p :: l, d => (h p d).ported.trans (Ported.foldl h l (f d p))

theorem Ported.eachPort {f : Device → PortIx → Device} (h : ∀ p d, Local p d (f d p)) (d : Device) : Ported d (d.eachPort f) := .foldl h allPorts d

theorem allPorts_nodup : allPorts.Nodup := by decide

theorem foldl_port_other {f : Device → PortIx → Device} (h : ∀ p d, Local p d (f d p)) {p : PortIx} : ∀ (l : List PortIx) (d : Device), p ∉ l →
    (l.foldl f d).port p = d.port p
  | [], _, _ => rfl
  | q :: l, d, hp => by
    rw [List.mem_cons, not_or] at hp
    exact (foldl_port_other h l _ hp.2).trans ((h q d).ports p hp.1)

/-- Where every port does its own operation in turn, port p's finds it as it was, after the ports before it, and its outcome stays while the ports after it do theirs. -/
theorem Device.eachPort_at {f : Device → PortIx → Device} (h : ∀ p d, Local p d (f d p)) (d : Device) (p : PortIx) :
    ∃ before after : List PortIx, (before.foldl f d).port p = d.port p ∧ d.eachPort f = after.foldl f (f (before.foldl f d) p) ∧
      (d.eachPort f).port p = (f (before.foldl f d) p).port p := by
  obtain ⟨before, after, hsplit⟩ := List.append_of_mem (Device.mem_allPorts p)
  have hnodup := allPorts_nodup
  rw [hsplit, List.nodup_append, List.nodup_cons] at hnodup
  obtain ⟨-, ⟨hafter, -⟩, hbefore⟩ := hnodup
  have heq : d.eachPort f = after.foldl f (f (before.foldl f d) p) := by
    rw [Device.eachPort, hsplit, List.foldl_append, List.foldl_cons]
  refine ⟨before, after, foldl_port_other h before d fun hp => hbefore p hp p List.mem_cons_self rfl, heq, ?_⟩
  rw [heq]
  exact foldl_port_other h after _ hafter

/-! ## The progress fields of a slot -/

/-- The bytes of slot n's progress fields (R80): revision, fire PI, fired count and aux. -/
def progressBytes (n a : Nat) : Prop := (slotBase n + 50 ≤ a ∧ a < slotBase n + 56) ∨ (slotBase n + 60 ≤ a ∧ a < slotBase n + 64)

theorem progressBytes.held {n a : Nat} (h : progressBytes n a) : heldBytes n a := by
  unfold progressBytes at h
  unfold heldBytes
  omega

theorem Device.writeProgress_quiet {d : Device} (h : d.arbiter = []) (c : Cue) (k : Nat) : d.writeProgress c k =
    (((d.write (slotBase c.slot + 50) 2 c.revision).write (slotBase c.slot + 52) 4 k).write (slotBase c.slot + 60) 2 c.fired).write (slotBase c.slot + 62) 2 c.aux := by
  simp only [Device.writeProgress, Device.poke_quiet, Device.write_arbiter, h]

theorem Device.writeProgress_bytes {d : Device} (h : d.arbiter = []) (c : Cue) (k : Nat) : d.SameBytes (d.writeProgress c k) (progressBytes c.slot) := by
  intro a ha
  unfold progressBytes at ha
  rw [Device.writeProgress_quiet h]
  simp only [Device.write]
  rw [Memory.read_writeLE_outside 2 _ _ (by omega), Memory.read_writeLE_outside 2 _ _ (by omega), Memory.read_writeLE_outside 4 _ _ (by omega),
    Memory.read_writeLE_outside 2 _ _ (by omega)]

theorem Device.writeProgress_prot {d : Device} (h : d.arbiter = []) (c : Cue) (k : Nat) : (d.writeProgress c k).prot = d.prot := by
  rw [Device.writeProgress_quiet h]
  rfl

/-! ## The global list -/

/-- Cue y is cue x after planning below and from pulse k on: a fire PI at or above k is kept. -/
structure Cue.Shifted (k : Nat) (x y : Cue) : Prop where
  same : y = { x with due := y.due, flags := y.flags }
  due : k ≤ x.due → y.due = x.due

theorem Cue.Shifted.refl (k : Nat) (x : Cue) : x.Shifted k x := ⟨rfl, fun _ => rfl⟩

theorem Cue.Shifted.trans {k : Nat} {x y z : Cue} (a : x.Shifted k y) (b : y.Shifted k z) : x.Shifted k z := by
  refine ⟨?_, fun h => (b.due (by rw [a.due h]; exact h)).trans (a.due h)⟩
  have hb := b.same
  rw [a.same] at hb
  exact hb

theorem Cue.Shifted.slot {k : Nat} {x y : Cue} (h : x.Shifted k y) : y.slot = x.slot := (congrArg Cue.slot h.same :)

theorem Cue.Shifted.above {k : Nat} {x y : Cue} (h : x.Shifted k y) (hx : k ≤ x.due) : k ≤ y.due := by
  rw [h.due hx]
  exact hx

theorem Cue.Shifted.meterMoved (k : Nat) (x : Cue) (e : PlanEntry) : x.Shifted k (x.meterMoved e) := by
  unfold Cue.meterMoved
  split
  · exact ⟨rfl, fun _ => rfl⟩
  · exact .refl k x

theorem Cue.movedTo_due (x : Cue) (k : Nat) : k ≤ (x.movedTo k).due := by
  unfold Cue.movedTo
  split
  · exact Nat.le_refl k
  · omega

theorem Cue.Shifted.movedTo (k : Nat) (x : Cue) : x.Shifted k (x.movedTo k) := by
  unfold Cue.movedTo
  split
  · next hlow => exact ⟨rfl, fun h => absurd h (Nat.not_le.mpr hlow)⟩
  · exact .refl k x

theorem mem_sortCues {a : Cue} (l : List Cue) : a ∈ sortCues l ↔ a ∈ l := by
  have h : ∀ (l acc : List Cue), a ∈ l.foldl (fun acc c => insertCue c acc) acc ↔ a ∈ acc ∨ a ∈ l := by
    intro l
    induction l with
    | nil => simp
    | cons b l ih =>
      intro acc
      rw [List.foldl_cons, ih, mem_insertCue, List.mem_cons]
      exact or_assoc.trans or_left_comm
  rw [sortCues, h]
  simp

/-! ## What planning leaves of the slots -/

/-- Pulses have been planned, or cues moved, while no host access waits: no cue enters or leaves the global list, and only the slots of cues below the first soft pulse have been written, in their progress fields. -/
structure Plots (d e : Device) : Prop where
  arbiter : e.arbiter = []
  prot : e.prot = d.prot
  soft : e.firstSoft = d.firstSoft
  came : ∀ y ∈ e.globals, ∃ x ∈ d.globals, x.Shifted d.firstSoft y
  stayed : ∀ x ∈ d.globals, ∃ y ∈ e.globals, x.Shifted d.firstSoft y
  bytes : ∀ a, (∀ x ∈ d.globals, x.due < d.firstSoft → ¬ progressBytes x.slot a) → Memory.read e.mem a = Memory.read d.mem a

theorem Plots.of_mem {d e : Device} (hquiet : d.arbiter = []) (h : Unwritten d e) (hsoft : e.firstSoft = d.firstSoft)
    (hglobals : ∃ f : Cue → Cue, (∀ x : Cue, x.Shifted d.firstSoft (f x)) ∧ e.globals = d.globals.map f) : Plots d e := by
  obtain ⟨f, hf, hglobals⟩ := hglobals
  refine ⟨h.arbiter.trans hquiet, h.prot, hsoft, fun y hy => ?_, fun x hx => ⟨f x, ?_, hf x⟩, fun a _ => by rw [h.mem]⟩
  · rw [hglobals, List.mem_map] at hy
    obtain ⟨x, hx, rfl⟩ := hy
    exact ⟨x, hx, hf x⟩
  · rw [hglobals]
    exact List.mem_map_of_mem hx

theorem Plots.of_same {d e : Device} (hquiet : d.arbiter = []) (h : Unwritten d e) (hsoft : e.firstSoft = d.firstSoft) (hglobals : e.globals = d.globals) : Plots d e :=
  .of_mem hquiet h hsoft ⟨id, fun x => Cue.Shifted.refl _ x, by rw [hglobals, List.map_id]⟩

theorem Plots.refl {d : Device} (h : d.arbiter = []) : Plots d d := .of_same h (.refl d) rfl rfl

theorem Plots.trans {d e f : Device} (a : Plots d e) (b : Plots e f) : Plots d f := by
  refine ⟨b.arbiter, b.prot.trans a.prot, b.soft.trans a.soft, fun z hz => ?_, fun x hx => ?_, fun n hn => ?_⟩
  · obtain ⟨y, hy, hyz⟩ := b.came z hz
    obtain ⟨x, hx, hxy⟩ := a.came y hy
    rw [a.soft] at hyz
    exact ⟨x, hx, hxy.trans hyz⟩
  · obtain ⟨y, hy, hxy⟩ := a.stayed x hx
    obtain ⟨z, hz, hyz⟩ := b.stayed y hy
    rw [a.soft] at hyz
    exact ⟨z, hz, hxy.trans hyz⟩
  · refine (b.bytes n fun y hy hlow => ?_).trans (a.bytes n hn)
    obtain ⟨x, hx, hxy⟩ := a.came y hy
    rw [a.soft] at hlow
    rw [hxy.slot]
    exact hn x hx (Classical.byContradiction fun h => absurd (hxy.above (Nat.not_lt.mp h)) (Nat.not_le.mpr hlow))

theorem Plots.ite {d a b : Device} {c : Prop} [Decidable c] (ha : Plots d a) (hb : Plots d b) : Plots d (if c then a else b) := by
  split <;> assumption

/-- With no cue below the first soft pulse none falls below it, and the slots stay as they are. -/
theorem Plots.above {d e : Device} (h : Plots d e) (hsoft : ∀ x ∈ d.globals, d.firstSoft ≤ x.due) :
    (∀ y ∈ e.globals, d.firstSoft ≤ y.due) ∧ ∀ a, Memory.read e.mem a = Memory.read d.mem a := by
  refine ⟨fun y hy => ?_, fun a => h.bytes a fun x hx hlow => absurd (hsoft x hx) (Nat.not_le.mpr hlow)⟩
  obtain ⟨x, hx, hxy⟩ := h.came y hy
  exact hxy.above (hsoft x hx)

theorem Plots.no_globals {d e : Device} (h : Plots d e) (hnone : d.globals = []) : e.globals = [] := by
  refine List.eq_nil_iff_forall_not_mem.mpr fun y hy => ?_
  obtain ⟨x, hx, _⟩ := h.came y hy
  rw [hnone] at hx
  exact absurd hx List.not_mem_nil

/-- The slot of no cue below the first soft pulse is left as it was, and so is every byte but the progress fields. -/
theorem Plots.slotKept {d e : Device} (h : Plots d e) {n : Nat} (hn : ∀ x ∈ d.globals, x.due < d.firstSoft → x.slot ≠ n) : d.SlotKept e n := by
  refine ⟨fun a hlo hhi => h.bytes a fun x hx hlow hb => ?_, by rw [h.prot]; exact id⟩
  have hne := hn x hx hlow
  unfold progressBytes slotBase at hb
  unfold slotBase at hlo hhi
  omega

section
variable {d : Device} (hquiet : d.arbiter = [])
include hquiet

theorem Plots.latchStop (k : Nat) : Plots d (d.latchStop k) := by
  have hset : ∀ e : Device, Unwritten e (e.setTransport .stopping) := fun e => .ite (.refl e) (Unwritten.requestStatus _).after
  have h := Replans.latchStop d k
  refine .of_same hquiet (hset _).after h.firstSoft ?_
  unfold Device.latchStop Device.setTransport
  split
  · rfl
  · exact (congrArg Device.globals (HostOnly.requestStatus _) :)

theorem Plots.appendEntry (e : PlanEntry) : Plots d (d.appendEntry e) := by
  have h : Plots d { d with planner := { d.planner with plan := d.planner.plan ++ [e] }, globals := d.globals.map (·.meterMoved e) } :=
    .of_mem hquiet ⟨rfl, rfl, rfl⟩ rfl ⟨_, fun x => Cue.Shifted.meterMoved _ x e, rfl⟩
  unfold Device.appendEntry
  exact .ite (h.trans (.latchStop h.arbiter _)) h

theorem Plots.planPulse : Plots d d.planPulse := by
  unfold Device.planPulse
  split
  · exact .appendEntry hquiet _
  · exact .refl hquiet

omit hquiet in
theorem Plots.extendLoop : ∀ (n : Nat) {d : Device}, d.arbiter = [] → Plots d (Device.extendLoop n d)
  | 0, _, h => .refl h
  | n + 1, _, h => .ite ((Plots.planPulse h).trans (Plots.extendLoop n (Plots.planPulse h).arbiter)) (.refl h)

theorem Plots.discardSoft : Plots d d.discardSoft := .of_same hquiet ⟨rfl, rfl, rfl⟩ rfl rfl

theorem Plots.afterPlan (lo : Nat) : Plots d (d.afterPlan lo) := by
  exact .of_same hquiet (.afterPlan d lo) (Replans.afterPlan d lo).firstSoft (Ported.eachPort (Local.afterPlanPort · lo ·) d).globals

end

/-! ## Moving cues to the first soft pulse -/

theorem Device.writeProgress_fold (l : List Cue) : ∀ {d : Device}, d.arbiter = [] →
    Wrote d (l.foldl (fun d c => d.writeProgress c c.due) d) ∧ (l.foldl (fun d c => d.writeProgress c c.due) d).prot = d.prot ∧
      ∀ a, (∀ c ∈ l, ¬ progressBytes c.slot a) → Memory.read (l.foldl (fun d c => d.writeProgress c c.due) d).mem a = Memory.read d.mem a := by
  induction l with
  | nil => exact fun _ => ⟨.refl _, rfl, fun _ _ => rfl⟩
  | cons c l ih =>
    intro d h
    have hw := Wrote.writeProgress h c c.due
    obtain ⟨hwrote, hprot, hbytes⟩ := ih ((congrArg Device.arbiter hw :).trans h)
    refine ⟨hw.trans hwrote, hprot.trans (Device.writeProgress_prot h c _), fun a ha => ?_⟩
    rw [List.foldl_cons, hbytes a fun x hx => ha x (List.mem_cons_of_mem c hx)]
    exact Device.writeProgress_bytes h c _ a (ha c List.mem_cons_self)

theorem Device.moveGlobals_mem {d : Device} {y : Cue} : y ∈ d.moveGlobals.globals ↔ ∃ x ∈ d.globals, x.movedTo d.firstSoft = y := by
  unfold Device.moveGlobals
  dsimp only
  split
  · next hlow =>
    have hsame : ∀ x ∈ d.globals, x.movedTo d.firstSoft = x := fun x hx => by
      have hnot : x ∉ d.globals.filter fun c => decide (c.due < d.firstSoft) := by
        rw [hlow]
        exact List.not_mem_nil
      unfold Cue.movedTo
      rw [if_neg fun h => hnot (List.mem_filter.mpr ⟨hx, decide_eq_true h⟩)]
    constructor
    · exact fun hy => ⟨y, hy, hsame y hy⟩
    · rintro ⟨x, hx, rfl⟩
      rw [hsame x hx]
      exact hx
  · have hfold : ∀ (l : List Cue) (e : Device), (l.foldl (fun d c => d.writeProgress c c.due) e).globals = e.globals := by
      intro l
      induction l with
      | nil => exact fun e => rfl
      | cons c l ih => exact fun e => (ih _).trans (Device.writeProgress_globals e c _)
    rw [hfold, mem_sortCues, List.mem_map]

/-- After the move no global cue is below the first soft pulse. -/
theorem Device.moveGlobals_above (d : Device) : ∀ y ∈ d.moveGlobals.globals, d.firstSoft ≤ y.due := by
  intro y hy
  obtain ⟨x, _, rfl⟩ := Device.moveGlobals_mem.mp hy
  exact x.movedTo_due _

theorem Plots.moveGlobals {d : Device} (h : d.arbiter = []) : Plots d d.moveGlobals := by
  have hbytes : d.moveGlobals.arbiter = [] ∧ d.moveGlobals.prot = d.prot ∧
      ∀ a, (∀ x ∈ d.globals, x.due < d.firstSoft → ¬ progressBytes x.slot a) → Memory.read d.moveGlobals.mem a = Memory.read d.mem a := by
    unfold Device.moveGlobals
    dsimp only
    split
    · exact ⟨h, rfl, fun _ _ => rfl⟩
    · obtain ⟨hwrote, hprot, hbytes⟩ := Device.writeProgress_fold
        ((d.globals.filter fun c => decide (c.due < d.firstSoft)).map (·.movedTo d.firstSoft))
        (d := { d with globals := sortCues (d.globals.map (·.movedTo d.firstSoft)) }) h
      refine ⟨(congrArg Device.arbiter hwrote :).trans h, hprot, fun a ha => hbytes a fun c hc => ?_⟩
      rw [List.mem_map] at hc
      obtain ⟨x, hx, rfl⟩ := hc
      rw [(Cue.Shifted.movedTo d.firstSoft x).slot]
      exact ha x ((List.mem_filter.mp hx).1) (of_decide_eq_true (List.mem_filter.mp hx).2)
  obtain ⟨harbiter, hprot, hbytes⟩ := hbytes
  refine ⟨harbiter, hprot, (Replans.moveGlobals d).firstSoft, fun y hy => ?_, fun x hx => ⟨_, Device.moveGlobals_mem.mpr ⟨x, hx, rfl⟩, .movedTo _ x⟩, hbytes⟩
  obtain ⟨x, hx, rfl⟩ := Device.moveGlobals_mem.mp hy
  exact ⟨x, hx, .movedTo _ x⟩

theorem Plots.moveWaiting {d : Device} (h : d.arbiter = []) : Plots d d.moveWaiting := .ite (.moveGlobals h) (.refl h)

theorem Plots.extend {d : Device} (h : d.arbiter = []) : Plots d d.extend := by
  have hmove := Plots.moveGlobals h
  have hloop := hmove.trans (.extendLoop 256 hmove.arbiter)
  unfold Device.extend
  exact .ite (hloop.trans (.afterPlan hloop.arbiter _)) (.refl h)

theorem Plots.replan {d : Device} (h : d.arbiter = []) : Plots d d.replan := by
  have hdiscard := Plots.discardSoft h
  have hmove := hdiscard.trans (.moveGlobals hdiscard.arbiter)
  have hpulse := hmove.trans (.planPulse hmove.arbiter)
  have hloop := hpulse.trans (.extendLoop 256 hpulse.arbiter)
  unfold Device.replan
  exact .ite (.refl h) (.ite (.moveGlobals h) (hloop.trans (.afterPlan hloop.arbiter _)))

theorem Plots.replanFor {d : Device} (h : d.arbiter = []) (due : Nat) : Plots d (d.replanFor due) := .ite (.replan h) (.refl h)

/-- A re-plan leaves no global cue below the first soft pulse of a run. -/
theorem Device.moveWaiting_above {d : Device} (h : d.planner.transport ≠ .stopped) : ∀ y ∈ d.moveWaiting.globals, d.firstSoft ≤ y.due := by
  unfold Device.moveWaiting
  rw [if_pos (runUnderWay_iff.mpr h)]
  exact d.moveGlobals_above

end Sys2Proof.Machine
end

section
/-! PROOFS. Entry into HOUSE (R169, R153, R172). -/
namespace Sys2Proof.Machine

/-! ## Mode changes -/

theorem Device.setMode_eq (d : Device) (m : DeviceMode) :
    d.setMode m = { d with mode := m, attn := d.attn ||| Cause.bit .mode, writer := (d.setMode m).writer, writerAgain := (d.setMode m).writerAgain } := by
  unfold Device.setMode Device.requestStatus
  split <;> rfl

theorem Device.setMode_attn (d : Device) (m : DeviceMode) : (d.setMode m).attn.getLsbD 3 = true := by
  rw [d.setMode_eq m]
  simp [Cause.bit]

theorem Device.setMode_writer (d : Device) (m : DeviceMode) : (d.setMode m).writer.isSome = true := Device.requestStatus_isSome _

theorem Device.setMode_heldSlots (d : Device) (m : DeviceMode) : (d.setMode m).heldSlots = d.heldSlots := by
  rw [d.setMode_eq m]
  rfl

theorem Device.setMode_time (d : Device) (m : DeviceMode) : (d.setMode m).time = d.time := by rw [d.setMode_eq m]

theorem Device.setMode_mem (d : Device) (m : DeviceMode) : (d.setMode m).mem = d.mem := by rw [d.setMode_eq m]

theorem Device.setMode_arbiter (d : Device) (m : DeviceMode) : (d.setMode m).arbiter = d.arbiter := by rw [d.setMode_eq m]

theorem Device.setMode_mode (d : Device) (m : DeviceMode) : (d.setMode m).mode = m := by rw [d.setMode_eq m]

theorem Device.setMode_service (d : Device) (m : DeviceMode) : (d.setMode m).service = d.service := by rw [d.setMode_eq m]

theorem Device.setMode_port (d : Device) (m : DeviceMode) (p : PortIx) : (d.setMode m).port p = d.port p := by rw [d.setMode_eq m]; rfl

theorem Device.setMode_house (d : Device) (m : DeviceMode) : (d.setMode m).house = d.house := by rw [d.setMode_eq m]

theorem Device.setMode_follower (d : Device) (m : DeviceMode) : (d.setMode m).follower = d.follower := by rw [d.setMode_eq m]

theorem Device.setMode_planner (d : Device) (m : DeviceMode) : (d.setMode m).planner = d.planner := by rw [d.setMode_eq m]

/-! ## HOUSE -/

/-- The port takes the house scene, as one of the operations done at every port (R153). -/
def Device.housePort (d : Device) (p : PortIx) : Device := d.modPort p (·.house d.house)

/-- HOUSE up to the end of its cancels (R169). -/
def Device.houseCancels (d : Device) : Device :=
  (({ d with service := { d.service with carry := none } }).setMode .house).cancelSlots .house d.heldSlots

/-- HOUSE up to its re-plan (R41). -/
def Device.housePlans (d : Device) : Device := if d.globals.any (fun c => d.reachesTail c.due) then d.houseCancels.replan else d.houseCancels

theorem Device.enterHouse_eq (d : Device) : d.enterHouse = (d.housePlans.eachPort Device.housePort).pumpAll := by
  unfold Device.enterHouse Device.housePlans Device.houseCancels
  dsimp only
  rw [Device.setMode_heldSlots]
  rfl

theorem Local.housePort (p : PortIx) (d : Device) : Local p d (d.housePort p) := .modPort p d _

theorem Port.house_eq (x : Port) (h : Levels) : x.house h = { x with mixer := if x.settings.kind = .level then x.mixer.house h else x.mixer } := by
  unfold Port.house
  split <;> rfl

/-- What the end of an entry into HOUSE leaves: every port has taken the house scene, and its transmitter has gone on. -/
structure Device.HouseEnds (d e : Device) : Prop extends Ported d e, Unwritten d e where
  keeps : Keeps 1 d e
  port : ∀ p, e.port p = { (d.port p).house d.house with clock := (e.port p).clock, step := (e.port p).step }
  flights : ∀ p, (e.port p).step.queue.map (·.cue) = (d.port p).step.queue.map (·.cue)

theorem Device.houseEnds (d : Device) : d.HouseEnds (d.eachPort Device.housePort).pumpAll := by
  have hkeeps : Keeps 1 d (d.eachPort Device.housePort) := .eachPort (fun d p => .housePort d p d.house) d
  have hreforms : ∀ p, ∃ e f : Device, e.port p = (d.port p).house d.house ∧ Reforms p e f ∧ (d.eachPort Device.housePort).pumpAll.port p = f.port p := fun p => by
    obtain ⟨before, _, hsame, -, hport⟩ := Device.eachPort_at Local.housePort d p
    have hhouse : (before.foldl Device.housePort d).house = d.house := (Keeps.foldl (n := 1) (fun d p => Keeps.housePort d p d.house) before d).house (Nat.le_refl _)
    rw [Device.housePort, Device.port_modPort_same, hsame, hhouse] at hport
    obtain ⟨before', _, hsame', -, hport'⟩ := Device.eachPort_at (f := fun d p => d.pump p) (fun p d => Local.pump p d) (d.eachPort Device.housePort) p
    exact ⟨_, _, hsame'.trans hport, Reforms.pump p _, hport'⟩
  refine ⟨(Ported.eachPort Local.housePort d).trans (.eachPort (fun p d => Local.pump p d) _),
    (show Unwritten d (d.eachPort Device.housePort) from .foldl (fun d p => .modPort d p _) allPorts d).trans (.pumpAll _),
    hkeeps.trans (.pumpAll _), fun p => ?_, fun p => ?_⟩
  · obtain ⟨e, f, he, hf, hport⟩ := hreforms p
    rw [hport, hf.form, he]
  · obtain ⟨e, f, he, hf, hport⟩ := hreforms p
    rw [hport, hf.flights, he, Port.house_eq]

/-- The stages of an entry into HOUSE: the mode, the cancels, the re-plan, the ports. -/
theorem Device.enterHouse_stages {d : Device} (hmem : d.MemOk) (hquiet : d.arbiter = []) (hbound : ∀ n ∈ d.heldSlots, n < 512) :
    ∃ e c q : Device, e = { d with service := { d.service with carry := none } }.setMode .house ∧ e.CancelsAll c .house d.heldSlots ∧
      Replans c q ∧ Plots c q ∧ Keeps 1 c q ∧ (d.planner.transport = .stopped → q = c) ∧ q.HouseEnds d.enterHouse ∧ Steady e d.enterHouse := by
  have harbiter : ({ d with service := { d.service with carry := none } }.setMode .house).arbiter = [] := by rw [Device.setMode_arbiter]; exact hquiet
  have hmemOk : ({ d with service := { d.service with carry := none } }.setMode .house).MemOk := by rw [Device.MemOk, Device.setMode_mem]; exact hmem
  have hcancels := Device.cancelSlots_all harbiter hmemOk (by rw [Device.setMode_heldSlots]; exact hbound) .house d.heldSlots
  have hidle := (hcancels.keeps 0).arbiter harbiter
  have hsteady := (Steady.cancelSlots ({ d with service := { d.service with carry := none } }.setMode .house) .house d.heldSlots).trans
    (show Steady _ d.housePlans from .ite (.replan _) (.refl _))
  refine ⟨_, d.houseCancels, d.housePlans, rfl, hcancels, .ite (.replan _) (.refl _), .ite (.replan hidle) (.refl hidle), .ite (.replan _) (.refl _), fun hstop => ?_, ?_, ?_⟩
  · have hsame : d.houseCancels.replan = d.houseCancels := Device.replan_stopped (by
      rw [show d.houseCancels.planner = _ from (congrArg Device.planner hcancels.frame :), Device.setMode_planner]
      exact hstop)
    unfold Device.housePlans
    rw [hsame, ite_self]
  · rw [Device.enterHouse_eq]
    exact d.housePlans.houseEnds
  · rw [Device.enterHouse_eq]
    exact (hsteady.trans (.eachPort (fun d p => .modPort d p _) _)).trans (.pumpAll _)

/-- What an entry into HOUSE leaves where no two HELD cues have the same slot. -/
structure Device.Housed (d e : Device) : Prop where
  mode : e.mode = .house
  service : e.service = { d.service with carry := none }
  cause : e.attn.getLsbD 3 = true
  writer : e.writer.isSome = true
  arbiter : e.arbiter = []
  globals : e.globals = []
  port : ∀ p, e.port p = { (d.port p).house d.house with
    cues := [], join := (e.port p).join, cursor := (e.port p).cursor, joinMeter := (e.port p).joinMeter, joinOrigin := (e.port p).joinOrigin,
    clock := (e.port p).clock, step := (e.port p).step }
  flights : ∀ p, (e.port p).step.queue = []
  cancelled : ∀ n ∈ d.heldSlots, e.ShowsCancelled .house d.time n
  house : e.house = d.house
  follower : e.follower = d.follower
  horizon : e.planner.horizon = d.planner.horizon
  cursor : e.planner.cursor = d.planner.cursor
  stopped : d.planner.transport = .stopped → e.planner = d.planner
  runs : d.planner.transport ≠ .stopped → e.planner.transport ≠ .stopped

theorem Device.housed {d : Device} (hmem : d.MemOk) (hquiet : d.arbiter = []) (hnodup : d.heldSlots.Nodup) (hbound : ∀ n ∈ d.heldSlots, n < 512) :
    d.Housed d.enterHouse := by
  obtain ⟨e, c, q, he, hcancels, hreplans, hplots, hkeeps, hstopped, hends, hsteady⟩ := Device.enterHouse_stages hmem hquiet hbound
  generalize d.enterHouse = f at *
  have hslots : e.heldSlots = d.heldSlots := by rw [he, Device.setMode_heldSlots]; rfl
  obtain ⟨hglobals, hlists⟩ := (show e.CancelsAll c .house e.heldSlots by rw [hslots]; exact hcancels).none_left (by rw [hslots]; exact hnodup)
  have hall : Keeps 1 e f := ((hcancels.keeps 1).trans hkeeps).trans hends.keeps
  have hplanner : c.planner = d.planner := by
    rw [show c.planner = e.planner from (congrArg Device.planner hcancels.frame :), he, Device.setMode_planner]
  have hplanned : f.planner = q.planner := hends.toPorted.planner
  have hhouse : q.house = d.house := by rw [((hcancels.keeps 1).trans hkeeps).house (Nat.le_refl _), he, Device.setMode_house]
  have hport : ∀ p, e.port p = d.port p := fun p => by rw [he, Device.setMode_port]; rfl
  constructor
  case mode => rw [hall.mode (Nat.le_refl _), he, Device.setMode_mode]
  case service => rw [hall.service (Nat.le_refl _), he, Device.setMode_service]
  case cause => exact Device.getLsbD_attn_of_keeps hall (by rw [he]; exact Device.setMode_attn _ _)
  case writer => exact hsteady.writer (by rw [he]; exact Device.setMode_writer _ _)
  case arbiter => exact hends.toUnwritten.arbiter.trans hplots.arbiter
  case globals => exact hends.toPorted.globals.trans (hplots.no_globals hglobals)
  case port =>
    intro p
    have hq : q.port p = { d.port p with
        cues := [], join := (q.port p).join, cursor := (q.port p).cursor, joinMeter := (q.port p).joinMeter, joinOrigin := (q.port p).joinOrigin,
        clock := (q.port p).clock, step := (q.port p).step } := by
      rw [hreplans.ports p, hcancels.ports p, (hlists p).1, hport p]
    rw [hends.port p, hq, hhouse, Port.house_eq, Port.house_eq]
  case flights =>
    intro p
    have h := (hends.flights p).trans (hreplans.flights p)
    rw [(hlists p).2] at h
    exact List.map_eq_nil_iff.mp h
  case cancelled =>
    intro n hn
    have hshown := hcancels.shows n (.inr ⟨by rw [hslots]; exact hn, hn⟩)
    rw [he, Device.setMode_time] at hshown
    exact (hshown.kept (hplots.slotKept (by simp [hglobals]))).kept (.of_eq hends.mem hends.prot)
  case house => rw [hall.house (Nat.le_refl _), he, Device.setMode_house]
  case follower => rw [hall.follower (Nat.le_refl _), he, Device.setMode_follower]
  case horizon => rw [hplanned, hreplans.horizon, hplanner]
  case cursor => rw [hplanned, hreplans.cursor, hplanner]
  case stopped => exact fun h => by rw [hplanned, hstopped h, hplanner]
  case runs =>
    intro h
    rw [hplanned]
    exact hreplans.runs (by rw [hplanner]; exact h)

/-- Settles O52: at every other moment the timer does nothing; in CARRY past its expiry the cancels leave nothing HELD, so that the re-plan moves no cue and writes no slot, and each port then takes the house scene. -/
theorem houseEntry : Obligations.HouseEntry := by
  unfold Obligations.HouseEntry
  intro s
  have hdue : ∀ d : Device, d.carryDue = true ↔ d.mode = .carry ∧ ∃ t, d.service.carry = some t ∧ 0 ≤ timeDiff d.time t := fun d => by
    unfold Device.carryDue
    cases d.service.carry <;> simp [timeReached_iff]
  refine ⟨fun hnot => exec_of_noEffect rfl (if_neg fun h => hnot ((hdue s.presenting).mp h)), fun t hmode hcarry htime hmem hquiet hnodup hbound => ?_⟩
  have h := Device.housed hmem hquiet.idle hnodup hbound
  have heq : operationOf .carryTimerExpiry s.toDevice = s.enterHouse := if_pos ((hdue s.toDevice).mpr ⟨hmode, t, hcarry, htime⟩)
  have hexec := exec_of_quiet (c := .carryTimerExpiry) hquiet rfl (by rw [heq]; exact h.arbiter)
  rw [heq] at hexec
  refine ⟨s.enterHouse, hexec, h.mode, h.service, h.cause, h.writer, h.globals, fun p => ?_, fun n hn => ?_, fun p hlevel => ?_, fun p hlevel => ?_,
    h.house, h.follower, h.horizon, h.cursor, h.stopped, h.runs⟩
  · refine ⟨?_, h.flights p, ?_, ?_⟩
    · rw [h.port p]
    · rw [h.port p, Port.house_eq]
    · rw [h.port p, Port.house_eq]
  · exact ⟨(h.cancelled n hn).state, (h.cancelled n hn).reason, (h.cancelled n hn).free⟩
  · rw [h.port p, Port.house_eq, if_pos hlevel]
    rfl
  · rw [h.port p, Port.house_eq, if_neg hlevel]

end Sys2Proof.Machine
end

section
/-! PROOFS. The takes of CANCEL (R103 to R105, R41, R140). -/
namespace Sys2Proof.Machine

/-! ## Idle transmitters choose -/

/-- Every idle transmitter has chosen: only the Step Links have changed. -/
structure Device.Pumped (d e : Device) : Prop extends Ported d e, Unwritten d e where
  keeps : ∀ n, Keeps n d e
  port : ∀ p, e.port p = { d.port p with step := (e.port p).step }
  step : ∀ p, (e.port p).step = (d.port p).step ∨ (e.port p).step = (d.port p).step.startNext d.mem d.time

theorem Device.pumpAll_pumped (d : Device) : d.Pumped d.pumpAll := by
  have hone : ∀ p, ∃ e : Device, e.port p = d.port p ∧ e.mem = d.mem ∧ e.time = d.time ∧ d.pumpAll.port p = (e.pump p).port p := fun p => by
    obtain ⟨before, _, hsame, -, hport⟩ := Device.eachPort_at (f := fun d p => d.pump p) (fun p d => Local.pump p d) d p
    exact ⟨_, hsame, (Unwritten.foldl (fun d p => (Reforms.pump p d).toUnwritten) before d).mem, (Keeps.foldl (n := 0) (fun d p => Keeps.pump d p) before d).time, hport⟩
  refine ⟨.eachPort (fun p d => Local.pump p d) d, .pumpAll d, fun n => .pumpAll d, fun p => ?_, fun p => ?_⟩
  · obtain ⟨e, hsame, -, -, hport⟩ := hone p
    rw [hport, ← hsame, Device.pump]
    split
    · rfl
    · rw [Device.choose, Device.port_modPort_same]
  · obtain ⟨e, hsame, hmem, htime, hport⟩ := hone p
    rw [hport, ← hsame, ← hmem, ← htime, Device.pump]
    split
    · exact .inl rfl
    · rw [Device.choose, Device.port_modPort_same]
      exact .inr rfl

theorem Device.Pumped.flights {d e : Device} (h : d.Pumped e) (p : PortIx) : (e.port p).step.queue.map (·.cue) = (d.port p).step.queue.map (·.cue) := by
  rcases h.step p with hstep | hstep
  · rw [hstep]
  · rw [hstep, StepLine.startNext_cues]

/-- A character owed is still owed after the transmitter's choice, or on the line. -/
theorem StepLine.startNext_owed {s : StepLine} {m : List Host.Cell} {now : Time} {x : BitVec 9} (hx : x ∈ s.owed) :
    x ∈ (s.startNext m now).owed ∨ ∃ l, (s.startNext m now).line = some l ∧ l.code = x := by
  unfold StepLine.startNext
  split
  · exact .inl hx
  · split
    · exact .inl hx
    · split
      · next c rest howed =>
        rw [howed, List.mem_cons] at hx
        rcases hx with rfl | hx
        · exact .inr ⟨_, rfl, rfl⟩
        · exact .inl hx
      · next howed =>
        rw [howed] at hx
        exact absurd hx List.not_mem_nil

/-! ## Cancelling several HELD cues -/

/-- The stages of R105: the cancels, the re-plan where a global cue reached into the plan, the transmitters. -/
theorem Device.cancelCues_stages {d : Device} (hquiet : d.arbiter = []) (hmem : d.MemOk) (hbound : ∀ n ∈ d.heldSlots, n < 512) (r : Reason) (l : List Nat) :
    ∃ q : Device, d.CancelsAll (d.cancelSlots r l) r l ∧ Replans (d.cancelSlots r l) q ∧ Plots (d.cancelSlots r l) q ∧ Keeps 1 (d.cancelSlots r l) q ∧
      ((∀ x ∈ d.globals, x.slot ∉ l) → q = d.cancelSlots r l) ∧ q.Pumped (d.cancelCues r l) := by
  have hcancels := Device.cancelSlots_all hquiet hmem hbound r l
  have hidle := (hcancels.keeps 0).arbiter hquiet
  refine ⟨if d.globals.any (fun c => l.contains c.slot && d.reachesTail c.due) then (d.cancelSlots r l).replan else d.cancelSlots r l, hcancels,
    .ite (.replan _) (.refl _), .ite (.replan hidle) (.refl hidle), .ite (.replan _) (.refl _), fun hnone => if_neg ?_, Device.pumpAll_pumped _⟩
  rw [Bool.not_eq_true, List.any_eq_false]
  intro x hx
  simp [hnone x hx]

/-- A byte that is no progress byte of any slot is left by planning. -/
theorem Plots.outside {d e : Device} (h : Plots d e) {a : Nat} (ha : ∀ n, ¬ progressBytes n a) : Memory.read e.mem a = Memory.read d.mem a := h.bytes a fun x _ _ => ha x.slot

theorem Plots.slotState {d e : Device} (h : Plots d e) (n : Nat) : e.slotState n = d.slotState n := by
  have hread := h.outside (a := slotBase n) fun m hm => by
    unfold progressBytes slotBase at hm
    omega
  simp only [Device.slotState, Device.peek, Memory.readLE, hread]

theorem Plots.reason {d e : Device} (h : Plots d e) (n : Nat) : e.field n 48 1 = d.field n 48 1 := by
  have hread := h.outside (a := slotBase n + 48) fun m hm => by
    unfold progressBytes slotBase at hm
    omega
  simp only [Device.field, Device.peek, Memory.readLE, hread]

theorem Device.heldSlots_beginTake (d : Device) (n : Nat) : (d.beginTake n).heldSlots = d.heldSlots := by
  simp only [Device.heldSlots, Device.held, Device.beginTake_globals, Device.beginTake_port]

theorem Device.selected_beginTake (d : Device) (n : Nat) : (d.beginTake n).selected n = d.selected n := by
  simp only [Device.selected, Device.held, Device.beginTake_globals, Device.beginTake_port, Device.beginTake_field]

theorem State.NextTake.begun_mem {s : State} {row : TakeRow} {n : Nat} (h : s.NextTake row n) : (s.beginTake n).MemOk :=
  (congrArg (fun m => Memory.wf m = true) (s.beginTake_mem n)).mpr h.mem

theorem Device.mem_selected {d : Device} {n m : Nat} (h : m ∈ d.selected n) : m ∈ d.heldSlots := by
  obtain ⟨x, hx, hslot⟩ := List.mem_map.mp h
  exact List.mem_map.mpr ⟨x, (List.mem_filter.mp hx).1, hslot⟩

/-- Settles O30: the cancels show in the slots selected; the re-plan writes progress fields only, and the take's own result is another slot's. -/
theorem cancelBySelector : Obligations.CancelBySelector := by
  unfold Obligations.CancelBySelector
  intro s n h hv hbound
  have hslots : ∀ m ∈ (s.beginTake n).heldSlots, m < 512 := fun m hm => by
    rw [Device.heldSlots_beginTake] at hm
    obtain ⟨x, hx, rfl⟩ := List.mem_map.mp hm
    exact hbound x hx
  obtain ⟨q, hcancels, hreplans, hplots, hkeeps, -, hpumped⟩ := Device.cancelCues_stages h.begun_idle h.begun_mem hslots .bySelector (s.selected n)
  have heffect : TakeRow.cancelBySelector.effect n s.seq (s.beginTake n) =
      ((s.beginTake n).cancelCues .bySelector (s.selected n)).finishSlot n stDone (s.takeResult .none false (s.selected n).length) := by
    show Device.takeCancelSelector n s.seq (s.beginTake n) = _
    rw [Device.takeCancelSelector, Device.selected_beginTake, Device.beginTake_takeResult]
    rfl
  have hall : Keeps 1 (s.beginTake n) ((s.beginTake n).cancelCues .bySelector (s.selected n)) := ((hcancels.keeps 1).trans hkeeps).trans (hpumped.keeps 1)
  obtain ⟨d, hexec, hshows, htaken, hwrote, hattn, hbytes, hprot⟩ := h.shown hv heffect (by decide) (hall.mono (Nat.zero_le 1))
  refine ⟨d, s.selected n, hexec, hshows, rfl, fun m hm hne => ?_, htaken, ?_, ?_, ?_, ?_, ?_, ?_, ?_⟩
  · have hshown := hcancels.shows m (.inr ⟨by rw [Device.heldSlots_beginTake]; exact Device.mem_selected hm, hm⟩)
    have hafter := (Device.SlotKept.of_eq hpumped.mem hpumped.prot (n := m)).trans (.of_ended hbytes hprot h.slot hne)
    rw [hafter.slot.slotState, hafter.slot.field 48 1, hplots.slotState, hplots.reason]
    exact ⟨hshown.state, hshown.reason⟩
  · rw [hattn]
    simp
  · rw [show d.planner = _ from (congrArg Device.planner hwrote :), hpumped.planner, hreplans.horizon,
      show ((s.beginTake n).cancelSlots .bySelector (s.selected n)).planner = _ from (congrArg Device.planner hcancels.frame :), Device.beginTake_planner]
  · rw [show d.time = _ from (congrArg Device.time hwrote :), hall.time, Device.beginTake_time]
  · rw [show d.follower = _ from (congrArg Device.follower hwrote :), hall.follower (Nat.le_refl _), Device.beginTake_follower]
  · rw [show d.mode = _ from (congrArg Device.mode hwrote :), hall.mode (Nat.le_refl _), Device.beginTake_mode]
  · rw [show d.service = _ from (congrArg Device.service hwrote :), hall.service (Nat.le_refl _), Device.beginTake_service]
  · rw [show d.house = _ from (congrArg Device.house hwrote :), hall.house (Nat.le_refl _), Device.beginTake_house]

/-! ## CANCEL by slot -/

theorem cancelRefusal_some {target : Option (Place × Cue)} {revision : Nat} {r : Reason}
    (h : (target = none ∧ r = .notHeld) ∨ ∃ place c, target = some (place, c) ∧ revision ≠ 0 ∧ revision ≠ c.revision ∧ r = .stale) :
    cancelRefusal target revision = some r := by
  rcases h with ⟨rfl, rfl⟩ | ⟨place, c, rfl, hzero, hrevision, rfl⟩
  · rfl
  · exact if_pos ⟨hzero, hrevision⟩

theorem cancelRefusal_none {place : Place} {c : Cue} {revision : Nat} (h : revision = 0 ∨ revision = c.revision) : cancelRefusal (some (place, c)) revision = none :=
  if_neg fun hne => h.elim hne.1 hne.2

theorem State.NextTake.cancel_bound {s : State} {n : Nat} (h : s.NextTake .cancelBySlot n) (hv : s.validate n = none) : s.field n 16 2 < 512 := by
  have hkind : s.kindOf n = 0x20 := h.kind rfl
  have hpayload := (Device.passes_of_validate hv).payload
  rw [Device.badPayload, hkind] at hpayload
  have hcancel := mt Device.badCancel_iff.mpr (Bool.eq_false_iff.mp hpayload)
  have hrow := h.row
  rw [Device.takeRow, hkind] at hrow
  have hoptions : s.optionsOf n ≠ 1 := fun hone => by
    rw [if_pos hone] at hrow
    cases hrow
  omega

/-- Where slot m's cue is found in a port's list or queue, no global cue has that slot. -/
theorem Device.heldAt_global {d : Device} {m : Nat} {place : Place} {c : Cue} (h : d.heldAt m = some (place, c)) (hplace : place ≠ .global) :
    ∀ x ∈ d.globals, x.slot ≠ m := by
  intro x hx hslot
  rw [Device.heldAt, Device.held, List.find?_append] at h
  have hfound : (List.find? (fun x => x.2.slot == m) (d.globals.map fun c => (Place.global, c))).isSome = true := by
    rw [List.find?_isSome]
    exact ⟨(.global, x), List.mem_map_of_mem hx, by simpa using hslot⟩
  obtain ⟨y, hy⟩ := Option.isSome_iff_exists.mp hfound
  rw [hy, Option.some_or, Option.some.injEq] at h
  obtain ⟨z, -, hz⟩ := List.mem_map.mp (List.mem_of_find?_eq_some hy)
  rw [← hz] at h
  exact hplace (congrArg Prod.fst h).symm

/-- A cue cut out of a message queue after its first character owes an ABORT (R140). -/
theorem StepLine.cancel_owes {x : StepLine} {f : Flight} {rest : List Flight} (hqueue : x.queue = f :: rest) (hsent : 0 < f.sent) :
    chAbort ∈ (x.cancel f.cue.slot).owed := by
  unfold StepLine.cancel
  rw [hqueue]
  simp only [beq_self_eq_true, hsent, decide_true, Bool.true_and]
  split
  · simp
  · next h => simpa using h

/-- What an accepted CANCEL by slot leaves before its own slot ends. -/
structure Device.SlotCancelled (d e : Device) (m : Nat) (place : Place) (c : Cue) : Prop where
  keeps : Keeps 1 d e
  shown : e.ShowsCancelled .bySlot d.time m
  firePI : e.field m 52 4 = d.cancelPI place c % 4294967296
  global : place = .global → ∀ x ∈ e.globals, x.slot ≠ m
  planner : place ≠ .global → e.planner = d.planner ∧ e.globals = d.globals
  list : ∀ p, place = .list p → (e.port p).cues = dropCue m (d.port p).cues
  flights : ∀ p, place = .flight p → (e.port p).step.queue.map (·.cue.slot) = ((d.port p).step.queue.map (·.cue.slot)).filter (· != m)
  owes : ∀ p f rest, place = .flight p → (d.port p).step.queue = f :: rest → f.cue.slot = m → 0 < f.sent →
    chAbort ∈ (e.port p).step.owed ∨ ∃ l, (e.port p).step.line = some l ∧ l.code = chAbort

theorem Device.cancelCues_one {d : Device} (hquiet : d.arbiter = []) (hmem : d.MemOk) {m : Nat} (hm : m < 512) {place : Place} {c : Cue}
    (h : d.heldAt m = some (place, c)) : d.SlotCancelled (d.cancelCues .bySlot [m]) m place c := by
  obtain ⟨res, heq, hreason, hpi, htime⟩ := Device.cancelSlot_held (r := .bySlot) h
  have hshown := Device.cancelSlot_shows hquiet hmem .bySlot hm h
  have hkeeps : Keeps 1 d (d.cancelSlot .bySlot m) := .cancelSlot d _ m
  have hidle := hkeeps.arbiter hquiet
  have hstages : ∃ q, Plots (d.cancelSlot .bySlot m) q ∧ Keeps 1 (d.cancelSlot .bySlot m) q ∧ (place ≠ .global → q = d.cancelSlot .bySlot m) ∧
      q.Pumped (d.cancelCues .bySlot [m]) := by
    refine ⟨_, .ite (.replan hidle) (.refl hidle), .ite (.replan _) (.refl _), fun hplace => if_neg ?_, Device.pumpAll_pumped _⟩
    rw [Bool.not_eq_true, List.any_eq_false]
    intro x hx
    simp [Device.heldAt_global h hplace x hx]
  obtain ⟨q, hplots, hplans, hsame, hpumped⟩ := hstages
  generalize d.cancelCues .bySlot [m] = e at *
  generalize hc : d.cancelSlot .bySlot m = a at *
  have haglobals : a.globals = (d.removed place m).globals := by rw [heq, Device.finishSlot_globals]
  have haport : ∀ p, a.port p = (d.removed place m).port p := fun p => by rw [heq, Device.finishSlot_port]
  have haplanner : a.planner = d.planner := by
    rw [heq, Device.finishSlot_planner]
    exact (congrArg Device.planner (Cancels.removed d place m).frame :)
  have hnone : ∀ x ∈ a.globals, x.slot ≠ m := by
    rw [haglobals]
    cases place with
    | global => exact fun x hx => (mem_dropCue.mp hx).2
    | list p => exact fun x hx => Device.heldAt_global h Place.noConfusion x hx
    | flight p => exact fun x hx => Device.heldAt_global h Place.noConfusion x hx
  have hkept : a.SlotKept e m := (hplots.slotKept fun x hx _ => hnone x hx).trans (.of_eq hpumped.mem hpumped.prot)
  refine ⟨(hkeeps.trans hplans).trans (hpumped.keeps 1), hshown.1.kept hkept, ?_, fun _ x hx => ?_, fun hplace => ?_, fun p hplace => ?_, fun p hplace => ?_,
    fun p f rest hplace hqueue hslot hsent => ?_⟩
  · rw [hkept.slot.field 52 4, hshown.2]
  · rw [hpumped.globals] at hx
    obtain ⟨y, hy, hshift⟩ := hplots.came x hx
    rw [hshift.slot]
    exact hnone y hy
  · rw [hpumped.planner, hpumped.globals, hsame hplace, haplanner, haglobals]
    cases place with
    | global => exact absurd rfl hplace
    | list p => exact ⟨rfl, rfl⟩
    | flight p => exact ⟨rfl, rfl⟩
  · rw [hpumped.port p, hsame (by rw [hplace]; simp), haport, hplace]
    simp only [Device.removed, Device.port_modPort_same]
  · have hmap := congrArg (List.map Cue.slot) (hpumped.flights p)
    rw [hsame (by rw [hplace]; simp), haport, hplace, List.map_map, List.map_map] at hmap
    simp only [Device.removed, Device.port_modPort_same, StepLine.cancel_queue] at hmap
    rw [List.filter_map]
    exact hmap
  · have howes : chAbort ∈ (q.port p).step.owed := by
      rw [hsame (by rw [hplace]; simp), haport, hplace, ← hslot]
      simp only [Device.removed, Device.port_modPort_same]
      exact StepLine.cancel_owes hqueue hsent
    rcases hpumped.step p with hstep | hstep
    · rw [hstep]
      exact .inl howes
    · rw [hstep]
      exact StepLine.startNext_owed howes

/-- Settles O29: the refusals of R103 in their order; else the one slot is cancelled, and what R105 has the part do then leaves that slot. -/
theorem cancelBySlot : Obligations.CancelBySlot := by
  unfold Obligations.CancelBySlot
  intro s n m h hv hm
  refine ⟨fun r hr => ?_, fun place c hheld hne hrevision => ?_⟩
  · have hrefuse : cancelRefusal (s.heldAt m) (s.field n 18 2) = some r := cancelRefusal_some hr
    have heffect : TakeRow.cancelBySlot.effect n s.seq (s.beginTake n) = (s.beginTake n).refuse n r := by
      show Device.takeCancelSlot n s.seq (s.beginTake n) = _
      rw [Device.takeCancelSlot, Device.beginTake_field, Device.beginTake_field, Device.heldAt_beginTake, ← hm, hrefuse]
    obtain ⟨hends, hframe, hattn⟩ := h.refused r
    refine ⟨_, ?_, hends, hframe, hattn⟩
    have hexec := h.exec_accepted hv
    rw [heffect] at hexec
    exact hexec
  · have hbound : m < 512 := by
      rw [hm]
      exact h.cancel_bound hv
    have hone := Device.cancelCues_one h.begun_idle h.begun_mem hbound ((Device.heldAt_beginTake s.toDevice n m).trans hheld)
    have heffect : TakeRow.cancelBySlot.effect n s.seq (s.beginTake n) =
        ((s.beginTake n).cancelCues .bySlot [m]).finishSlot n stDone (s.takeResult .none false 0) := by
      show Device.takeCancelSlot n s.seq (s.beginTake n) = _
      rw [Device.takeCancelSlot, Device.beginTake_field, Device.beginTake_field, Device.heldAt_beginTake, ← hm, hheld, cancelRefusal_none hrevision,
        Device.beginTake_takeResult]
      rfl
    obtain ⟨d, hexec, hshows, htaken, hwrote, hattn, hbytes, hprot⟩ := h.shown hv heffect (by decide) (hone.keeps.mono (Nat.zero_le 1))
    generalize (s.beginTake n).cancelCues .bySlot [m] = b at *
    have hkept : b.SlotKept d m := .of_ended hbytes hprot h.slot hne
    have hshown := hone.shown.kept hkept
    have hpi : d.field m 52 4 = (s.beginTake n).cancelPI place c % 4294967296 := by rw [hkept.slot.field 52 4, hone.firePI]
    have hport : ∀ p, d.port p = b.port p := fun p => (congrArg (fun x : Device => x.port p) hwrote :)
    have hplanner : d.planner = b.planner := (congrArg Device.planner hwrote :)
    have hglobals : d.globals = b.globals := (congrArg Device.globals hwrote :)
    refine ⟨d, hexec, hshows, hshown.state, hshown.reason, by rw [hshown.time, Device.beginTake_time], htaken, by rw [hattn]; simp, fun hplace => ⟨?_, ?_⟩,
      fun p hplace => ⟨?_, ?_, ?_⟩, fun p hplace => ⟨?_, ?_, ?_⟩⟩
    · rw [hpi, hplace]
      rfl
    · rw [hglobals]
      exact hone.global hplace
    · rw [hpi, hplace]
      rfl
    · rw [hport, hone.list p hplace, Device.beginTake_port]
    · rw [hplanner, hglobals, (hone.planner (by rw [hplace]; simp)).1, (hone.planner (by rw [hplace]; simp)).2, Device.beginTake_planner, Device.beginTake_globals]
      exact ⟨rfl, rfl⟩
    · rw [hport, hone.flights p hplace, Device.beginTake_port]
    · rw [hplanner, (hone.planner (by rw [hplace]; simp)).1, Device.beginTake_planner]
    · rw [hglobals, (hone.planner (by rw [hplace]; simp)).2, Device.beginTake_globals]
      refine ⟨rfl, fun f rest hqueue hslot hsent => ?_⟩
      rw [hport]
      exact hone.owes p f rest hplace (by rw [Device.beginTake_port]; exact hqueue) hslot hsent

end Sys2Proof.Machine
end

section
/-! PROOFS. Port states (R111, R112, R114, R121): what entering a state changes, and leaving INIT (R168). -/
namespace Sys2Proof.Machine

/-! ## Operations on one port's cues -/

/-- Of port p only the list of HELD cues has changed. -/
structure Recues (p : PortIx) (d e : Device) : Prop extends Local p d e where
  port : e.port p = { d.port p with cues := (e.port p).cues }

section
variable {p : PortIx}

theorem Recues.refl (d : Device) : Recues p d d := ⟨.refl d, rfl⟩

theorem Recues.trans {d e f : Device} (a : Recues p d e) (b : Recues p e f) : Recues p d f := by
  refine ⟨a.toLocal.trans b.toLocal, ?_⟩
  have hb := b.port
  rw [a.port] at hb
  exact hb

theorem Recues.ite {d a b : Device} {c : Prop} [Decidable c] (ha : Recues p d a) (hb : Recues p d b) : Recues p d (if c then a else b) := by
  split <;> assumption

theorem Recues.foldl {α : Type} {f : Device → α → Device} (h : ∀ d a, Recues p d (f d a)) : ∀ (l : List α) (d : Device), Recues p d (l.foldl f d)
  | [], d => .refl d
  | a :: l, d => (h d a).trans (Recues.foldl h l (f d a))

theorem Recues.of_ports {d e : Device} (h : Local p d e) (hport : e.port p = d.port p) : Recues p d e := ⟨h, by rw [hport]⟩

variable (p)

theorem Recues.modCues (d : Device) (f : List Cue → List Cue) : Recues p d (d.modPort p fun x => { x with cues := f x.cues }) := by
  refine ⟨.modPort p d _, ?_⟩
  rw [Device.port_modPort_same]

theorem Recues.endCue (d : Device) (c : Cue) (st : Nat) (r : Reason) (k : Nat) (t : Time) : Recues p d (d.endCue c st r k t) :=
  .of_ports (.endCue p d c st r k t) (Device.finishSlot_port _ _ _ _ _)

theorem Recues.endAttempts (d : Device) (c : Cue) : Recues p d (d.endAttempts c) := by
  unfold Device.endAttempts
  split <;> exact .endCue p d _ _ _ _ _

theorem Recues.writeProgress (d : Device) (c : Cue) (k : Nat) : Recues p d (d.writeProgress c k) := .of_ports (.writeProgress p d c k) (Device.writeProgress_port _ _ _ _)

theorem Recues.enterList (d : Device) (c : Cue) : Recues p d (d.enterList p c) := (Recues.modCues p d (insertCue c)).trans (.writeProgress p _ _ _)

theorem Recues.settleAttempt (d : Device) (c : Cue) : Recues p d (d.settleAttempt p c) := .ite (.endAttempts p d _) (.enterList p d _)

theorem Recues.skipFlights (d : Device) (l : List Flight) : Recues p d (d.skipFlights p l) := by
  unfold Device.skipFlights
  split
  · exact .refl d
  · exact (Recues.settleAttempt p d _).trans (.foldl (fun d g => .settleAttempt p d _) _ _)

theorem Recues.markAll (d : Device) (m : Option Nat) : Recues p d (d.markAll p m) := .modCues p d _

theorem Recues.judgeAtStart (d : Device) (first n : Nat) : Recues p d (d.judgeAtStart first p n) := by
  unfold Device.judgeAtStart
  split
  · exact .refl d
  · exact .ite (.refl d) ((Recues.modCues p d (dropCue n)).trans (.settleAttempt p _ _))

theorem Recues.missLoop (k : Nat) : ∀ (n : Nat) (d : Device), Recues p d (Device.missLoop n d p k)
  | 0, d => .refl d
  | n + 1, d => by
    unfold Device.missLoop
    split
    · exact .refl d
    · exact .ite (.refl d) (((Recues.modCues p d _).trans (.settleAttempt p _ _)).trans (Recues.missLoop k n _))

theorem Recues.missPort (k : Nat) (d : Device) : Recues p d (Device.missPort k d p) := .ite (.refl d) (.missLoop p k _ _)

end

/-! ## Changes of state (R112) -/

theorem Device.setState_port (d : Device) (p : PortIx) (st : PortState) : (d.setState p st).port p = { d.port p with state := st } := by
  unfold Device.setState
  split
  · next h => rw [← h]
  · have hport : (d.modPort p fun x => { x with state := st }).requestStatus.port p = { d.port p with state := st } := by
      rw [Device.requestStatus_port, Device.port_modPort_same]
    dsimp only
    split
    · rw [Device.latch_port, hport]
    · rw [Device.latch_port, hport]
    · rw [Device.latch_port, hport]
    · exact hport

theorem Device.setState_writer {d : Device} {p : PortIx} {st : PortState} (h : (d.port p).state ≠ st) : (d.setState p st).writer.isSome = true := by
  unfold Device.setState
  rw [if_neg h]
  dsimp only
  split <;> exact Device.requestStatus_isSome _

/-- The states whose entry latches PORT (R112). -/
theorem Device.setState_cause {d : Device} {p : PortIx} {st : PortState} (h : (d.port p).state ≠ st) (hst : st = .detached ∨ st = .faulted ∨ st = .locked) :
    (d.setState p st).attn.getLsbD 1 = true := by
  have hlatch : ∀ e : Device, (e.latch .port).attn.getLsbD 1 = true := fun e => by simp [Device.latch, Cause.bit]
  unfold Device.setState
  rw [if_neg h]
  rcases hst with rfl | rfl | rfl <;> exact hlatch _

/-! ## Entry states (R111) -/

/-- Port p has been sent to a state: ports keep their settings and their presence, and the other ones their state. -/
structure Enters (p : PortIx) (d e : Device) : Prop extends Steady d e where
  keeps : Keeps 1 d e
  presence : ∀ q, (e.port q).presence = (d.port q).presence
  states : ∀ q, q ≠ p → (e.port q).state = (d.port q).state
  runs : d.planner.transport ≠ .stopped → e.planner.transport ≠ .stopped
  stopped : d.planner.transport = .stopped →
    e.planner = d.planner ∧ ∀ q, (e.port q).cursor = (d.port q).cursor ∧ ((d.port q).join = none → (e.port q).join = none)

theorem Enters.refl (p : PortIx) (d : Device) : Enters p d d := ⟨.refl d, .refl d, fun _ => rfl, fun _ _ => rfl, id, fun _ => ⟨rfl, fun _ => ⟨rfl, id⟩⟩⟩

theorem Enters.trans {p : PortIx} {d e f : Device} (a : Enters p d e) (b : Enters p e f) : Enters p d f := by
  refine ⟨a.toSteady.trans b.toSteady, a.keeps.trans b.keeps, fun q => (b.presence q).trans (a.presence q), fun q hq => (b.states q hq).trans (a.states q hq),
    b.runs ∘ a.runs, fun h => ?_⟩
  obtain ⟨hplanner, hports⟩ := a.stopped h
  obtain ⟨hplanner', hports'⟩ := b.stopped (by rw [hplanner]; exact h)
  exact ⟨hplanner'.trans hplanner, fun q => ⟨(hports' q).1.trans (hports q).1, (hports' q).2 ∘ (hports q).2⟩⟩

/-- An operation of port p that keeps its presence and, while STOPPED, its cursor and the want of a join. -/
theorem Local.enters {p : PortIx} {d e : Device} (h : Local p d e) (hk : Keeps 1 d e) (hpresence : (e.port p).presence = (d.port p).presence)
    (hstopped : d.planner.transport = .stopped → (e.port p).cursor = (d.port p).cursor ∧ ((d.port p).join = none → (e.port p).join = none)) : Enters p d e := by
  refine ⟨h.toSteady, hk, fun q => ?_, fun q hq => by rw [h.ports q hq], by rw [h.planner]; exact id, fun hs => ⟨h.planner, fun q => ?_⟩⟩
  · rcases Classical.em (q = p) with rfl | hq
    · exact hpresence
    · rw [h.ports q hq]
  · rcases Classical.em (q = p) with rfl | hq
    · exact hstopped hs
    · rw [h.ports q hq]
      exact ⟨rfl, id⟩

theorem Enters.setState (p : PortIx) (d : Device) (st : PortState) : Enters p d (d.setState p st) := by
  refine (Local.setState p d st).enters (.setState d p st) ?_ fun _ => ?_
  · rw [Device.setState_port]
  · rw [Device.setState_port]
    exact ⟨rfl, id⟩

theorem Enters.extend (p : PortIx) (d : Device) : Enters p d d.extend := by
  have h := Replans.extend d
  refine ⟨h.toSteady, .extend d, fun q => ?_, fun q _ => ?_, h.runs, fun hs => ?_⟩
  · rw [h.ports q]
  · rw [h.ports q]
  · rw [Device.extend_stopped hs]
    exact ⟨rfl, fun _ => ⟨rfl, id⟩⟩

theorem Device.extend_state (d : Device) (q : PortIx) : (d.extend.port q).state = (d.port q).state := by rw [(Replans.extend d).ports q]

theorem Device.chooseFirst_stopped {d : Device} (h : d.planner.transport = .stopped) (p : PortIx) : d.chooseFirst p = d := by
  unfold Device.chooseFirst
  exact if_pos (by simp [Device.runUnderWay, h])

theorem Enters.chooseFirst (p : PortIx) (d : Device) : Enters p d (d.chooseFirst p) := by
  have h := Rejoins.chooseFirst p d
  refine h.toLocal.enters (.chooseFirst d p) ?_ fun hs => ?_
  · rw [h.port]
  · rw [Device.chooseFirst_stopped hs]
    exact ⟨rfl, id⟩

theorem Device.levelJoin_stopped {d : Device} (h : d.planner.transport = .stopped) (p : PortIx) :
    (d.levelJoin p).port p = { d.port p with join := none, mixer := (d.port p).mixer.forget, cues := (d.port p).cues.map fun c => { c with mark := none } } := by
  unfold Device.levelJoin Device.markAll
  rw [if_neg (by simp [Device.runUnderWay, h]), Device.port_modPort_same, Device.port_modPort_same]

/-- R121: the port's record after a LEVEL port's join in a run. -/
theorem Device.levelJoin_running {d : Device} (h : d.planner.transport ≠ .stopped) (p : PortIx) :
    (d.levelJoin p).port p = { d.port p with
      join := some (d.levelJoinPulse p), cursor := d.levelJoinPulse p, mixer := (d.port p).mixer.forget,
      cues := (d.port p).cues.map fun c => { c with mark := some (d.levelJoinPulse p) } } := by
  unfold Device.levelJoin Device.markAll
  rw [if_pos (runUnderWay_iff.mpr h), Device.port_modPort_same, Device.port_modPort_same]

theorem Device.levelJoin_kept (d : Device) (p : PortIx) :
    ((d.levelJoin p).port p).state = (d.port p).state ∧ ((d.levelJoin p).port p).presence = (d.port p).presence := by
  by_cases h : d.planner.transport = .stopped
  · rw [Device.levelJoin_stopped h]
    exact ⟨rfl, rfl⟩
  · rw [Device.levelJoin_running h]
    exact ⟨rfl, rfl⟩

theorem Enters.levelJoin (p : PortIx) (d : Device) : Enters p d (d.levelJoin p) := by
  refine (Local.levelJoin p d).enters (.levelJoin d p) (d.levelJoin_kept p).2 fun hs => ?_
  rw [Device.levelJoin_stopped hs]
  exact ⟨rfl, fun _ => rfl⟩

theorem Device.firstFrame_port (d : Device) (p : PortIx) : ((d.firstFrame p).port p) = { d.port p with frames := ((d.firstFrame p).port p).frames } := by
  unfold Device.firstFrame Device.beginFrame
  split <;> rw [Device.port_modPort_same]

theorem Enters.firstFrame (p : PortIx) (d : Device) : Enters p d (d.firstFrame p) := by
  refine (Local.firstFrame p d).enters (.firstFrame d p) ?_ fun _ => ?_
  · rw [Device.firstFrame_port]
  · rw [Device.firstFrame_port]
    exact ⟨rfl, id⟩

/-- R112, R115: the port's record in the state it has dropped to. -/
theorem Device.dropTo_port (d : Device) (p : PortIx) (st : PortState) : (d.dropTo p st).port p =
    { (d.port p).stopped false d.time with state := st, cues := ((d.dropTo p st).port p).cues } := by
  have h := (Recues.skipFlights p (((d.modPort p fun x => x.stopped false d.time).setState p st)) (d.port p).step.queue).port
  rw [Device.setState_port, Device.port_modPort_same] at h
  exact h

theorem Enters.dropTo (p : PortIx) (d : Device) (st : PortState) : Enters p d (d.dropTo p st) := by
  refine (Local.dropTo p d st).enters (.dropTo d p st) ?_ fun _ => ?_
  · rw [Device.dropTo_port]
    rfl
  · rw [Device.dropTo_port]
    exact ⟨rfl, fun _ => rfl⟩

theorem Enters.enter (p : PortIx) (d : Device) : Enters p d (d.enter p) := by
  unfold Device.enter
  split
  · exact ((Enters.setState p d _).trans (.extend p _)).trans (.chooseFirst p _)
  · exact (((Enters.setState p d _).trans (.extend p _)).trans (.levelJoin p _)).trans (.firstFrame p _)
  · exact .dropTo p d _

theorem Device.enter_state (d : Device) (p : PortIx) : ((d.enter p).port p).state = d.entryState p := by
  unfold Device.enter
  split
  · next h =>
    rw [h, Device.enterAcquiring, (Rejoins.chooseFirst p _).port]
    show ((d.setState p .acquiring).extend.port p).state = _
    rw [Device.extend_state, Device.setState_port]
  · next h =>
    rw [h, Device.enterLevel, Device.firstFrame_port]
    show (((d.setState p .locked).extend.levelJoin p).port p).state = _
    rw [(Device.levelJoin_kept _ p).1, Device.extend_state, Device.setState_port]
  · rw [Device.dropTo_port]

theorem Device.entryState_eq {d : Device} (h : d.mode ≠ .init) (p : PortIx) : d.entryState p = entryOf (d.port p).settings (d.port p).presence := by
  unfold Device.entryState entryOf
  rw [if_neg h]

/-! ## Leaving INIT -/

/-- Every port of l has been sent to its entry state. -/
structure Device.Entered (d e : Device) (l : List PortIx) : Prop extends Steady d e where
  keeps : Keeps 1 d e
  presence : ∀ q, (e.port q).presence = (d.port q).presence
  states : ∀ q, (e.port q).state = if q ∈ l then entryOf (d.port q).settings (d.port q).presence else (d.port q).state
  runs : d.planner.transport ≠ .stopped → e.planner.transport ≠ .stopped
  stopped : d.planner.transport = .stopped →
    e.planner = d.planner ∧ ∀ q, (e.port q).cursor = (d.port q).cursor ∧ ((d.port q).join = none → (e.port q).join = none)

theorem Device.enters_all (l : List PortIx) : ∀ {d : Device}, d.mode ≠ .init → d.Entered (l.foldl Device.enter d) l := by
  induction l with
  | nil => exact fun {d} _ => ⟨.refl d, .refl d, fun _ => rfl, fun _ => rfl, id, fun _ => ⟨rfl, fun _ => ⟨rfl, id⟩⟩⟩
  | cons p l ih =>
    intro d hmode
    have hp := Enters.enter p d
    have hl := ih (d := d.enter p) (by rw [hp.keeps.mode (Nat.le_refl _)]; exact hmode)
    refine ⟨hp.toSteady.trans hl.toSteady, hp.keeps.trans hl.keeps, fun q => (hl.presence q).trans (hp.presence q), fun q => ?_, hl.runs ∘ hp.runs,
      fun hs => ?_⟩
    · rw [List.foldl_cons, hl.states q, hp.keeps.cfg (Nat.le_refl _), hp.presence]
      rcases Classical.em (q = p) with rfl | hq
      · rw [Device.enter_state, Device.entryState_eq hmode, ite_self, if_pos List.mem_cons_self]
      · rw [hp.states q hq]
        simp [hq]
    · obtain ⟨hplanner, hports⟩ := hp.stopped hs
      obtain ⟨hplanner', hports'⟩ := hl.stopped (by rw [hplanner]; exact hs)
      exact ⟨hplanner'.trans hplanner, fun q => ⟨(hports' q).1.trans (hports q).1, (hports' q).2 ∘ (hports q).2⟩⟩

/-- The device as INIT is left, before the ports enter their states (R168). -/
def Device.attending (d : Device) (w : Word) : Device :=
  { d with
    runEnable := wordBit w 0, attnEnable := w.extractLsb' 1 6,
    service := { d.service with recent := .none, phase := .long, start := d.time, length := 2000000, carry := none } }.setMode .attended

theorem Device.controlWrite_leavesInit {d : Device} {w : Word} (hrestart : wordBit w 8 = false) (hclear : wordBit w 9 = false) (hrelease : wordBit w 10 = false)
    (hrun : wordBit w 0 = true) (hinit : d.mode = .init) : d.controlWrite w = allPorts.foldl Device.enter (d.attending w) := by
  unfold Device.controlWrite
  simp only [hrestart, hclear, hrelease, Bool.false_eq_true, if_false]
  exact if_pos ⟨hrun, hinit⟩

/-- Settles O12: the ports enter their states one after the other, and none of them changes another's state, settings or presence. -/
theorem initExit : Obligations.InitExit := by
  unfold Obligations.InitExit
  intro w s hrestart hclear hrelease hrun hinit
  have heq := Device.controlWrite_leavesInit (d := s.presenting) hrestart hclear hrelease hrun hinit
  obtain ⟨b, hb⟩ : ∃ b, b = s.presenting.attending w := ⟨_, rfl⟩
  have hmode : b.mode = .attended := by rw [hb]; exact Device.setMode_mode _ _
  have hport : ∀ p, b.port p = s.port p := fun p => by rw [hb]; exact Device.setMode_port _ _ _
  have hall := Device.enters_all allPorts (d := b) (by rw [hmode]; decide)
  rw [← hb] at heq
  have hexec : ∀ c, isAlone c = false → operationOf c s.presenting = s.presenting.controlWrite w →
      exec c s = .next { s with toDevice := s.noted (allPorts.foldl Device.enter b) } := fun c hc hop => by
    rw [exec_noted hc, hop, heq]
  refine ⟨_, hexec _ rfl rfl, hexec _ rfl rfl, ?_⟩
  generalize allPorts.foldl Device.enter b = e at *
  refine ⟨(hall.keeps.mode (Nat.le_refl _)).trans hmode, ?_, ?_, ?_, ?_, ?_, fun p => ?_, fun p => ?_, ?_, ?_, fun hs p => ?_⟩
  · refine hall.keeps.runEnable.trans ?_
    rw [hb, Device.attending, Device.setMode_eq]
    exact hrun
  · refine hall.keeps.attnEnable.trans ?_
    rw [hb, Device.attending, Device.setMode_eq]
  · exact Device.getLsbD_attn_of_keeps hall.keeps (by rw [hb]; exact Device.setMode_attn _ _)
  · exact hall.writer (by rw [hb]; exact Device.setMode_writer _ _)
  · refine (hall.keeps.service (Nat.le_refl _)).trans ?_
    rw [hb, Device.attending, Device.setMode_service]
    rfl
  · refine (hall.states p).trans ?_
    rw [if_pos (Device.mem_allPorts p), hport]
  · exact (hall.keeps.cfg (Nat.le_refl _) p).trans (by rw [hport])
  · refine (hall.keeps.follower (Nat.le_refl _)).trans ?_
    rw [hb, Device.attending, Device.setMode_follower]
    rfl
  · refine (hall.keeps.house (Nat.le_refl _)).trans ?_
    rw [hb, Device.attending, Device.setMode_house]
    rfl
  · have hplanner : b.planner = s.planner := by
      rw [hb, Device.attending, Device.setMode_planner]
      rfl
    have h := (hall.stopped (by rw [hplanner]; exact hs)).2 p
    rw [hport] at h
    exact h

end Sys2Proof.Machine
end

section
/-! PROOFS. The soft restart (R174, R16, R82, R84, R102, R125), block by block. -/
namespace Sys2Proof.Machine

/-! ## The status write under way ends (R174, R162) -/

/-- Only the status page's writer and the memory have changed. -/
def PageOnly (d e : Device) : Prop := e = { d with mem := e.mem, writer := e.writer, writerAgain := e.writerAgain }

theorem PageOnly.trans {d e f : Device} (a : PageOnly d e) (b : PageOnly e f) : PageOnly d f :=
  Eq.trans b (congrArg (fun x : Device => { x with mem := f.mem, writer := f.writer, writerAgain := f.writerAgain }) a)

theorem PageOnly.poke {d : Device} (h : d.arbiter = []) (a n v : Nat) : PageOnly d (d.poke a n v) := by
  rw [Device.poke_quiet h]
  rfl

theorem PageOnly.statusStep {d : Device} (h : d.arbiter = []) : PageOnly d d.statusStep := by
  have haccess : ∀ n, PageOnly d (d.statusAccess n) := fun n => by
    unfold Device.statusAccess
    split
    · exact .poke h _ _ _
    · split
      · exact .poke h _ _ _
      · exact .poke h _ _ _
  have hend : ∀ e : Device, PageOnly e e.endWrite := fun e => by
    unfold Device.endWrite
    split <;> rfl
  have hmade : ∀ (e : Device) (w : Option Writer), PageOnly e { e with writer := w } := fun _ _ => rfl
  unfold Device.statusStep
  split
  · rfl
  · dsimp only
    split
    · exact ((haccess _).trans (hmade _ _)).trans (hend _)
    · exact (haccess _).trans (hmade _ _)

theorem PageOnly.statusRun : ∀ (n : Nat) {d : Device}, d.arbiter = [] → PageOnly d (Device.statusRun n d)
  | 0, _, _ => rfl
  | n + 1, _, h => by
    have hstep := PageOnly.statusStep h
    exact hstep.trans (PageOnly.statusRun n ((congrArg Device.arbiter hstep :).trans h))

theorem PageOnly.finishWrite {d : Device} (h : d.arbiter = []) : PageOnly d d.finishWrite := by
  unfold Device.finishWrite
  split
  · exact .statusRun _ h
  · rfl

/-! ## The ports -/

/-- Only ports and requests for a status write have changed. -/
def PortsOnly (d e : Device) : Prop := e = { d with ports := e.ports, writer := e.writer, writerAgain := e.writerAgain }

theorem PortsOnly.trans {d e f : Device} (a : PortsOnly d e) (b : PortsOnly e f) : PortsOnly d f :=
  Eq.trans b (congrArg (fun x : Device => { x with ports := f.ports, writer := f.writer, writerAgain := f.writerAgain }) a)

theorem PortsOnly.modPort (d : Device) (p : PortIx) (f : Port → Port) : PortsOnly d (d.modPort p f) := rfl

theorem PortsOnly.requestStatus (d : Device) : PortsOnly d d.requestStatus := by
  unfold Device.requestStatus
  split <;> rfl

theorem PortsOnly.foldl {f : Device → PortIx → Device} (h : ∀ d p, PortsOnly d (f d p)) : ∀ (l : List PortIx) (d : Device), PortsOnly d (l.foldl f d)
  | [], _ => rfl
  | p :: l, d => (h d p).trans (PortsOnly.foldl h l (f d p))

theorem PortsOnly.pump (d : Device) (p : PortIx) : PortsOnly d (d.pump p) := by
  unfold Device.pump
  split
  · rfl
  · exact .modPort d p _

theorem PortsOnly.restartPort (run : Bool) (d : Device) (p : PortIx) : PortsOnly d (Device.restartPort run d p) := by
  have h : PortsOnly d ((d.modPort p fun x => x.restarted d.keep run d.time).pump p) := (PortsOnly.modPort d p _).trans (.pump _ p)
  unfold Device.restartPort
  dsimp only
  split
  · exact h
  · exact h.trans (.requestStatus _)

theorem Local.restartPort (run : Bool) (p : PortIx) (d : Device) : Local p d (Device.restartPort run d p) := by
  have h : Local p d ((d.modPort p fun x => x.restarted d.keep run d.time).pump p) := (Local.modPort p d _).trans (.pump p _)
  exact .ite h (h.trans (.requestStatus p _))

/-- R125: what a soft restart leaves of a port; its transmitter may have begun an ABORT or a STOP. -/
theorem Device.restartPort_port (run : Bool) (d : Device) (p : PortIx) : ∃ step : StepLine,
    (Device.restartPort run d p).port p = { (d.port p).restarted d.keep run d.time with step := step } ∧ step.queue = [] := by
  have h := Reforms.pump p (d.modPort p fun x => x.restarted d.keep run d.time)
  have hform : ((d.modPort p fun x => x.restarted d.keep run d.time).pump p).port p =
      { (d.port p).restarted d.keep run d.time with step := (((d.modPort p fun x => x.restarted d.keep run d.time).pump p).port p).step } := by
    unfold Device.pump
    split
    · rw [Device.port_modPort_same]
    · rw [Device.choose, Device.port_modPort_same, Device.port_modPort_same]
  have hflights := h.flights
  rw [Device.port_modPort_same] at hflights
  refine ⟨_, ?_, List.map_eq_nil_iff.mp hflights⟩
  unfold Device.restartPort
  dsimp only
  split
  · exact hform
  · rw [Device.requestStatus_port]
    exact hform

theorem Device.restartPorts_port (run : Bool) (d : Device) (p : PortIx) : ∃ step : StepLine,
    (d.eachPort (Device.restartPort run)).port p = { (d.port p).restarted d.keep run d.time with step := step } ∧ step.queue = [] := by
  obtain ⟨before, _, hsame, -, hport⟩ := Device.eachPort_at (Local.restartPort run) d p
  have hframe := PortsOnly.foldl (PortsOnly.restartPort run) before d
  generalize before.foldl (Device.restartPort run) d = e at *
  have hkeep : e.keep = d.keep := (congrArg Device.keep hframe :)
  have htime : e.time = d.time := (congrArg Device.time hframe :)
  obtain ⟨step, heq, hqueue⟩ := e.restartPort_port run p
  rw [hsame, hkeep, htime] at heq
  exact ⟨step, hport.trans heq, hqueue⟩

/-! ## The transport, the follower and the intake unit -/

theorem Device.restartTransport_eq (d : Device) : d.restartTransport =
    { d with planner := Planner.reset, attn := d.restartTransport.attn, writer := d.restartTransport.writer, writerAgain := d.restartTransport.writerAgain } := by
  unfold Device.restartTransport Device.setTransport Device.requestStatus
  split
  · rfl
  · split <;> rfl

theorem Device.restartTransport_cause {d : Device} (h : d.planner.transport ≠ .stopped) : d.restartTransport.attn.getLsbD 5 = true := by
  unfold Device.restartTransport Device.setTransport
  rw [if_neg h, Device.requestStatus_attn]
  simp [Device.latch, Cause.bit]

theorem Device.setFollower_eq (d : Device) (st : FollowerState) : d.setFollower st =
    { d with
      follower := { d.follower with state := st }, attn := (d.setFollower st).attn, writer := (d.setFollower st).writer,
      writerAgain := (d.setFollower st).writerAgain } := by
  unfold Device.setFollower
  split
  · next h => rw [← h]
  · unfold Device.requestStatus
    split <;> rfl

/-- Table 4-2: the follower after a soft restart. -/
theorem Device.restartFollower_eq (d : Device) : ∃ f : Follower, f = d.follower.restarted d.keep ∧ d.restartFollower =
    { d with
      follower := { f with state := if f.follow then .seeking else .off }, attn := d.restartFollower.attn, writer := d.restartFollower.writer,
      writerAgain := d.restartFollower.writerAgain } :=
  ⟨_, rfl, Device.setFollower_eq { d with follower := d.follower.restarted d.keep } _⟩

theorem Follower.restarted_follow (f : Follower) (keep : Bool) : (f.restarted keep).follow = (keep && f.follow) := by
  cases keep <;> rfl

theorem Device.restartIntake_eq (d : Device) : d.restartIntake =
    { d with notices := [], overflow := false, sweep := .visiting 0, writer := d.restartIntake.writer, writerAgain := d.restartIntake.writerAgain } := by
  unfold Device.restartIntake Device.requestStatus
  dsimp only
  split
  · split <;> rfl
  · rfl

/-- After its cancels a soft restart writes no slot, and leaves these registers. -/
structure Device.RestartEnds (run : Bool) (d e : Device) : Prop where
  frame : e = { d with
    planner := Planner.reset, ports := e.ports, follower := e.follower, notices := [], overflow := false, sweep := .visiting 0, attn := e.attn,
    writer := e.writer, writerAgain := e.writerAgain }
  cause : d.planner.transport ≠ .stopped → e.attn.getLsbD 5 = true
  attn : ∃ x, e.attn = d.attn ||| x
  port : ∀ p, ∃ step : StepLine, e.port p = { (d.port p).restarted d.keep run d.time with step := step } ∧ step.queue = []
  follower : ∃ f : Follower, f = d.follower.restarted d.keep ∧ e.follower = { f with state := if f.follow then .seeking else .off }

theorem Device.restartEnds (run : Bool) (d : Device) :
    d.RestartEnds run (((d.restartTransport.eachPort (Device.restartPort run)).restartFollower).restartIntake) := by
  have hpassing : Passing d (((d.restartTransport.eachPort (Device.restartPort run)).restartFollower).restartIntake) :=
    (((Keeps.restartTransport d).passing.trans (Keeps.eachPort (Keeps.restartPort run) _).passing).trans (Keeps.restartFollower _).passing).trans (Passing.restartIntake _)
  have ha := d.restartTransport_eq
  have hcause := fun h => Device.restartTransport_cause (d := d) h
  generalize d.restartTransport = a at *
  have hb : PortsOnly a (a.eachPort (Device.restartPort run)) := PortsOnly.foldl (PortsOnly.restartPort run) allPorts a
  have hport := a.restartPorts_port run
  generalize a.eachPort (Device.restartPort run) = b at *
  obtain ⟨f, hf, hc⟩ := b.restartFollower_eq
  have hpass : ∃ x, b.restartFollower.attn = b.attn ||| x := (Keeps.restartFollower b).attn
  generalize b.restartFollower = c at *
  have he := c.restartIntake_eq
  generalize c.restartIntake = e at *
  have hframe : e = { d with
      planner := Planner.reset, ports := e.ports, follower := e.follower, notices := [], overflow := false, sweep := .visiting 0, attn := e.attn,
      writer := e.writer, writerAgain := e.writerAgain } := by
    have h := hb
    unfold PortsOnly at h
    rw [ha] at h
    rw [h] at hc
    rw [hc] at he
    rw [he]
  refine ⟨hframe, fun hrun => ?_, hpassing.attn, fun p => ?_, ?_⟩
  · obtain ⟨x, hx⟩ := hpass
    rw [show e.attn = c.attn from (congrArg Device.attn he :), hx, show b.attn = a.attn from (congrArg Device.attn hb :), BitVec.getLsbD_or, hcause hrun, Bool.true_or]
  · obtain ⟨step, heq, hqueue⟩ := hport p
    refine ⟨step, ?_, hqueue⟩
    rw [show e.port p = b.port p from ((congrArg (fun x : Device => x.port p) he :).trans (congrArg (fun x : Device => x.port p) hc :)), heq,
      show a.port p = d.port p from (congrArg (fun x : Device => x.port p) ha :), show a.keep = d.keep from (congrArg Device.keep ha :),
      show a.time = d.time from (congrArg Device.time ha :)]
  · refine ⟨f, ?_, (congrArg Device.follower he :).trans (congrArg Device.follower hc :)⟩
    rw [hf, show b.follower = d.follower from (congrArg Device.follower hb :).trans (congrArg Device.follower ha :),
      show b.keep = d.keep from (congrArg Device.keep hb :).trans (congrArg Device.keep ha :)]

end Sys2Proof.Machine
end

section
/-! PROOFS. The RESTART write (R174): what the rest of the CONTROL write does first, and what the soft restart then leaves. -/
namespace Sys2Proof.Machine

/-! ## The rest of the CONTROL write -/

/-- The CONTROL write without its RESTART (R165). -/
def Device.beforeRestart (d : Device) (w : Word) : Device :=
  let d1 := d.controlEnables w
  let d2 := if wordBit w 10 then d1.captureRelease else d1
  if wordBit w 9 then d2.houseClear else d2

theorem Device.controlWrite_restart (d : Device) (w : Word) : d.controlWrite (w ||| 0x100) = (d.beforeRestart w).restart := by
  have hactions : wordBit (w ||| 0x100) 10 = wordBit w 10 ∧ wordBit (w ||| 0x100) 9 = wordBit w 9 ∧ wordBit (w ||| 0x100) 8 = true := by
    simp [wordBit]
  have henables : d.controlEnables (w ||| 0x100) = d.controlEnables w := by
    simp [Device.controlEnables, wordBit, BitVec.extractLsb'_or]
  obtain ⟨hrelease, hclear, hrestart⟩ := hactions
  simp only [Device.controlWrite, Device.beforeRestart, henables, hrelease, hclear, hrestart, if_true]

/-- What CAPTURE_RELEASE and HOUSE_CLEAR leave as it was. -/
def ModeOnly (d e : Device) : Prop :=
  e = { d with mode := e.mode, capture := e.capture, attn := e.attn, writer := e.writer, writerAgain := e.writerAgain }

theorem ModeOnly.refl (d : Device) : ModeOnly d d := rfl

theorem ModeOnly.trans {d e f : Device} (a : ModeOnly d e) (b : ModeOnly e f) : ModeOnly d f :=
  Eq.trans b (congrArg (fun x : Device => { x with mode := f.mode, capture := f.capture, attn := f.attn, writer := f.writer, writerAgain := f.writerAgain }) a)

theorem ModeOnly.captureRelease (d : Device) : ModeOnly d d.captureRelease := by
  unfold Device.captureRelease
  split
  · rfl
  · unfold Device.requestStatus
    split <;> rfl

theorem ModeOnly.houseClear (d : Device) : ModeOnly d d.houseClear := by
  unfold Device.houseClear
  split
  · unfold Device.setMode Device.requestStatus
    split <;> rfl
  · rfl

/-- What a CONTROL write leaves of the part before its RESTART. -/
structure Device.Prelude (d e : Device) (w : Word) : Prop where
  keeps : Keeps 0 (d.withEnables w) e
  presence : ∀ p, (e.port p).presence = (d.port p).presence
  settings : ∀ p, (e.port p).settings = (d.port p).settings
  follower : e.follower = d.follower
  house : e.house = d.house
  service : e.service.window = d.service.window ∧ e.service.period = d.service.period ∧ e.service.carryLimit = d.service.carryLimit
  runs : d.planner.transport ≠ .stopped → e.planner.transport ≠ .stopped
  stays : (wordBit w 0 = true → d.mode ≠ .init) → e.ports = d.ports ∧ e.globals = d.globals ∧ (wordBit w 10 = false → e.capture = d.capture)

/-- The enables, with the exit from INIT where the write makes it. -/
theorem Device.controlEnables_prelude (d : Device) (w : Word) : d.Prelude (d.controlEnables w) w := by
  by_cases hleave : wordBit w 0 = true ∧ d.mode = .init
  · have heq : d.controlEnables w = allPorts.foldl Device.enter (d.attending w) := if_pos hleave
    have hall := Device.enters_all allPorts (d := d.attending w) (by rw [Device.attending, Device.setMode_mode]; decide)
    have hstart : Keeps 0 (d.withEnables w) (d.attending w) := Keeps.ofService.trans (.setMode _ _)
    have hport : ∀ p, (d.attending w).port p = d.port p := fun p => Device.setMode_port _ _ p
    have hservice : (d.attending w).service = _ := Device.setMode_service _ _
    rw [heq]
    refine ⟨hstart.trans (hall.keeps.mono (Nat.zero_le 1)), fun p => ?_, fun p => ?_, ?_, ?_, ?_, ?_, fun hstay => absurd hleave.2 (hstay hleave.1)⟩
    · rw [hall.presence, hport]
    · rw [hall.keeps.cfg (Nat.le_refl _), hport]
    · exact (hall.keeps.follower (Nat.le_refl _)).trans (Device.setMode_follower _ _)
    · exact (hall.keeps.house (Nat.le_refl _)).trans (Device.setMode_house _ _)
    · rw [hall.keeps.service (Nat.le_refl _), hservice]
      exact ⟨rfl, rfl, rfl⟩
    · intro h
      refine hall.runs ?_
      rw [show (d.attending w).planner = d.planner from Device.setMode_planner _ _]
      exact h
  · have heq : d.controlEnables w = d.withEnables w := if_neg hleave
    rw [heq]
    exact ⟨.refl _, fun _ => rfl, fun _ => rfl, rfl, rfl, ⟨rfl, rfl, rfl⟩, id, fun _ => ⟨rfl, rfl, fun _ => rfl⟩⟩

theorem Device.Prelude.after {d e f : Device} {w : Word} (h : d.Prelude e w) (hm : ModeOnly e f) (hk : Keeps 0 e f)
    (hcapture : wordBit w 10 = false → f.capture = e.capture) : d.Prelude f w := by
  have hport : ∀ p, f.port p = e.port p := fun p => (congrArg (fun x : Device => x.port p) hm :)
  have hservice : f.service = e.service := (congrArg Device.service hm :)
  have hplanner : f.planner = e.planner := (congrArg Device.planner hm :)
  refine ⟨h.keeps.trans hk, fun p => by rw [hport, h.presence], fun p => by rw [hport, h.settings], (congrArg Device.follower hm :).trans h.follower,
    (congrArg Device.house hm :).trans h.house, by rw [hservice]; exact h.service, by rw [hplanner]; exact h.runs, fun hstay => ?_⟩
  obtain ⟨hports, hglobals, hcap⟩ := h.stays hstay
  exact ⟨(congrArg Device.ports hm :).trans hports, (congrArg Device.globals hm :).trans hglobals, fun h10 => (hcapture h10).trans (hcap h10)⟩

theorem Device.beforeRestart_prelude (d : Device) (w : Word) : d.Prelude (d.beforeRestart w) w := by
  have henables := d.controlEnables_prelude w
  have hrelease : d.Prelude (if wordBit w 10 then (d.controlEnables w).captureRelease else d.controlEnables w) w := by
    split
    · next h10 => exact henables.after (.captureRelease _) (.captureRelease _) fun h => by rw [h10] at h; cases h
    · exact henables
  unfold Device.beforeRestart
  dsimp only
  split
  · exact hrelease.after (.houseClear _) (.houseClear _) fun _ => Device.houseClear_capture _
  · exact hrelease

/-! ## The soft restart -/

/-- What a soft restart of d leaves. -/
structure Device.Restarted (d e : Device) : Prop where
  mode : e.mode = .init
  runEnable : e.runEnable = false
  attnEnable : e.attnEnable = d.attnEnable
  cause : e.attn.getLsbD 3 = true
  planner : e.planner = Planner.reset
  transport : d.planner.transport ≠ .stopped → e.attn.getLsbD 5 = true
  service : e.service = d.service.restarted d.keep
  keepPending : e.keepPending = none
  keep : e.keep = d.keep
  house : e.house = if d.keep then d.house else Vector.replicate 192 255
  port : ∀ p, ∃ (x : Port) (step : StepLine), e.port p = { x.restarted d.keep d.runUnderWay d.time with step := step } ∧ step.queue = [] ∧
    x.presence = (d.port p).presence ∧ x.settings = (d.port p).settings
  follower : ∃ f : Follower, f = d.follower.restarted d.keep ∧ e.follower = { f with state := if f.follow then .seeking else .off }
  intake : e.notices = [] ∧ e.overflow = false ∧ e.sweep = .visiting 0 ∧ e.seq = d.seq
  capture : e.capture = d.capture
  cancelled : d.MemOk → d.heldSlots.Nodup → (∀ n ∈ d.heldSlots, n < 512) →
    e.globals = [] ∧ (∀ p, (e.port p).cues = []) ∧ ∀ n ∈ d.heldSlots, e.ShowsCancelled .restart d.time n

theorem Cancels.foldl (r : Reason) : ∀ (l : List Nat) {d : Device}, d.arbiter = [] → Cancels d (l.foldl (fun d n => d.cancelSlot r n) d)
  | [], d, _ => .refl d
  | n :: l, d, h => (Cancels.cancelSlot h r n).trans (Cancels.foldl r l ((Keeps.cancelSlot (n := 0) d r n).arbiter h))

theorem Cancels.cancelSlots {d : Device} (h : d.arbiter = []) (r : Reason) (l : List Nat) : Cancels d (d.cancelSlots r l) := .foldl r _ h

theorem Device.restart_restarted {d : Device} (hquiet : d.arbiter = []) : d.Restarted d.restart := by
  have hcapture : d.restart.capture = d.capture := (CaptureStays.restart d hquiet).2
  rw [Device.restart_eq] at hcapture ⊢
  have hwrite := PageOnly.finishWrite hquiet
  have hmemOk : d.MemOk → d.finishWrite.MemOk := (Keeps.finishWrite (n := 0) d).mem
  have hrun : d.finishWrite.runUnderWay = d.runUnderWay := by rw [Device.runUnderWay, show d.finishWrite.planner = d.planner from (congrArg Device.planner hwrite :)]; rfl
  rw [hrun] at hcapture ⊢
  generalize d.finishWrite = f at *
  obtain ⟨b, hb⟩ : ∃ b, b = f.restartRegisters.setMode .init := ⟨_, rfl⟩
  have hbase : b.arbiter = [] := by rw [hb, Device.setMode_arbiter]; exact (congrArg Device.arbiter hwrite :).trans hquiet
  have hcancels : Cancels b f.restartCancels := by
    rw [Device.restartCancels, ← hb]
    exact .cancelSlots hbase _ _
  have hkeeps : Keeps 0 b f.restartCancels := by
    rw [Device.restartCancels, ← hb]
    exact .cancelSlots b _ _
  have hall : b.MemOk → (∀ n ∈ b.heldSlots, n < 512) → b.CancelsAll f.restartCancels .restart b.heldSlots := fun hm hn => by
    rw [Device.restartCancels, ← hb]
    exact Device.cancelSlots_all hbase hm hn _ _
  generalize f.restartCancels = c at *
  have hends := c.restartEnds d.runUnderWay
  generalize ((c.restartTransport.eachPort (Device.restartPort d.runUnderWay)).restartFollower).restartIntake = e at *
  -- one equation from d up to the cancels
  have hstart : b = { d with
      mem := f.mem, writer := b.writer, writerAgain := b.writerAgain, runEnable := false, service := d.service.restarted d.keep, keepPending := none
      house := if d.keep then d.house else Vector.replicate 192 255, mode := .init, attn := d.attn ||| Cause.bit .mode } := by
    have hset := Device.setMode_eq f.restartRegisters .init
    rw [← hb] at hset
    rw [hset]
    unfold Device.restartRegisters
    rw [hwrite]
  have hport : ∀ p, b.port p = d.port p := fun p => (congrArg (fun x : Device => x.port p) hstart :)
  have hslots : b.heldSlots = d.heldSlots := (congrArg Device.heldSlots hstart :)
  have htime : c.time = d.time := (congrArg Device.time hcancels.frame :).trans (congrArg Device.time hstart :)
  have hkeep : c.keep = d.keep := (congrArg Device.keep hcancels.frame :).trans (congrArg Device.keep hstart :)
  constructor
  case mode => exact ((congrArg Device.mode hends.frame :).trans (congrArg Device.mode hcancels.frame :)).trans (congrArg Device.mode hstart :)
  case runEnable => exact ((congrArg Device.runEnable hends.frame :).trans (congrArg Device.runEnable hcancels.frame :)).trans (congrArg Device.runEnable hstart :)
  case attnEnable => exact ((congrArg Device.attnEnable hends.frame :).trans (congrArg Device.attnEnable hcancels.frame :)).trans (congrArg Device.attnEnable hstart :)
  case cause =>
    obtain ⟨x, hx⟩ := hends.attn
    rw [hx, BitVec.getLsbD_or, Device.getLsbD_attn_of_keeps hkeeps (by rw [hb]; exact Device.setMode_attn _ _), Bool.true_or]
  case planner => exact (congrArg Device.planner hends.frame :)
  case transport =>
    intro h
    refine hends.cause ?_
    rw [show c.planner = d.planner from (congrArg Device.planner hcancels.frame :).trans (congrArg Device.planner hstart :)]
    exact h
  case service => exact ((congrArg Device.service hends.frame :).trans (congrArg Device.service hcancels.frame :)).trans (congrArg Device.service hstart :)
  case keepPending => exact ((congrArg Device.keepPending hends.frame :).trans (congrArg Device.keepPending hcancels.frame :)).trans (congrArg Device.keepPending hstart :)
  case keep => exact (congrArg Device.keep hends.frame :).trans hkeep
  case house => exact ((congrArg Device.house hends.frame :).trans (congrArg Device.house hcancels.frame :)).trans (congrArg Device.house hstart :)
  case port =>
    intro p
    obtain ⟨step, heq, hqueue⟩ := hends.port p
    rw [hkeep, htime] at heq
    refine ⟨_, step, heq, hqueue, ?_, ?_⟩
    · rw [hcancels.ports p, hport]
    · rw [hcancels.ports p, hport]
  case follower =>
    obtain ⟨g, hg, hstate⟩ := hends.follower
    refine ⟨g, ?_, hstate⟩
    rw [hg, hkeep, show c.follower = d.follower from (congrArg Device.follower hcancels.frame :).trans (congrArg Device.follower hstart :)]
  case intake =>
    exact ⟨(congrArg Device.notices hends.frame :), (congrArg Device.overflow hends.frame :), (congrArg Device.sweep hends.frame :),
      ((congrArg Device.seq hends.frame :).trans hkeeps.seq).trans (congrArg Device.seq hstart :)⟩
  case capture => exact hcapture
  case cancelled =>
    intro hmem hnodup hbound
    have hcancelled := hall (by rw [Device.MemOk, show b.mem = f.mem from (congrArg Device.mem hstart :)]; exact hmemOk hmem) (by rw [hslots]; exact hbound)
    obtain ⟨hglobals, hlists⟩ := hcancelled.none_left (by rw [hslots]; exact hnodup)
    refine ⟨(congrArg Device.globals hends.frame :).trans hglobals, fun p => ?_, fun n hn => ?_⟩
    · obtain ⟨step, heq, -⟩ := hends.port p
      rw [heq]
      exact (hlists p).1
    · have hshown := hcancelled.shows n (.inr ⟨by rw [hslots]; exact hn, by rw [hslots]; exact hn⟩)
      rw [show b.time = d.time from (congrArg Device.time hstart :)] at hshown
      exact hshown.kept (.of_eq (congrArg Device.mem hends.frame :) (congrArg Device.prot hends.frame :))

theorem Service.restarted_stopped (s : Service) (keep : Bool) : (s.restarted keep).phase = .stopped ∧ (s.restarted keep).carry = none := by
  cases keep <;> exact ⟨rfl, rfl⟩

/-- Settles O15: what the write does before its RESTART keeps the settings, and the restart then leaves each block in its state of R174. -/
theorem softRestart : Obligations.SoftRestart := by
  unfold Obligations.SoftRestart
  intro w s hquiet
  have heq : operationOf (.restart w) s.toDevice = (s.beforeRestart w).restart := s.toDevice.controlWrite_restart w
  have hbefore := s.toDevice.beforeRestart_prelude w
  have hidle : (s.beforeRestart w).arbiter = [] := hbefore.keeps.arbiter hquiet.idle
  have hrestart := Device.restart_restarted hidle
  have hpassing := (hbefore.keeps.passing).trans (Passing.restart (s.beforeRestart w))
  have hexec := exec_of_quiet (c := .restart w) hquiet rfl (by rw [heq]; exact (CaptureStays.restart _ hidle).1)
  rw [heq] at hexec
  refine ⟨(s.beforeRestart w).restart, hexec, ?_⟩
  generalize (s.beforeRestart w).restart = d at *
  generalize s.beforeRestart w = e at *
  have hkeep : e.keep = s.keep := hbefore.keeps.keep hquiet.idle
  have hservice := hrestart.service
  have hhouse := hrestart.house
  rw [hkeep] at hservice hhouse
  obtain ⟨hwindow, hperiod, hlimit⟩ := hbefore.service
  obtain ⟨hstopped, hcarry⟩ := e.service.restarted_stopped s.keep
  obtain ⟨hnotices, hoverflow, hsweep, hseq⟩ := hrestart.intake
  obtain ⟨f, hf, hfollower⟩ := hrestart.follower
  refine ⟨hrestart.mode, hrestart.runEnable, hrestart.attnEnable.trans hbefore.keeps.attnEnable, hrestart.cause, hpassing.attn_or, hpassing.time, hrestart.planner,
    fun h => hrestart.transport (hbefore.runs h), by rw [hservice]; exact hstopped, by rw [hservice]; exact hcarry, hrestart.keepPending, hrestart.keep.trans hkeep,
    fun hk => ?_, fun hk => ?_, fun p => ?_, ?_, ?_, ?_, ?_, hnotices, hoverflow, hsweep, hseq.trans hbefore.keeps.seq, fun hstay => ?_⟩
  · rw [hservice, hhouse, hk]
    exact ⟨hwindow, hperiod, hlimit, hbefore.house⟩
  · rw [hservice, hhouse, hk]
    exact ⟨rfl, rfl, rfl, rfl⟩
  · obtain ⟨x, step, hport, hqueue, hpresence, hsettings⟩ := hrestart.port p
    rw [hport, hkeep]
    refine ⟨rfl, rfl, rfl, rfl, rfl, rfl, hqueue, rfl, hpresence.trans (hbefore.presence p), ?_⟩
    rw [← hbefore.settings p, ← hsettings]
    rfl
  · rw [hfollower, hf, Follower.restarted_follow, hkeep, hbefore.follower]
  · rw [hfollower, hf]
    rfl
  · rw [hfollower, hf]
    rfl
  · rw [hfollower, hf]
    rfl
  · obtain ⟨hports, hglobals, hcapture⟩ := hbefore.stays hstay
    have hslots : e.heldSlots = s.heldSlots := by
      simp only [Device.heldSlots, Device.held, Device.port, hports, hglobals]
    refine ⟨fun h10 => hrestart.capture.trans (hcapture h10), fun hmem hnodup hbound => ?_⟩
    have hmemOk : e.MemOk := hbefore.keeps.mem hmem
    obtain ⟨hnone, hlists, hshown⟩ := hrestart.cancelled hmemOk (by rw [hslots]; exact hnodup) (by rw [hslots]; exact hbound)
    refine ⟨hnone, hlists, fun n hn => ?_⟩
    have h := hshown n (by rw [hslots]; exact hn)
    rw [hbefore.keeps.time] at h
    exact ⟨h.state, h.reason, h.time, h.free⟩

end Sys2Proof.Machine
end

section
/-! PROOFS. The commit horizon and hardening (R39, R48, R45, R6). -/
namespace Sys2Proof.Machine

/-! ## One HELD global cue ends -/

/-- The device without the global cue of slot n. -/
def Device.withoutGlobal (d : Device) (n : Nat) : Device := { d with globals := dropCue n d.globals }

@[simp] theorem Device.withoutGlobal_arbiter (d : Device) (n : Nat) : (d.withoutGlobal n).arbiter = d.arbiter := rfl
@[simp] theorem Device.withoutGlobal_mem (d : Device) (n : Nat) : (d.withoutGlobal n).mem = d.mem := rfl
@[simp] theorem Device.withoutGlobal_prot (d : Device) (n : Nat) : (d.withoutGlobal n).prot = d.prot := rfl
@[simp] theorem Device.withoutGlobal_planner (d : Device) (n : Nat) : (d.withoutGlobal n).planner = d.planner := rfl
@[simp] theorem Device.withoutGlobal_globals (d : Device) (n : Nat) : (d.withoutGlobal n).globals = dropCue n d.globals := rfl
@[simp] theorem Device.withoutGlobal_port (d : Device) (n : Nat) (p : PortIx) : (d.withoutGlobal n).port p = d.port p := rfl

/-- A HELD global cue leaves the list and ends now, with this fire PI. -/
def Device.endGlobal (d : Device) (c : Cue) (st : Nat) (r : Reason) (k : Nat) : Device := (d.withoutGlobal c.slot).endCue c st r k d.time

theorem Device.hardenOne_eq (d : Device) (k : Nat) (c : Cue) (b : Bool) : d.hardenOne k c b =
    d.endGlobal { c with fired := 1, flags := { c.flags with superseded := c.flags.superseded || b } } stFired .none k := by
  unfold Device.hardenOne Device.endGlobal Device.withoutGlobal
  rfl

theorem Device.missPassed_eq (k : Nat) (d : Device) (c : Cue) : Device.missPassed k d c = d.endGlobal c stMissed .following k := by
  unfold Device.missPassed Device.endGlobal Device.withoutGlobal
  rfl

theorem Device.missStop_eq (d : Device) (c : Cue) : d.missStop c = d.endGlobal c stMissed .stopped c.due := by
  unfold Device.missStop Device.endGlobal Device.withoutGlobal
  rfl

theorem Device.endGlobal_eq (d : Device) (c : Cue) (st : Nat) (r : Reason) (k : Nat) : d.endGlobal c st r k = (d.withoutGlobal c.slot).finishSlot c.slot st
    { reason := r, flags := c.flags, revision := c.revision, firePI := k, fireTime := timeLow32 d.time, fired := c.fired, aux := c.aux } := by
  unfold Device.endGlobal Device.endCue
  rfl

theorem Device.endGlobal_globals (d : Device) (c : Cue) (st : Nat) (r : Reason) (k : Nat) : (d.endGlobal c st r k).globals = dropCue c.slot d.globals := by
  rw [Device.endGlobal_eq, Device.finishSlot_globals, Device.withoutGlobal_globals]

theorem Keeps.endGlobal {n : Nat} (d : Device) (c : Cue) (st : Nat) (r : Reason) (k : Nat) : Keeps n d (d.endGlobal c st r k) := by
  have h : Keeps n d (d.withoutGlobal c.slot) := Keeps.ofGlobals
  exact h.trans (.endCue _ c st r k d.time)

theorem Device.endGlobal_planner (d : Device) (c : Cue) (st : Nat) (r : Reason) (k : Nat) : (d.endGlobal c st r k).planner = d.planner := by
  rw [Device.endGlobal_eq, Device.finishSlot_planner, Device.withoutGlobal_planner]

theorem Device.endGlobal_port (d : Device) (c : Cue) (st : Nat) (r : Reason) (k : Nat) (p : PortIx) : (d.endGlobal c st r k).port p = d.port p := by
  rw [Device.endGlobal_eq, Device.finishSlot_port, Device.withoutGlobal_port]

/-- Slot n shows an end in this state, for this reason, at this pulse and time. -/
structure Device.ShowsEnd (d : Device) (st : Nat) (r : Reason) (k : Nat) (t : Time) (n : Nat) : Prop where
  state : d.slotState n = st
  reason : d.field n 48 1 = r.code
  firePI : d.field n 52 4 = k % 4294967296
  time : d.field n 56 4 = timeLow32 t

theorem Device.ShowsEnd.kept {d e : Device} {st : Nat} {r : Reason} {k : Nat} {t : Time} {n : Nat} (h : d.ShowsEnd st r k t n) (hk : d.SlotKept e n) : e.ShowsEnd st r k t n :=
  ⟨by rw [hk.slot.slotState]; exact h.state, by rw [hk.slot.field 48 1]; exact h.reason, by rw [hk.slot.field 52 4]; exact h.firePI,
    by rw [hk.slot.field 56 4]; exact h.time⟩

theorem Device.Shows.showsEnd {d : Device} {n st : Nat} {x : Result} {t : Time} (h : d.Shows n st x) (ht : x.fireTime = timeLow32 t) :
    d.ShowsEnd st x.reason x.firePI t n := by
  refine ⟨h.state, h.reason, h.firePI, ?_⟩
  rw [h.fireTime, ht]
  unfold timeLow32
  omega

section
variable {d : Device} (hquiet : d.arbiter = [])
include hquiet

theorem Device.endGlobal_shows (hmem : d.MemOk) {c : Cue} (hslot : c.slot < 512) {st : Nat} (hst : st < 256) (r : Reason) (k : Nat) :
    (d.endGlobal c st r k).Shows c.slot st
      { reason := r, flags := c.flags, revision := c.revision, firePI := k, fireTime := timeLow32 d.time, fired := c.fired, aux := c.aux } := by
  rw [Device.endGlobal_eq]
  exact Device.finishSlot_shows (by rw [Device.withoutGlobal_arbiter, hquiet]) _ (by rw [Device.MemOk, Device.withoutGlobal_mem]; exact hmem) hslot hst

theorem Device.SlotKept.endGlobal {c : Cue} (hslot : c.slot < 512) {n : Nat} (hne : n ≠ c.slot) (st : Nat) (r : Reason) (k : Nat) :
    d.SlotKept (d.endGlobal c st r k) n := by
  rw [Device.endGlobal_eq]
  exact (Device.SlotKept.of_eq (Device.withoutGlobal_mem d c.slot) (Device.withoutGlobal_prot d c.slot)).trans
    (.finishSlot (by rw [Device.withoutGlobal_arbiter, hquiet]) hslot hne _ _)

end

/-! ## Several of them end -/

/-- The HELD global cues of l have left the list and ended with this state, reason and pulse. -/
structure Device.EndsGlobals (d e : Device) (l : List Cue) (st : Nat) (r : Reason) (k : Nat) : Prop where
  keeps : ∀ n, Keeps n d e
  planner : e.planner = d.planner
  globals : e.globals = d.globals.filter fun c => decide (c.slot ∉ l.map (·.slot))
  kept : ∀ n, n ∉ l.map (·.slot) → d.SlotKept e n
  shows : ∀ n, n ∈ l.map (·.slot) ∨ d.ShowsEnd st r k d.time n → e.ShowsEnd st r k d.time n

theorem Device.EndsGlobals.nil (d : Device) (st : Nat) (r : Reason) (k : Nat) : d.EndsGlobals d [] st r k :=
  ⟨fun _ => .refl d, rfl, (List.filter_eq_self.mpr fun _ _ => decide_eq_true List.not_mem_nil).symm, fun n _ => .refl d n, fun _ h => h.resolve_left List.not_mem_nil⟩

theorem Device.EndsGlobals.cons {d e : Device} {x c : Cue} {l : List Cue} {st : Nat} {r : Reason} {k : Nat} (hquiet : d.arbiter = []) (hmem : d.MemOk)
    (hslot : c.slot < 512) (hst : st < 256) (hx : x.slot = c.slot) (h : (d.endGlobal x st r k).EndsGlobals e l st r k) : d.EndsGlobals e (c :: l) st r k := by
  have hkeeps := fun n => Keeps.endGlobal (n := n) d x st r k
  rw [← hx] at hslot
  refine ⟨fun n => (hkeeps n).trans (h.keeps n), h.planner.trans (d.endGlobal_planner x st r k), ?_, fun n hn => ?_, fun n hn => ?_⟩
  · rw [h.globals, Device.endGlobal_globals, dropCue, hx, List.filter_filter]
    refine List.filter_congr fun y _ => ?_
    by_cases hy : y.slot = c.slot <;> simp [hy]
  · rw [List.map_cons, List.mem_cons, not_or] at hn
    exact (Device.SlotKept.endGlobal hquiet hslot (by rw [hx]; exact hn.1) st r k).trans (h.kept n hn.2)
  · have htime := (hkeeps 0).time
    rw [← htime]
    refine h.shows n ?_
    rw [htime]
    by_cases hn' : n = x.slot
    · rw [hn']
      exact .inr ((Device.endGlobal_shows hquiet hmem hslot hst r k).showsEnd rfl)
    · rw [List.map_cons, List.mem_cons, ← hx] at hn
      refine hn.imp (fun h => h.resolve_left hn') fun h => h.kept (.endGlobal hquiet hslot hn' st r k)

theorem Device.hardenApplied_cons (k : Nat) (d : Device) (c : Cue) (l : List Cue) : ∃ x : Cue,
    x = { c with fired := 1, flags := { c.flags with superseded := c.flags.superseded || supersededIn c l } } ∧
      Device.hardenApplied k d (c :: l) = Device.hardenApplied k (d.endGlobal x stFired .none k) l :=
  ⟨_, rfl, by rw [Device.hardenApplied, Device.hardenOne_eq]⟩

theorem Device.hardenApplied_ends (k : Nat) : ∀ (l : List Cue) {d : Device}, d.arbiter = [] → d.MemOk → (∀ c ∈ l, c.slot < 512) →
    d.EndsGlobals (Device.hardenApplied k d l) l stFired .none k
  | [], d, _, _, _ => .nil d _ _ _
  | c :: l, d, hquiet, hmem, hslots => by
    obtain ⟨x, hx, heq⟩ := Device.hardenApplied_cons k d c l
    rw [heq]
    have hkeeps : Keeps 0 d (d.endGlobal x stFired .none k) := .endGlobal _ _ _ _ _
    exact .cons hquiet hmem (hslots c List.mem_cons_self) (by decide) (by rw [hx])
      (Device.hardenApplied_ends k l (hkeeps.arbiter hquiet) (hkeeps.mem hmem) fun x hx => hslots x (List.mem_cons_of_mem c hx))

theorem Device.missPassed_ends (k : Nat) : ∀ (l : List Cue) {d : Device}, d.arbiter = [] → d.MemOk → (∀ c ∈ l, c.slot < 512) →
    d.EndsGlobals (l.foldl (Device.missPassed k) d) l stMissed .following k
  | [], d, _, _, _ => .nil d _ _ _
  | c :: l, d, hquiet, hmem, hslots => by
    rw [List.foldl_cons, Device.missPassed_eq]
    have hkeeps : Keeps 0 d (d.endGlobal c stMissed .following k) := .endGlobal _ _ _ _ _
    exact .cons hquiet hmem (hslots c List.mem_cons_self) (by decide) rfl
      (Device.missPassed_ends k l (hkeeps.arbiter hquiet) (hkeeps.mem hmem) fun x hx => hslots x (List.mem_cons_of_mem c hx))

/-- The flags of a cue that ends at a pulse: SUPERSEDED by a later one of its kind (R45, R6). -/
theorem Device.hardenApplied_flags (k : Nat) (c : Cue) (l2 : List Cue) (hlater : c.slot ∉ l2.map (·.slot)) :
    ∀ (l1 : List Cue) {d : Device}, d.arbiter = [] → d.MemOk → (∀ x ∈ l1 ++ c :: l2, x.slot < 512) →
      (Device.hardenApplied k d (l1 ++ c :: l2)).field c.slot 49 1 = ({ c.flags with superseded := c.flags.superseded || supersededIn c l2 } : CueFlags).toByte
  | [], d, hquiet, hmem, hslots => by
    have hslot := hslots c (by simp)
    obtain ⟨x, hx, heq⟩ := Device.hardenApplied_cons k d c l2
    rw [List.nil_append, heq]
    have hkeeps : Keeps 0 d (d.endGlobal x stFired .none k) := .endGlobal _ _ _ _ _
    have hrest := Device.hardenApplied_ends k l2 (hkeeps.arbiter hquiet) (hkeeps.mem hmem) fun y hy => hslots y (by simp [hy])
    have hxslot : x.slot = c.slot := by rw [hx]
    have hshows := Device.endGlobal_shows hquiet hmem (c := x) (by rw [hxslot]; exact hslot) (show stFired < 256 by decide) .none k
    rw [(hrest.kept c.slot hlater).slot.field 49 1, ← hxslot, hshows.flags, hx]
  | y :: l1, d, hquiet, hmem, hslots => by
    obtain ⟨x, hx, heq⟩ := Device.hardenApplied_cons k d y (l1 ++ c :: l2)
    rw [List.cons_append, heq]
    have hkeeps : Keeps 0 d (d.endGlobal x stFired .none k) := .endGlobal _ _ _ _ _
    exact Device.hardenApplied_flags k c l2 hlater l1 (hkeeps.arbiter hquiet) (hkeeps.mem hmem) fun x hx => hslots x (List.mem_cons_of_mem y hx)

/-! ## The cues of an entry -/

theorem Device.find_global {d : Device} (hnodup : (d.globals.map (·.slot)).Nodup) {c : Cue} (hc : c ∈ d.globals) : d.globals.find? (·.slot == c.slot) = some c := by
  cases hfind : d.globals.find? (·.slot == c.slot) with
  | none =>
    rw [List.find?_eq_none] at hfind
    exact absurd (beq_self_eq_true c.slot) (hfind c hc)
  | some x =>
    have hslot : x.slot = c.slot := by simpa using List.find?_some hfind
    rw [eq_of_nodup_map hnodup (List.mem_of_find?_eq_some hfind) hc hslot]

theorem Device.mem_globalsOf {d : Device} (hnodup : (d.globals.map (·.slot)).Nodup) {l : List Nat} {c : Cue} : c ∈ d.globalsOf l ↔ c ∈ d.globals ∧ c.slot ∈ l := by
  rw [Device.globalsOf, List.mem_filterMap]
  constructor
  · rintro ⟨n, hn, hfind⟩
    have hslot : c.slot = n := by simpa using List.find?_some hfind
    rw [hslot]
    exact ⟨List.mem_of_find?_eq_some hfind, hn⟩
  · rintro ⟨hc, hl⟩
    exact ⟨c.slot, hl, Device.find_global hnodup hc⟩

theorem Device.globalsOf_split {d : Device} (hnodup : (d.globals.map (·.slot)).Nodup) {c : Cue} (hc : c ∈ d.globals) (l1 l2 : List Nat) :
    d.globalsOf (l1 ++ c.slot :: l2) = d.globalsOf l1 ++ c :: d.globalsOf l2 := by
  simp only [Device.globalsOf, List.filterMap_append, List.filterMap_cons, Device.find_global hnodup hc]

theorem Device.supersededIn_globalsOf {d : Device} (hnodup : (d.globals.map (·.slot)).Nodup) (c : Cue) (l : List Nat) :
    supersededIn c (d.globalsOf l) = d.globals.any fun x => decide (x.slot ∈ l) && ((c.isTempo && x.isTempo) || (c.isMeter && x.isMeter)) := by
  rw [Bool.eq_iff_iff]
  simp only [supersededIn, Bool.or_eq_true, Bool.and_eq_true, List.any_eq_true, Device.mem_globalsOf hnodup, decide_eq_true_eq]
  constructor
  · rintro (⟨hc, x, ⟨hx, hl⟩, hkind⟩ | ⟨hc, x, ⟨hx, hl⟩, hkind⟩)
    · exact ⟨x, hx, hl, .inl ⟨hc, hkind⟩⟩
    · exact ⟨x, hx, hl, .inr ⟨hc, hkind⟩⟩
  · rintro ⟨x, hx, hl, ⟨hc, hkind⟩ | ⟨hc, hkind⟩⟩
    · exact .inl ⟨hc, x, ⟨hx, hl⟩, hkind⟩
    · exact .inr ⟨hc, x, ⟨hx, hl⟩, hkind⟩

/-! ## The horizon -/

/-- The device with the horizon at k and no pending input (R39, R42). -/
def Device.withHorizon (d : Device) (k : Nat) : Device :=
  { d with planner := { d.planner with horizon := some k, pendPeriod := none, pendSpread := none, pendBalance := none } }

theorem Device.raiseHorizon_rises {d : Device} {k : Nat} (h : d.risesTo k = true) :
    d.raiseHorizon k = (d.softEntries.filter fun e => decide (e.pi ≤ k)).foldl Device.harden (d.withHorizon k) := if_pos h

theorem Device.raiseHorizon_still {d : Device} {k : Nat} (h : d.risesTo k = false) : d.raiseHorizon k = d := if_neg (by rw [h]; exact Bool.false_ne_true)

theorem Device.risesTo_iff (d : Device) (k : Nat) : d.risesTo k = true ↔ d.planner.transport ≠ .stopped ∧ ∀ c, d.planner.horizon = some c → c < k := by
  rw [Device.risesTo, Bool.and_eq_true, runUnderWay_iff]
  cases d.planner.horizon <;> simp

/-- Settles O42: the applied cues end first, then those passed over, which have other slots. -/
theorem horizonHardens : Obligations.HorizonHardens := by
  unfold Obligations.HorizonHardens
  intro d k e
  refine ⟨d.risesTo_iff k, fun h => Device.raiseHorizon_still h, fun hrises hmem hquiet hentries hnodup hslots hdisjoint => ?_⟩
  rw [Device.raiseHorizon_rises hrises, hentries, List.foldl_cons, List.foldl_nil, Device.harden]
  dsimp only
  have hbase : (d.withHorizon k).arbiter = [] ∧ (d.withHorizon k).MemOk ∧ (d.withHorizon k).globals = d.globals ∧ (d.withHorizon k).time = d.time ∧
      (d.withHorizon k).planner.horizon = some k ∧ (d.withHorizon k).planner.plan = d.planner.plan := ⟨hquiet, hmem, rfl, rfl, rfl, rfl⟩
  generalize d.withHorizon k = b at *
  obtain ⟨hbquiet, hbmem, hbglobals, hbtime, hbhorizon, hbplan⟩ := hbase
  rw [← hbglobals] at hnodup hslots
  have hfired := Device.hardenApplied_ends e.pi (b.globalsOf e.applied) hbquiet hbmem fun c hc => hslots c ((Device.mem_globalsOf hnodup).mp hc).1
  have hflags := fun c l1 l2 hlater => Device.hardenApplied_flags e.pi c l2 hlater l1 hbquiet hbmem
  have hmissed := Device.missPassed_ends e.pi (b.globals.filter fun c => e.passed.contains c.slot) ((hfired.keeps 0).arbiter hbquiet) ((hfired.keeps 0).mem hbmem)
    fun c hc => hslots c ((List.mem_filter.mp hc).1)
  generalize ha : Device.hardenApplied e.pi b (b.globalsOf e.applied) = a at *
  generalize (b.globals.filter fun c => e.passed.contains c.slot).foldl (Device.missPassed e.pi) a = z at *
  have hatime : a.time = d.time := (hfired.keeps 0).time.trans hbtime
  have happlied : ∀ c ∈ b.globals, (c.slot ∈ (b.globalsOf e.applied).map (·.slot) ↔ c.slot ∈ e.applied) := fun c hc => by
    rw [List.mem_map]
    constructor
    · rintro ⟨x, hx, hslot⟩
      rw [← hslot]
      exact ((Device.mem_globalsOf hnodup).mp hx).2
    · exact fun h => ⟨c, (Device.mem_globalsOf hnodup).mpr ⟨hc, h⟩, rfl⟩
  have hpassed : ∀ n, n ∈ (b.globals.filter fun c => e.passed.contains c.slot).map (·.slot) → n ∈ e.passed := fun n hn => by
    obtain ⟨x, hx, rfl⟩ := List.mem_map.mp hn
    simpa using (List.mem_filter.mp hx).2
  have hstays : ∀ n ∈ e.applied, a.SlotKept z n := fun n hn => hmissed.kept n fun h => hdisjoint n hn (hpassed n h)
  refine ⟨?_, ?_, ?_, fun c hc hin => ?_, fun c l1 l2 hc hunique hsplit => ?_, fun c hc hin => ?_⟩
  · rw [hmissed.planner, hfired.planner, hbhorizon]
  · rw [hmissed.planner, hfired.planner, hbplan]
  · rw [hmissed.globals, hfired.globals, List.filter_filter, ← hbglobals]
    refine List.filter_congr fun c hc => ?_
    have hp : c.slot ∈ (b.globals.filter fun c => e.passed.contains c.slot).map (·.slot) ↔ c.slot ∈ e.passed :=
      ⟨hpassed c.slot, fun h => List.mem_map.mpr ⟨c, List.mem_filter.mpr ⟨hc, by simpa using h⟩, rfl⟩⟩
    simp only [happlied c hc, hp, Bool.and_comm]
  · rw [← hbglobals] at hc
    have hshown := (hfired.shows c.slot (.inl ((happlied c hc).mpr hin))).kept (hstays _ hin)
    rw [hbtime] at hshown
    exact ⟨hshown.state, hshown.reason, hshown.firePI, hshown.time⟩
  · rw [← hbglobals] at hc ⊢
    have hlater : c.slot ∉ (b.globalsOf l2).map (·.slot) := fun h => by
      obtain ⟨x, hx, hslot⟩ := List.mem_map.mp h
      rw [hsplit, List.nodup_append, List.nodup_cons] at hunique
      refine hunique.2.1.1 ?_
      rw [← hslot]
      exact ((Device.mem_globalsOf hnodup).mp hx).2
    have hsame := hflags c (b.globalsOf l1) (b.globalsOf l2) hlater
    rw [← Device.globalsOf_split hnodup hc, ← hsplit, ha] at hsame
    rw [(hstays c.slot (by rw [hsplit]; simp)).slot.field 49 1, hsame fun x hx => hslots x ((Device.mem_globalsOf hnodup).mp hx).1, Device.supersededIn_globalsOf hnodup]
  · rw [← hbglobals] at hc
    have hshown := hmissed.shows c.slot (.inl (List.mem_map.mpr ⟨c, List.mem_filter.mpr ⟨hc, by simpa using hin⟩, rfl⟩))
    rw [hatime] at hshown
    exact ⟨hshown.state, hshown.reason, hshown.firePI, hshown.time⟩

end Sys2Proof.Machine
end

section
/-! PROOFS. The end of a run (R14, R9, R122, R130), and what the arrival of the reference cursor keeps of the timeline (R36 to R38). -/
namespace Sys2Proof.Machine

/-! ## The timeline up to the retirement of a pulse -/

/-- The cursor of the timeline has come to k, and the commit horizon may have risen: the rest of the planner stays. -/
structure Device.Arrives (d e : Device) (k : Option Nat) : Prop extends Steady d e where
  planner : e.planner = { d.planner with
    cursor := k, horizon := e.planner.horizon, pendPeriod := e.planner.pendPeriod, pendSpread := e.planner.pendSpread, pendBalance := e.planner.pendBalance }

theorem Keeps.arrives {n : Nat} {d e : Device} (h : Keeps n d e) (hn : 2 ≤ n) (hs : Steady d e) : d.Arrives e d.planner.cursor :=
  ⟨hs, h.timeline hn⟩

theorem Device.Arrives.trans {d e f : Device} {j k : Option Nat} (a : d.Arrives e j) (b : e.Arrives f k) : d.Arrives f k := by
  refine ⟨a.toSteady.trans b.toSteady, ?_⟩
  have hb := b.planner
  rw [a.planner] at hb
  exact hb

theorem Steady.raiseHorizon (d : Device) (k : Nat) : Steady d (d.raiseHorizon k) := by
  have hone : ∀ (d : Device) (c : Cue) (st : Nat) (r : Reason) (k : Nat), Steady d (d.endGlobal c st r k) := fun d c st r k =>
    (show Steady d (d.withoutGlobal c.slot) from .of_eq rfl rfl).trans (.endCue _ _ _ _ _ _)
  have happlied : ∀ (k : Nat) (l : List Cue) (d : Device), Steady d (Device.hardenApplied k d l) := by
    intro k l
    induction l with
    | nil => exact fun d => .refl d
    | cons c l ih =>
      intro d
      obtain ⟨x, -, heq⟩ := Device.hardenApplied_cons k d c l
      rw [heq]
      exact (hone d _ _ _ _).trans (ih _)
  have hharden : ∀ (d : Device) (e : PlanEntry), Steady d (d.harden e) := fun d e =>
    (happlied e.pi _ d).trans (.foldl (fun d c => by rw [Device.missPassed_eq]; exact hone d c _ _ _) _ _)
  unfold Device.raiseHorizon
  exact .ite (Steady.after (e := d.withHorizon k) (.foldl hharden _ _)) (.refl d)

theorem Steady.reachPort (d : Device) (p : PortIx) (e : PlanEntry) : Steady d (d.reachPort p e) := by
  unfold Device.reachPort
  exact ((((Local.arrive p d _).toSteady.trans (.raiseHorizon _ _)).trans (.modPort _ _ _)).trans (Local.dispatch p _ _).toSteady).trans (Local.emit p _ _ _).toSteady

theorem Steady.catchUpLoop (bound : Nat) (p : PortIx) : ∀ (n : Nat) (d : Device), Steady d (Device.catchUpLoop bound n d p)
  | 0, d => .refl d
  | n + 1, d => by
    unfold Device.catchUpLoop
    split
    · exact .ite ((Steady.reachPort d p _).trans (Steady.catchUpLoop bound p n _)) (.refl d)
    · exact .refl d

/-- The device with the reference cursor at k (R36). -/
def Device.withCursor (d : Device) (k : Nat) : Device := { d with planner := { d.planner with cursor := some k } }

theorem Device.cursorArrives_eq (d : Device) (e : PlanEntry) :
    d.cursorArrives e = ((d.withCursor (e.pi + 1)).raiseHorizon e.pi).eachPort (Device.missPort e.pi) := rfl

theorem Device.cursorArrives_arrives (d : Device) (e : PlanEntry) : d.Arrives (d.cursorArrives e) (some (e.pi + 1)) := by
  have hcursor : d.Arrives (d.withCursor (e.pi + 1)) (some (e.pi + 1)) := ⟨.of_eq rfl rfl, rfl⟩
  have hrise := (Keeps.raiseHorizon (d.withCursor (e.pi + 1)) e.pi).arrives (Nat.le_refl _) (.raiseHorizon _ _)
  have hmiss := (Keeps.eachPort (n := 2) (Keeps.missPort e.pi) ((d.withCursor (e.pi + 1)).raiseHorizon e.pi)).arrives (Nat.le_refl _)
    (.eachPort (fun d p => (Local.missPort p _ d).toSteady) _)
  rw [Device.cursorArrives_eq]
  have hall := (hcursor.trans hrise).trans hmiss
  have hlast : ((d.withCursor (e.pi + 1)).raiseHorizon e.pi).planner.cursor = some (e.pi + 1) :=
    (Keeps.raiseHorizon (d.withCursor (e.pi + 1)) e.pi).cursor_eq (Nat.le_refl _)
  rw [hlast] at hall
  exact hall

/-- The device as a pulse is retired (R36, R98, log 23). -/
def Device.retiring (d : Device) (e : PlanEntry) : Device := ((d.catchUpEarly e).cursorArrives e).catchUp e

theorem Device.reachCursor_eq (d : Device) (e : PlanEntry) : d.reachCursor e = (d.retiring e).retireEntry e := rfl

theorem Device.retiring_arrives (d : Device) (e : PlanEntry) : d.Arrives (d.retiring e) (some (e.pi + 1)) := by
  have hearly := (Keeps.catchUpEarly d e).arrives (Nat.le_refl _) (.eachPort (fun d p => .ite (.refl d) (.catchUpLoop _ p _ d)) d)
  have hlate := (Keeps.catchUp ((d.catchUpEarly e).cursorArrives e) e).arrives (Nat.le_refl _) (.eachPort (fun d p => .catchUpLoop _ p _ d) _)
  have harrive := (d.catchUpEarly e).cursorArrives_arrives e
  have hall := (hearly.trans harrive).trans hlate
  rw [harrive.planner] at hall
  exact hall

theorem appendHistory_eq (h : List Instant) (i : Instant) : appendHistory h i = (h ++ [i]).drop (h.length - 3) := by
  rw [appendHistory, List.length_append, List.length_singleton]
  rfl

/-! ## The end of a run -/

theorem Device.setTransport_eq (d : Device) (t : Transport) : d.setTransport t =
    { d with
      planner := { d.planner with transport := t }, attn := (d.setTransport t).attn, writer := (d.setTransport t).writer,
      writerAgain := (d.setTransport t).writerAgain } := by
  unfold Device.setTransport
  split
  · next h => rw [← h]
  · unfold Device.requestStatus
    split <;> rfl

theorem Device.setTransport_planner (d : Device) (t : Transport) : (d.setTransport t).planner = { d.planner with transport := t } :=
  (congrArg Device.planner (d.setTransport_eq t) :)

theorem Device.setTransport_changed {d : Device} {t : Transport} (h : d.planner.transport ≠ t) :
    (d.setTransport t).attn.getLsbD 5 = true ∧ (d.setTransport t).writer.isSome = true := by
  unfold Device.setTransport
  rw [if_neg h]
  refine ⟨?_, Device.requestStatus_isSome _⟩
  rw [Device.requestStatus_attn]
  simp [Device.latch, Cause.bit]

theorem Cue.isStop_iff (c : Cue) : c.isStop = true ↔ c.body = .stop := by
  unfold Cue.isStop
  cases c.body <;> simp

/-- The STOP cues of the list l leave the global list (R14). -/
theorem Device.missStops_globals (l : List Cue) : ∀ d : Device,
    (l.foldl Device.missStop d).planner = d.planner ∧ ∀ c, c ∈ (l.foldl Device.missStop d).globals ↔ c ∈ d.globals ∧ c.slot ∉ l.map (·.slot) := by
  induction l with
  | nil => simp
  | cons x l ih =>
    intro d
    obtain ⟨hplanner, hglobals⟩ := ih (d.missStop x)
    rw [Device.missStop_eq] at hplanner hglobals
    rw [List.foldl_cons, Device.missStop_eq]
    refine ⟨hplanner.trans (Device.endGlobal_planner _ _ _ _ _), fun c => ?_⟩
    rw [hglobals, Device.endGlobal_globals, mem_dropCue, List.map_cons, List.mem_cons, not_or, and_assoc]

theorem Local.endPort (k : Nat) (p : PortIx) (d : Device) : Local p d (Device.endPort k d p) := by
  unfold Device.endPort
  exact Local.trans (.ite (.dropJoin p d) (.refl d)) (.modPort p _ _)

/-- What the end of a run leaves of a port (R122, R130, R150). -/
theorem Device.endPort_port (k : Nat) (d : Device) (p : PortIx) : ((Device.endPort k d p).port p).cursor = k + 1 ∧ ((Device.endPort k d p).port p).resume = none ∧
    ((Device.endPort k d p).port p).mixer.reached = none ∧ (((Device.endPort k d p).port p).state = .acquiring → ((Device.endPort k d p).port p).join = none) := by
  unfold Device.endPort
  rw [Device.port_modPort_same]
  exact ⟨rfl, rfl, rfl, fun h => if_pos h⟩

theorem Steady.missStop (d : Device) (c : Cue) : Steady d (d.missStop c) := by
  rw [Device.missStop_eq]
  exact (show Steady d (d.withoutGlobal c.slot) from .of_eq rfl rfl).trans (.endCue _ _ _ _ _ _)

/-- What the end of a run at the entry e leaves. -/
structure Device.RunEnded (d f : Device) (e : PlanEntry) : Prop where
  planner : f.planner = { d.planner.ended e with transport := .stopped }
  globals : ∀ c ∈ f.globals, c.body ≠ .stop
  cause : f.attn.getLsbD 5 = true
  writer : f.writer.isSome = true
  port : ∀ p, (f.port p).cursor = e.pi + 1 ∧ (f.port p).resume = none ∧ (f.port p).mixer.reached = none ∧ ((f.port p).state = .acquiring → (f.port p).join = none)

theorem Device.endRun_ended {d : Device} (hrun : d.planner.transport ≠ .stopped) (e : PlanEntry) : d.RunEnded (d.endRun e) e := by
  have hbase : ∃ b : Device, b = { d with planner := d.planner.ended e } ∧ d.endRun e =
      (((b.setTransport .stopped).globals.filter (·.isStop)).foldl Device.missStop (b.setTransport .stopped)).eachPort (Device.endPort e.pi) := ⟨_, rfl, rfl⟩
  obtain ⟨b, hb, heq⟩ := hbase
  have hbplanner : b.planner = d.planner.ended e := by rw [hb]
  obtain ⟨hcause, hwriter⟩ := Device.setTransport_changed (d := b) (t := .stopped) (by rw [hbplanner]; exact hrun)
  have hplanner := b.setTransport_planner .stopped
  rw [heq]
  generalize b.setTransport .stopped = a at *
  obtain ⟨hmissPlanner, hmissGlobals⟩ := Device.missStops_globals (a.globals.filter (·.isStop)) a
  have hmissKeeps : Keeps 0 a ((a.globals.filter (·.isStop)).foldl Device.missStop a) := .foldl (fun d c => .missStop d c) _ a
  have hmissSteady : Steady a ((a.globals.filter (·.isStop)).foldl Device.missStop a) := .foldl .missStop _ a
  generalize hm : (a.globals.filter (·.isStop)).foldl Device.missStop a = m at *
  have hported := Ported.eachPort (Local.endPort e.pi) m
  have hkeeps : Keeps 0 m (m.eachPort (Device.endPort e.pi)) := .eachPort (Keeps.endPort e.pi) m
  refine ⟨?_, fun c hc hstop => ?_, ?_, ?_, fun p => ?_⟩
  · rw [hported.planner, hmissPlanner, hplanner, hbplanner]
  · rw [hported.globals, hmissGlobals] at hc
    exact hc.2 (List.mem_map.mpr ⟨c, List.mem_filter.mpr ⟨hc.1, c.isStop_iff.mpr hstop⟩, rfl⟩)
  · exact Device.getLsbD_attn_of_keeps hkeeps (Device.getLsbD_attn_of_keeps hmissKeeps hcause)
  · exact hported.writer (hmissSteady.writer hwriter)
  · obtain ⟨before, _, -, -, hport⟩ := Device.eachPort_at (Local.endPort e.pi) m p
    rw [hport]
    exact Device.endPort_port e.pi _ p

theorem Device.cursorReachDue_iff (d : Device) (e : PlanEntry) : d.cursorReachDue = some e ↔
    d.planner.transport ≠ .stopped ∧ d.planner.plan.head? = some e ∧ d.planner.cursor = some e.pi ∧ 0 ≤ timeDiff d.time (instantTime e.instant) := by
  unfold Device.cursorReachDue
  split
  · next x k hx hk =>
    rw [hx, hk]
    constructor
    · intro h
      split at h
      · next hcond =>
        cases h
        simp only [Bool.and_eq_true, beq_iff_eq, timeReached_iff, runUnderWay_iff] at hcond
        exact ⟨hcond.1.1, rfl, by rw [hcond.1.2], hcond.2⟩
      · cases h
    · rintro ⟨hrun, hhead, hcursor, htime⟩
      cases hhead
      cases hcursor
      rw [if_pos (by simp [runUnderWay_iff.mpr hrun, timeReached_iff, htime])]
  · next hnot =>
    constructor
    · intro h
      cases h
    · rintro ⟨-, hx, hk, -⟩
      exact absurd hk (hnot e e.pi hx)

theorem exec_cursorReach {s : State} {e : PlanEntry} (h : s.cursorReachDue = some e) :
    exec .referenceCursorReach s = .next { s with toDevice := s.noted (s.presenting.reachCursor e) } := by
  have hop : operationOf .referenceCursorReach s.presenting = s.presenting.reachCursor e := by
    show Device.tryCursorReach s.presenting = _
    unfold Device.tryCursorReach
    rw [show s.presenting.cursorReachDue = some e from h]
  rw [exec_noted rfl, hop]

/-- The device as the entry e has become the anchor (R37, R38). -/
def Device.retired (d : Device) (e : PlanEntry) : Device :=
  if e.beatStart then ({ d with planner := d.planner.retire e }).requestStatus else { d with planner := d.planner.retire e }

theorem Device.retired_planner (d : Device) (e : PlanEntry) : (d.retired e).planner = d.planner.retire e := by
  unfold Device.retired
  split
  · rw [Device.requestStatus_planner]
  · rfl

theorem Device.retireEntry_eq (d : Device) (e : PlanEntry) : d.retireEntry e = if d.planner.latched = some e.pi then (d.retired e).endRun e else d.retired e := rfl

/-- Settles O41: the pulse retired is the latched stop pulse, and the run ends with it. -/
theorem runEnd : Obligations.RunEnd := by
  unfold Obligations.RunEnd
  intro s e hdue hlatched
  have hrun : s.presenting.planner.transport ≠ .stopped := ((Device.cursorReachDue_iff s.toDevice e).mp hdue).1
  have hmem : e ∈ s.presenting.planner.plan := List.mem_of_head? ((Device.cursorReachDue_iff s.toDevice e).mp hdue).2.1
  have hkeeps := Keeps.reachCursor s.presenting e hmem
  refine ⟨_, exec_cursorReach hdue, ?_⟩
  have hlatched' : s.presenting.planner.latched = some e.pi := hlatched
  have harrives := (s.presenting.retiring_arrives e).planner
  rw [Device.reachCursor_eq, Device.retireEntry_eq] at hkeeps ⊢
  have hfields : ∃ b : Device, b = s.presenting ∧ b.planner = s.planner ∧ b.time = s.time ∧ b.follower = s.follower ∧ b.mode = s.mode ∧ b.service = s.service ∧
      b.house = s.house := ⟨_, rfl, rfl, rfl, rfl, rfl, rfl, rfl⟩
  obtain ⟨b, hb, hplanner, htime, hfollower, hmode, hservice, hhouse⟩ := hfields
  rw [← hb] at hkeeps harrives hlatched' hrun ⊢
  generalize b.retiring e = r at *
  rw [if_pos (by rw [harrives]; exact hlatched')] at hkeeps ⊢
  have hended := Device.endRun_ended (d := r.retired e) (by rw [Device.retired_planner, harrives]; exact hrun) e
  generalize (r.retired e).endRun e = d at *
  have hend := hended.planner
  rw [Device.retired_planner, harrives] at hend
  have hhistory : d.planner.history = if e.beatStart then appendHistory s.planner.history e.instant else s.planner.history := by
    rw [← hplanner]
    exact (congrArg Planner.history hend :)
  rw [appendHistory_eq] at hhistory
  exact ⟨(congrArg Planner.transport hend :), (congrArg Planner.stopped hend :), (congrArg Planner.heldPeriod hend :), (congrArg Planner.heldMeter hend :),
    (congrArg Planner.heldOrigin hend :), (congrArg Planner.plan hend :), (congrArg Planner.anchor hend :), (congrArg Planner.latched hend :),
    (congrArg Planner.cursor hend :), (congrArg Planner.horizon hend :), hhistory, hended.globals, hended.cause, hended.writer, hended.port, hkeeps.time.trans htime,
    (hkeeps.follower (Nat.le_refl _)).trans hfollower, (hkeeps.mode (Nat.le_refl _)).trans hmode, (hkeeps.service (Nat.le_refl _)).trans hservice, (hkeeps.house (Nat.le_refl _)).trans hhouse⟩

end Sys2Proof.Machine
end

section
/-! PROOFS. A port's reach (R117, R120), part by part: what arrival, the rise of the horizon, dispatch and emission change of the port, and what they leave. -/
namespace Sys2Proof.Machine

/-! ## The rise of the horizon leaves the ports -/

theorem Device.hardenApplied_kept (k : Nat) (l : List Cue) : ∀ d : Device, (Device.hardenApplied k d l).planner = d.planner ∧ ∀ p, (Device.hardenApplied k d l).port p = d.port p := by
  induction l with
  | nil => exact fun d => ⟨rfl, fun _ => rfl⟩
  | cons c l ih =>
    intro d
    obtain ⟨x, -, heq⟩ := Device.hardenApplied_cons k d c l
    obtain ⟨hplanner, hports⟩ := ih (d.endGlobal x stFired .none k)
    rw [heq]
    exact ⟨hplanner.trans (Device.endGlobal_planner _ _ _ _ _), fun p => (hports p).trans (Device.endGlobal_port _ _ _ _ _ p)⟩

theorem Device.missPassed_kept (k : Nat) (l : List Cue) : ∀ d : Device, (l.foldl (Device.missPassed k) d).planner = d.planner ∧
    ∀ p, (l.foldl (Device.missPassed k) d).port p = d.port p := by
  induction l with
  | nil => exact fun d => ⟨rfl, fun _ => rfl⟩
  | cons c l ih =>
    intro d
    obtain ⟨hplanner, hports⟩ := ih (Device.missPassed k d c)
    rw [List.foldl_cons]
    rw [Device.missPassed_eq] at hplanner hports ⊢
    exact ⟨hplanner.trans (Device.endGlobal_planner _ _ _ _ _), fun p => (hports p).trans (Device.endGlobal_port _ _ _ _ _ p)⟩

theorem Device.harden_kept (d : Device) (e : PlanEntry) : (d.harden e).planner = d.planner ∧ ∀ p, (d.harden e).port p = d.port p := by
  unfold Device.harden
  obtain ⟨hplanner, hports⟩ := Device.hardenApplied_kept e.pi (d.globalsOf e.applied) d
  obtain ⟨hplanner', hports'⟩ := Device.missPassed_kept e.pi (d.globals.filter fun c => e.passed.contains c.slot) (Device.hardenApplied e.pi d (d.globalsOf e.applied))
  exact ⟨hplanner'.trans hplanner, fun p => (hports' p).trans (hports p)⟩

theorem Device.hardens_kept (l : List PlanEntry) : ∀ d : Device, (l.foldl Device.harden d).planner = d.planner ∧ ∀ p, (l.foldl Device.harden d).port p = d.port p := by
  induction l with
  | nil => exact fun d => ⟨rfl, fun _ => rfl⟩
  | cons e l ih =>
    intro d
    obtain ⟨hplanner, hports⟩ := ih (d.harden e)
    obtain ⟨hplanner', hports'⟩ := d.harden_kept e
    exact ⟨hplanner.trans hplanner', fun p => (hports p).trans (hports' p)⟩

theorem Device.raiseHorizon_port (d : Device) (k : Nat) (p : PortIx) : (d.raiseHorizon k).port p = d.port p := by
  by_cases h : d.risesTo k = true
  · rw [Device.raiseHorizon_rises h]
    exact (Device.hardens_kept _ _).2 p
  · rw [Device.raiseHorizon_still (Bool.not_eq_true _ ▸ h)]

/-- R39: the planner once pulse k has been reached. -/
def Planner.reached (pl : Planner) (k : Nat) (rises : Bool) : Planner :=
  if rises then { pl with horizon := some k, pendPeriod := none, pendSpread := none, pendBalance := none } else pl

theorem Device.raiseHorizon_planner (d : Device) (k : Nat) : (d.raiseHorizon k).planner = d.planner.reached k (d.risesTo k) := by
  by_cases h : d.risesTo k = true
  · rw [Device.raiseHorizon_rises h, (Device.hardens_kept _ _).1, Planner.reached, if_pos h]
    rfl
  · rw [Device.raiseHorizon_still (Bool.not_eq_true _ ▸ h), Planner.reached, if_neg h]

theorem Device.risesTo_congr {d e : Device} (h : e.planner = d.planner) (k : Nat) : e.risesTo k = d.risesTo k := by
  simp only [Device.risesTo, Device.runUnderWay, h]

theorem Device.raiseHorizon_planner_congr {d e : Device} (h : e.planner = d.planner) (k : Nat) : (e.raiseHorizon k).planner = (d.raiseHorizon k).planner := by
  rw [Device.raiseHorizon_planner, Device.raiseHorizon_planner, Device.risesTo_congr h, h]

/-- R39: the horizon once pulse k has been reached in a run. -/
theorem Device.raiseHorizon_horizon {d : Device} (h : d.planner.transport ≠ .stopped) (k : Nat) :
    (d.raiseHorizon k).planner.horizon = match d.planner.horizon with | some c => some (Nat.max c k) | none => some k := by
  rw [Device.raiseHorizon_planner]
  cases hh : d.planner.horizon with
  | none =>
    have hrises : d.risesTo k = true := (d.risesTo_iff k).mpr ⟨h, by simp [hh]⟩
    rw [hrises]
    rfl
  | some c =>
    by_cases hlt : c < k
    · have hrises : d.risesTo k = true := (d.risesTo_iff k).mpr ⟨h, by simp [hh, hlt]⟩
      rw [hrises]
      exact congrArg some (Nat.max_eq_right (Nat.le_of_lt hlt)).symm
    · have hrises : d.risesTo k = false := by
        rw [← Bool.not_eq_true, d.risesTo_iff]
        exact fun hr => hlt (hr.2 c hh)
      rw [hrises]
      exact hh.trans (congrArg some (Nat.max_eq_left (Nat.le_of_not_lt hlt)).symm)

/-! ## The rise of the horizon does not look at the ports -/

/-- While no host access waits, the operation does not look at the ports. -/
def Blind (f : Device → Device) : Prop := ∀ (d : Device) (p : PortIx) (x : Port), d.arbiter = [] → f (d.setPort p x) = (f d).setPort p x ∧ (f d).arbiter = []

theorem Blind.comp {f g : Device → Device} (hf : Blind f) (hg : Blind g) : Blind fun d => g (f d) := fun d p x h => by
  obtain ⟨heq, hidle⟩ := hf d p x h
  dsimp only
  rw [heq]
  exact hg (f d) p x hidle

theorem Blind.foldl {α : Type} {f : Device → α → Device} (h : ∀ a, Blind fun d => f d a) : ∀ l : List α, Blind fun d => l.foldl f d
  | [] => fun _ _ _ hq => ⟨rfl, hq⟩
  | a :: l => (h a).comp (Blind.foldl h l)

theorem Device.setPort_write (d : Device) (p : PortIx) (x : Port) (a n v : Nat) : (d.setPort p x).write a n v = (d.write a n v).setPort p x := rfl

theorem Blind.finishSlot (n st : Nat) (r : Result) : Blind fun d => d.finishSlot n st r := by
  intro d p x h
  refine ⟨?_, Device.finishSlot_arbiter h n st r⟩
  have hwrite : (d.setPort p x).writeResult n r = (d.writeResult n r).setPort p x := by
    rw [Device.writeResult_quiet h, Device.writeResult_quiet (d := d.setPort p x) h]
    simp only [Device.setPort_write]
  dsimp only
  rw [Device.finishSlot_quiet h, Device.finishSlot_quiet (d := d.setPort p x) h, hwrite]
  generalize d.writeResult n r = e
  rfl

theorem Blind.endGlobal (c : Cue) (st : Nat) (r : Reason) (k : Nat) : Blind fun d => d.endGlobal c st r k := by
  intro d p x h
  simp only [Device.endGlobal_eq]
  exact Blind.finishSlot _ _ _ (d.withoutGlobal c.slot) p x h

theorem Blind.hardenApplied (k : Nat) : ∀ l : List Cue, Blind fun d => Device.hardenApplied k d l
  | [] => fun _ _ _ hq => ⟨rfl, hq⟩
  | c :: l => by
    intro d p x h
    simp only [Device.hardenApplied, Device.hardenOne_eq]
    exact (Blind.endGlobal _ _ _ _).comp (Blind.hardenApplied k l) d p x h

theorem Blind.harden (e : PlanEntry) : Blind fun d => d.harden e := by
  intro d p x h
  have happlied := Blind.hardenApplied e.pi (d.globalsOf e.applied)
  have hmissed : Blind fun b => (d.globals.filter fun c => e.passed.contains c.slot).foldl (Device.missPassed e.pi) b :=
    .foldl (fun c => by simp only [Device.missPassed_eq]; exact .endGlobal c _ _ _) _
  exact happlied.comp hmissed d p x h

theorem Blind.raiseHorizon (k : Nat) : Blind fun d => d.raiseHorizon k := by
  intro d p x h
  refine ⟨?_, (Keeps.raiseHorizon d k).arbiter h⟩
  have hsame : (d.setPort p x).risesTo k = d.risesTo k := rfl
  dsimp only
  by_cases hr : d.risesTo k = true
  · rw [Device.raiseHorizon_rises hr, Device.raiseHorizon_rises (hsame.trans hr)]
    exact (Blind.foldl Blind.harden (d.softEntries.filter fun e => decide (e.pi ≤ k)) (d.withHorizon k) p x h).1
  · rw [Bool.not_eq_true] at hr
    rw [Device.raiseHorizon_still (d := d) hr, Device.raiseHorizon_still (d := d.setPort p x) (hsame.trans hr)]

/-! ## Emission on a STEP port -/

/-- Timing characters have been queued, withdrawn or confirmed at port p, and nothing else has changed but its forms. -/
structure Times (p : PortIx) (d e : Device) : Prop extends Local p d e, Unwritten d e where
  port : e.port p = { d.port p with
    resume := (e.port p).resume
    step := { (d.port p).step with timing := (e.port p).step.timing, form := (e.port p).step.form, resumeQueued := (e.port p).step.resumeQueued } }

section
variable {p : PortIx}

theorem Times.refl (d : Device) : Times p d d := ⟨.refl d, .refl d, rfl⟩

theorem Times.trans {d e f : Device} (a : Times p d e) (b : Times p e f) : Times p d f := by
  refine ⟨a.toLocal.trans b.toLocal, a.toUnwritten.trans b.toUnwritten, ?_⟩
  have hb := b.port
  rw [a.port] at hb
  exact hb

theorem Times.ite {d a b : Device} {c : Prop} [Decidable c] (ha : Times p d a) (hb : Times p d b) : Times p d (if c then a else b) := by
  split <;> assumption

theorem Times.foldl {α : Type} {f : Device → α → Device} (h : ∀ d a, Times p d (f d a)) : ∀ (l : List α) (d : Device), Times p d (l.foldl f d)
  | [], d => .refl d
  | a :: l, d => (h d a).trans (Times.foldl h l (f d a))

theorem Times.modPort {d : Device} {f : Port → Port} (h : f (d.port p) = { d.port p with
      resume := (f (d.port p)).resume
      step := { (d.port p).step with
        timing := (f (d.port p)).step.timing, form := (f (d.port p)).step.form, resumeQueued := (f (d.port p)).step.resumeQueued } } := by rfl) :
    Times p d (d.modPort p f) := by
  refine ⟨.modPort p d f, .modPort d p f, ?_⟩
  rw [Device.port_modPort_same]
  exact h

variable (p)

theorem Times.queueChar (d : Device) (c : TimingChar) : Times p d (d.queueChar p c) := by
  have hport : (d.captureFault .linkOverrun (some p.val) none).port p = d.port p :=
    (congrArg (fun x : Device => x.port p) (HostOnly.captureFault d .linkOverrun (some p.val) none) :)
  exact .ite .modPort ⟨.captureFault p d _ _ _, .captureFault d _ _ _, by rw [hport]⟩

theorem Times.queueChars (d : Device) (l : List TimingChar) : Times p d (d.queueChars p l) := .foldl (fun d c => .queueChar p d c) l d

theorem Times.queueJoinForm (d : Device) (j : Nat) : Times p d (d.queueJoinForm p j) := (Times.modPort).trans (.queueChars p _ _)

theorem Times.queueResumeForm (d : Device) (b : Nat) : Times p d (d.queueResumeForm p b) := (Times.modPort).trans (.queueChars p _ _)

theorem Times.tryResumeForm (d : Device) : Times p d (d.tryResumeForm p) := by
  unfold Device.tryResumeForm
  split
  · exact .queueResumeForm p _ _
  · exact .refl d

theorem Times.joinFormReached (d : Device) (k : Nat) : Times p d (d.joinFormReached p k) := by
  unfold Device.joinFormReached
  refine Times.trans ?_ .modPort
  split
  · exact .ite (.queueJoinForm p _ _) (.refl d)
  · exact .refl d

theorem Times.resumeReached (d : Device) (b : Nat) : Times p d (d.resumeReached p b) := by
  unfold Device.resumeReached
  exact Times.trans (.ite (.refl d) (.queueResumeForm p _ _)) .modPort

theorem Times.endResume (d : Device) (k : Nat) : Times p d (d.endResume p k) := by
  unfold Device.endResume
  split
  · exact .refl d
  · exact .ite .modPort (.resumeReached p _ _)

theorem Times.haltStep (d : Device) (k : Nat) : Times p d (d.haltStep p k) := by
  unfold Device.haltStep
  exact ((Times.endResume p d k).trans .modPort).trans (.queueChar p _ _)

theorem Times.emitStep (d : Device) (b : RunState) (e : PlanEntry) : Times p d (d.emitStep p b e) := by
  unfold Device.emitStep
  split
  · exact .haltStep p _ _
  · exact ((Times.modPort).trans (.tryResumeForm p _)).trans (.queueChars p _ _)
  · exact .refl d
  · split
    · exact .ite ((Times.resumeReached p _ _).trans (.queueChars p _ _)) (.queueChars p _ _)
    · exact (Times.joinFormReached p _ _).trans (.queueChars p _ _)

end

/-! ## Emission -/

/-- A port has emitted for a reach: of it only its lines, its Step Link, its mixer and its resume boundary have changed, with the same SENDs in flight. -/
structure Emits (p : PortIx) (d e : Device) : Prop extends Local p d e, Unwritten d e where
  port : e.port p = { d.port p with resume := (e.port p).resume, clock := (e.port p).clock, step := (e.port p).step, mixer := (e.port p).mixer }
  flights : (e.port p).step.queue.map (·.cue) = (d.port p).step.queue.map (·.cue)

theorem Emits.refl (p : PortIx) (d : Device) : Emits p d d := ⟨.refl d, .refl d, rfl, rfl⟩

theorem Emits.modPort {p : PortIx} {d : Device} {f : Port → Port} (h : f (d.port p) = { d.port p with
      resume := (f (d.port p)).resume, clock := (f (d.port p)).clock, step := (f (d.port p)).step, mixer := (f (d.port p)).mixer } := by rfl)
    (hflights : (f (d.port p)).step.queue.map (·.cue) = (d.port p).step.queue.map (·.cue) := by rfl) : Emits p d (d.modPort p f) := by
  refine ⟨.modPort p d f, .modPort d p f, ?_, ?_⟩
  · rw [Device.port_modPort_same]
    exact h
  · rw [Device.port_modPort_same]
    exact hflights

theorem Emits.emitClock (p : PortIx) (d : Device) (b : RunState) (e : PlanEntry) : Emits p d (d.emitClock p b e) := by
  unfold Device.emitClock
  split
  · exact .modPort
  · exact .modPort
  · exact .refl p d
  · split
    · split
      · exact .modPort
      · exact .refl p d
    · exact .modPort

theorem Emits.emit (p : PortIx) (d : Device) (b : RunState) (e : PlanEntry) : Emits p d (d.emit p b e) := by
  unfold Device.emit
  split
  · exact .emitClock p d b e
  · have ht := Times.emitStep p d b e
    have hf := Reforms.pump p (d.emitStep p b e)
    refine ⟨ht.toLocal.trans hf.toLocal, ht.toUnwritten.trans hf.toUnwritten, ?_, hf.flights.trans ?_⟩
    · rw [hf.form, ht.port]
    · rw [ht.port]
  · exact .modPort
  · exact .refl p d

/-! ## Dispatch -/

/-- A port has taken its cues at a reach: of it only its list, its run state, its message queue and its mixer have changed. -/
structure Fires (p : PortIx) (d e : Device) : Prop extends Local p d e where
  port : e.port p = { d.port p with
    cues := (e.port p).cues, run := (e.port p).run, mixer := (e.port p).mixer, step := { (d.port p).step with queue := (e.port p).step.queue } }

section
variable {p : PortIx}

theorem Fires.refl (d : Device) : Fires p d d := ⟨.refl d, rfl⟩

theorem Fires.trans {d e f : Device} (a : Fires p d e) (b : Fires p e f) : Fires p d f := by
  refine ⟨a.toLocal.trans b.toLocal, ?_⟩
  have hb := b.port
  rw [a.port] at hb
  exact hb

theorem Fires.ite {d a b : Device} {c : Prop} [Decidable c] (ha : Fires p d a) (hb : Fires p d b) : Fires p d (if c then a else b) := by
  split <;> assumption

theorem Recues.fires {d e : Device} (h : Recues p d e) : Fires p d e := ⟨h.toLocal, by rw [h.port]⟩

theorem Fires.modPort {d : Device} {f : Port → Port} (h : f (d.port p) = { d.port p with
      cues := (f (d.port p)).cues, run := (f (d.port p)).run, mixer := (f (d.port p)).mixer, step := { (d.port p).step with queue := (f (d.port p)).step.queue } } := by rfl) :
    Fires p d (d.modPort p f) := by
  refine ⟨.modPort p d f, ?_⟩
  rw [Device.port_modPort_same]
  exact h

variable (p)

theorem Fires.supersede (d : Device) (l : LastFired) : Fires p d (d.supersede p l) := by
  unfold Device.supersede
  split
  · exact .refl d
  · exact .modPort
  · exact (Recues.endAttempts p d _).fires

theorem Fires.endLast (d : Device) : ∀ l : LastFired, Fires p d (d.endLast l)
  | .ending _ => (Recues.endAttempts p d _).fires
  | .none => .refl d
  | .listed _ => .refl d

theorem Fires.noteFired (d : Device) (c : Cue) : Fires p d (d.noteFired p c).1 := by
  unfold Device.noteFired
  dsimp only
  split
  · exact .refl d
  · exact (Recues.enterList p d _).fires

theorem Fires.captureFault (d : Device) (k : FaultKind) (a b : Option Nat) : Fires p d (d.captureFault k a b) := by
  have hport : (d.captureFault k a b).port p = d.port p := (congrArg (fun x : Device => x.port p) (HostOnly.captureFault d k a b) :)
  exact ⟨.captureFault p d k a b, by rw [hport]⟩

theorem Fires.offerSend (d : Device) (k : Nat) (c : Cue) : Fires p d (d.offerSend p k c) := by
  unfold Device.offerSend
  exact .ite ((Fires.modPort).trans (Recues.writeProgress p _ _ _).fires) ((Fires.captureFault p d _ _ _).trans (Recues.settleAttempt p _ _).fires)

theorem HostOnly.port {d e : Device} (h : HostOnly d e) (q : PortIx) : e.port q = d.port q := (congrArg (fun x : Device => x.port q) h :)

theorem Device.copyLevels_port (d : Device) (a : Nat) : (d.copyLevels a).2.port p = d.port p := by
  have hcopy : ∀ (n a : Nat) (d : Device), HostOnly d (Device.copyBytes n a d).2 := by
    intro n
    induction n with
    | zero => exact fun _ d => .refl d
    | succ n ih => exact fun a d => (HostOnly.pass d).trans (ih (a + 1) d.pass)
  have h : HostOnly d (d.copyLevels a).2 := by
    simp only [Device.copyLevels]
    exact hcopy 192 a d
  exact h.port p

theorem Fires.fireScene (d : Device) (k n fade : Nat) (m : Modulator) (a b : Nat) : Fires p d (d.fireScene p k n fade m a b) := by
  have hcopy : Fires p d (d.copyLevels (sceneBase n)).2 := ⟨.copyLevels p d _, by rw [Device.copyLevels_port]⟩
  unfold Device.fireScene
  generalize d.copyLevels (sceneBase n) = c at *
  exact hcopy.trans .modPort

theorem Fires.fireCue (d : Device) (k : Nat) (l : LastFired) (c : Cue) : Fires p d (d.fireCue p k l c).1 := by
  unfold Device.fireCue
  split
  · exact .offerSend p _ _ _
  · exact ((Fires.supersede p d l).trans .modPort).trans (.noteFired p _ _)
  · exact ((Fires.supersede p d l).trans (.fireScene p _ _ _ _ _ _ _)).trans (.noteFired p _ _)
  · exact .refl d

theorem Fires.dispatchOne (d : Device) (k : Nat) (l : LastFired) (c : Cue) : Fires p d (d.dispatchOne p k l c).1 := by
  unfold Device.dispatchOne
  dsimp only
  split
  · exact (Fires.modPort).trans (.fireCue p _ _ _ _)
  · exact (Fires.modPort).trans (Recues.settleAttempt p _ _).fires

theorem Fires.dispatchLoop (k : Nat) : ∀ (n : Nat) (d : Device) (l : LastFired), Fires p d (Device.dispatchLoop n d p k l)
  | 0, d, l => .endLast p d l
  | n + 1, d, l => by
    unfold Device.dispatchLoop
    split
    · exact .endLast p d l
    · exact .ite (.endLast p d l) ((Fires.dispatchOne p d k l _).trans (Fires.dispatchLoop k n _ _))

theorem Fires.dispatch (d : Device) (k : Nat) : Fires p d (d.dispatch p k) := by
  unfold Device.dispatch
  split
  · exact .dispatchLoop p k _ _ _
  · exact .modPort
  · exact .refl d

end

end Sys2Proof.Machine
end

section
/-! PROOFS. What a port's reach leaves (R117, R120), the join (R120, R94, R97), and the reach of the reference cursor (R36 to R39, R98). -/
namespace Sys2Proof.Machine

/-! ## A port's reach -/

theorem Device.portReachDue_some {d : Device} {p : PortIx} {e : PlanEntry} (h : d.portReachDue p = some e) :
    d.planner.transport ≠ .stopped ∧ (d.port p).nextReach = some e.pi ∧ e ∈ d.planner.plan ∧ 0 ≤ timeDiff d.time (e.due (d.port p).settings.latency) := by
  unfold Device.portReachDue at h
  split at h
  · cases h
  · next hrun =>
    have hruns : d.planner.transport ≠ .stopped := runUnderWay_iff.mp (by simpa using hrun)
    split at h
    · cases h
    · next k hk =>
      split at h
      · cases h
      · next x hx =>
        split at h
        · next htime =>
          cases h
          have hpi : e.pi = k := by simpa using List.find?_some hx
          exact ⟨hruns, by rw [hpi]; exact hk, List.mem_of_find?_eq_some hx, (timeReached_iff _ _).mp htime⟩
        · cases h

theorem Device.portReachDue_none {d : Device} {p : PortIx} (h : (d.port p).nextReach = none) : d.portReachDue p = none := by
  unfold Device.portReachDue
  rw [h]
  split <;> rfl

/-- The device as port p has arrived at the pulse of an entry, the horizon has risen and the head SEND has its release. -/
def Device.reachBegun (d : Device) (p : PortIx) (e : PlanEntry) : Device :=
  ((d.arrive p e.pi).raiseHorizon e.pi).modPort p fun x => { x with step := x.step.release e.beatStart (x.onBoundary e.pi) }

theorem Device.reachPort_eq (d : Device) (p : PortIx) (e : PlanEntry) : d.reachPort p e =
    ((d.reachBegun p e).dispatch p e.pi).emit p ((d.reachBegun p e).port p).run e := rfl

theorem Device.reachBegun_port (d : Device) (p : PortIx) (e : PlanEntry) : (d.reachBegun p e).port p =
    { (d.arrive p e.pi).port p with step := ((d.arrive p e.pi).port p).step.release e.beatStart (((d.arrive p e.pi).port p).onBoundary e.pi) } := by
  rw [Device.reachBegun, Device.port_modPort_same, Device.raiseHorizon_port]

theorem Device.reachPort_other (d : Device) {p q : PortIx} (e : PlanEntry) (h : q ≠ p) : (d.reachPort p e).port q = d.port q := by
  rw [Device.reachPort_eq, (Local.emit p _ _ _).ports q h, (Local.dispatch p _ _).ports q h, Device.reachBegun, Device.port_modPort_ne _ _ h, Device.raiseHorizon_port,
    (Local.arrive p _ _).ports q h]

theorem Device.reachPort_planner (d : Device) (p : PortIx) (e : PlanEntry) : (d.reachPort p e).planner = (d.raiseHorizon e.pi).planner := by
  rw [Device.reachPort_eq, (Local.emit p _ _ _).planner, (Local.dispatch p _ _).planner, Device.reachBegun, Device.modPort_planner,
    Device.raiseHorizon_planner_congr (Local.arrive p d e.pi).planner]

/-- After its arrival a reach leaves the port's state, cursor, join and settle end. -/
theorem Device.reachPort_frame (d : Device) (p : PortIx) (e : PlanEntry) : ∃ (cues : List Cue) (runs : RunState) (resume : Option Nat) (clock : ClockLine) (step : StepLine)
    (mixer : Mixer), (d.reachPort p e).port p =
      { (d.arrive p e.pi).port p with cues := cues, run := runs, resume := resume, clock := clock, step := step, mixer := mixer } ∧
      cues = (((d.reachBegun p e).dispatch p e.pi).port p).cues := by
  have hf := (Fires.dispatch p (d.reachBegun p e) e.pi).port
  have he := (Emits.emit p ((d.reachBegun p e).dispatch p e.pi) ((d.reachBegun p e).port p).run e).port
  rw [← Device.reachPort_eq, hf, Device.reachBegun_port] at he
  exact ⟨_, _, _, _, _, _, he, rfl⟩

theorem Device.reachPort_after (d : Device) (p : PortIx) (e : PlanEntry) : Keeps 2 (d.arrive p e.pi) (d.reachPort p e) ∧ Steady (d.arrive p e.pi) (d.reachPort p e) := by
  have hrelease : ∀ b : Device, Keeps 2 b (b.modPort p fun x => { x with step := x.step.release e.beatStart (x.onBoundary e.pi) }) := fun b => by
    refine .modPort b p _ rfl fun hlinks => ?_
    obtain ⟨hqueue, htiming⟩ := StepLine.release_le (b.port p).step e.beatStart ((b.port p).onBoundary e.pi)
    exact ⟨hqueue ▸ hlinks.1, htiming ▸ hlinks.2.1, hlinks.2.2⟩
  rw [Device.reachPort_eq, Device.reachBegun]
  exact ⟨(((Keeps.raiseHorizon _ _).trans (hrelease _)).trans (.dispatch _ p _)).trans (.emit _ p _ _),
    (((Steady.raiseHorizon _ _).trans (.modPort _ p _)).trans (Local.dispatch p _ _).toSteady).trans (Local.emit p _ _ _).toSteady⟩

/-! ## The join -/

theorem Device.arrive_other {d : Device} {p : PortIx} (hacquiring : (d.port p).state ≠ .acquiring) (hsettling : (d.port p).state ≠ .settling) (k : Nat) :
    d.arrive p k = d.modPort p fun x => { x with cursor := k + 1 } := by
  unfold Device.arrive
  split
  · next h => exact absurd h hacquiring
  · next h => exact absurd h hsettling
  · rfl

/-- R120, R94: an ACQUIRING port joins as it arrives. -/
theorem Device.arrive_joins {d : Device} {p : PortIx} (h : (d.port p).state = .acquiring) (k : Nat) : (d.arrive p k).port p =
    { d.port p with
      cursor := k + 1, join := some k, settleEnd := some (k + 96 * (d.port p).settings.settle),
      state := if (d.port p).settings.settle = 0 then .locked else .settling, cues := (d.port p).cues.map fun c => { c with mark := some k } } := by
  unfold Device.arrive
  rw [h]
  dsimp only
  unfold Device.joinAt Device.markAll
  rw [Device.port_modPort_same, Device.setState_port, Device.port_modPort_same, Device.port_modPort_same]

theorem Device.arrive_joins_cause {d : Device} {p : PortIx} (h : (d.port p).state = .acquiring) (k : Nat) :
    (d.arrive p k).writer.isSome = true ∧ ((d.port p).settings.settle = 0 → (d.arrive p k).attn.getLsbD 1 = true) := by
  obtain ⟨b, st, heq, hstate, hst⟩ : ∃ (b : Device) (st : PortState), d.arrive p k = (b.setState p st).markAll p (some k) ∧ (b.port p).state = .acquiring ∧
      st = if (d.port p).settings.settle = 0 then .locked else .settling := by
    unfold Device.arrive
    rw [h]
    dsimp only
    unfold Device.joinAt
    exact ⟨_, _, rfl, by rw [Device.port_modPort_same, Device.port_modPort_same]; exact h, by rw [Device.port_modPort_same]⟩
  have hne : (b.port p).state ≠ st := by
    rw [hstate, hst]
    split <;> exact PortState.noConfusion
  rw [heq, Device.markAll, Device.modPort_writer, Device.modPort_attn]
  exact ⟨Device.setState_writer hne, fun hsettle => Device.setState_cause hne (.inr (.inr (hst.trans (if_pos hsettle))))⟩

theorem Device.arrive_settles {d : Device} {p : PortIx} (h : (d.port p).state = .settling) {j k : Nat} (hend : (d.port p).settleEnd = some j) (hk : j ≤ k) :
    (d.arrive p k).port p = { d.port p with cursor := k + 1, state := .locked } ∧ (d.arrive p k).writer.isSome = true ∧ (d.arrive p k).attn.getLsbD 1 = true := by
  have hport : (d.modPort p fun x => { x with cursor := k + 1 }).port p = { d.port p with cursor := k + 1 } := Device.port_modPort_same _ _ _
  unfold Device.arrive
  rw [h]
  dsimp only
  generalize d.modPort p (fun x => { x with cursor := k + 1 }) = b at *
  have hsettle : b.settleAt p k = b.setState p .locked := by
    unfold Device.settleAt
    rw [hport, hend]
    exact if_pos hk
  rw [hsettle]
  have hstate : (b.port p).state ≠ .locked := by
    rw [hport, h]
    exact PortState.noConfusion
  exact ⟨by rw [Device.setState_port, hport], Device.setState_writer hstate, Device.setState_cause hstate (.inr (.inr rfl))⟩

theorem Device.arrive_stays {d : Device} {p : PortIx} (h : (d.port p).state = .settling) {j k : Nat} (hend : (d.port p).settleEnd = some j) (hk : k < j) :
    d.arrive p k = d.modPort p fun x => { x with cursor := k + 1 } := by
  unfold Device.arrive
  rw [h]
  dsimp only
  unfold Device.settleAt
  rw [Device.port_modPort_same, hend]
  dsimp only
  rw [if_neg (Nat.not_le.mpr hk)]

theorem Device.dispatch_settling {d : Device} {p : PortIx} (h : (d.port p).state = .settling) (k : Nat) : ((d.dispatch p k).port p).cues =
    (d.port p).cues.map fun c => if c.due ≤ k ∧ c.mark = none then { c with mark := (d.port p).join } else c := by
  unfold Device.dispatch
  rw [h]
  dsimp only
  unfold Device.deferCues
  rw [Device.port_modPort_same]

theorem exec_portReach {s : State} {p : PortIx} {e : PlanEntry} (h : s.portReachDue p = some e) :
    exec (.portReach p) s = .next { s with toDevice := s.noted (s.presenting.reachPort p e) } := by
  have hop : operationOf (.portReach p) s.presenting = s.presenting.reachPort p e := by
    show Device.tryReach s.presenting p = _
    unfold Device.tryReach
    rw [show s.presenting.portReachDue p = some e from h]
  rw [exec_noted rfl, hop]

theorem Device.reach_horizon {d : Device} (hrun : d.planner.transport ≠ .stopped) (p : PortIx) (e : PlanEntry) :
    (d.reachPort p e).planner.horizon = match d.planner.horizon with | some c => some (Nat.max c e.pi) | none => some e.pi :=
  (congrArg Planner.horizon (d.reachPort_planner p e)).trans (Device.raiseHorizon_horizon hrun e.pi)

/-- A port that has arrived SETTLING, or stays so, defers its due cues (R97). -/
theorem Device.reachPort_defers {d : Device} {p : PortIx} {e : PlanEntry} (h : ((d.arrive p e.pi).port p).state = .settling) : ((d.reachPort p e).port p).cues =
    ((d.arrive p e.pi).port p).cues.map fun c => if c.due ≤ e.pi ∧ c.mark = none then { c with mark := ((d.arrive p e.pi).port p).join } else c := by
  obtain ⟨cues, runs, resume, clock, step, mixer, hport, hcues⟩ := d.reachPort_frame p e
  rw [hport, hcues, Device.dispatch_settling (by rw [Device.reachBegun_port]; exact h), Device.reachBegun_port]

/-- Settles O44: the arrival decides state, join and marks; what follows it leaves them. -/
theorem portReachJoins : Obligations.PortReachJoins := by
  unfold Obligations.PortReachJoins
  intro s p e hdue
  have hexec := exec_portReach hdue
  obtain ⟨hrun, hreach, -, -⟩ := Device.portReachDue_some hdue
  obtain ⟨b, hb, hport, hplanner⟩ : ∃ b : Device, b = s.presenting ∧ b.port p = s.port p ∧ b.planner = s.planner := ⟨_, rfl, rfl, rfl⟩
  rw [← hb] at hexec
  have hhorizon := Device.reach_horizon (d := b) (by rw [hplanner]; exact hrun) p e
  rw [hplanner] at hhorizon
  obtain ⟨hkeeps, hsteady⟩ := b.reachPort_after p e
  obtain ⟨cues, runs, resume, clock, step, mixer, hframe, -⟩ := b.reachPort_frame p e
  have hdefers := @Device.reachPort_defers b p e
  generalize b.reachPort p e = d at *
  have hd : (s.noted d).port p = d.port p := rfl
  refine ⟨fun hstate => ⟨s.noted d, hexec, ?_⟩, fun hstate => ⟨s.noted d, hexec, ?_⟩⟩
  · have hjoins := Device.arrive_joins (d := b) (p := p) (by rw [hport]; exact hstate) e.pi
    obtain ⟨hwriter, hcause⟩ := Device.arrive_joins_cause (d := b) (p := p) (by rw [hport]; exact hstate) e.pi
    rw [hport] at hjoins hcause
    rw [hjoins] at hframe hdefers
    have hjoin : (s.port p).join = some e.pi := by
      rw [Port.nextReach, hstate] at hreach
      exact hreach
    refine ⟨hjoin, ?_, ?_, ?_, fun hsettle => ⟨?_, ?_⟩, fun hsettle => ⟨?_, ?_⟩, hsteady.writer hwriter, hhorizon⟩
    · rw [hd, hframe]
    · rw [hd, hframe]
    · rw [hd, hframe]
    · rw [hd, hframe]
      exact if_neg hsettle
    · rw [hd, hdefers (if_neg hsettle), List.map_map]
      refine List.map_congr_left fun c _ => ?_
      exact if_neg fun hnone => Option.noConfusion rfl (heq_of_eq hnone.2)
    · rw [hd, hframe]
      exact if_pos hsettle
    · exact Device.getLsbD_attn_of_keeps hkeeps (hcause hsettle)
  · have hstateb : (b.port p).state = .settling := by rw [hport]; exact hstate
    have hcursor : ((b.arrive p e.pi).port p).cursor = e.pi + 1 := by
      unfold Device.arrive
      rw [hstateb]
      dsimp only
      unfold Device.settleAt
      split
      · split
        · rw [Device.setState_port, Device.port_modPort_same]
        · rw [Device.port_modPort_same]
      · rw [Device.port_modPort_same]
    refine ⟨?_, fun k hend hk => ?_, fun k hend hk => ?_, hhorizon⟩
    · rw [hd, hframe]
      exact hcursor
    · obtain ⟨hsettles, hwriter, hcause⟩ := Device.arrive_settles hstateb (by rw [hport]; exact hend) hk
      refine ⟨?_, Device.getLsbD_attn_of_keeps hkeeps hcause, hsteady.writer hwriter⟩
      rw [hd, hframe, hsettles]
    · have hstays := Device.arrive_stays hstateb (by rw [hport]; exact hend) hk
      have hstaysPort : (b.arrive p e.pi).port p = { s.port p with cursor := e.pi + 1 } := by rw [hstays, Device.port_modPort_same, hport]
      rw [hstaysPort] at hframe hdefers
      constructor
      · rw [hd, hframe]
        exact hstate
      · rw [hd]
        exact hdefers hstate

end Sys2Proof.Machine
end

section
/-! PROOFS. The reach of the reference cursor: what is missed, what still joins, and how far the commit horizon rises (R36 to R39, R98, R162, log 23). -/
namespace Sys2Proof.Machine

/-! ## Operations on every port in turn -/

theorem foldl_invariant {α : Type} {P : Device → Prop} {f : Device → α → Device} (h : ∀ d a, P d → P (f d a)) : ∀ (l : List α) (d : Device), P d → P (l.foldl f d)
  | [], _, hd => hd
  | a :: l, d, hd => foldl_invariant h l _ (h d a hd)

/-- Where an operation on one port leaves the other ports, doing it on every port finds port p as it was, and under what the operation keeps. -/
theorem Device.eachPort_turn {f : Device → PortIx → Device} (hother : ∀ (d : Device) {p q : PortIx}, p ≠ q → (f d q).port p = d.port p) {P : Device → Prop}
    (hkeep : ∀ d q, P d → P (f d q)) {d : Device} (hd : P d) (p : PortIx) :
    ∃ b : Device, P b ∧ b.port p = d.port p ∧ (d.eachPort f).port p = (f b p).port p := by
  have hothers : ∀ l : List PortIx, p ∉ l → ∀ b : Device, (l.foldl f b).port p = b.port p := by
    intro l
    induction l with
    | nil => exact fun _ _ => rfl
    | cons q l ih =>
      intro hp b
      rw [List.mem_cons, not_or] at hp
      exact (ih hp.2 _).trans (hother b hp.1)
  obtain ⟨before, after, hsplit⟩ := List.append_of_mem (Device.mem_allPorts p)
  have hnodup := allPorts_nodup
  rw [hsplit, List.nodup_append, List.nodup_cons] at hnodup
  obtain ⟨-, ⟨hafter, -⟩, hbefore⟩ := hnodup
  refine ⟨before.foldl f d, foldl_invariant hkeep before d hd, hothers before (fun hp => hbefore p hp p List.mem_cons_self rfl) d, ?_⟩
  rw [Device.eachPort, hsplit, List.foldl_append, List.foldl_cons, hothers after hafter]

theorem Device.Arrives.transport {d e : Device} {k : Option Nat} (h : d.Arrives e k) : e.planner.transport = d.planner.transport :=
  (congrArg Planner.transport h.planner :)

/-! ## Missed cues (R98) -/

theorem Cue.aux_afterSkip {c : Cue} (h : c.interval = 0) (r : Reason) : (c.afterSkip r).aux = c.aux := by
  simp [Cue.aux, Cue.afterSkip, h]

theorem dropCue_single (c : Cue) : dropCue c.slot [c] = [] := by
  simp [dropCue]

/-- The last attempt of the only cue of a port that is not ready is missed. -/
theorem Device.missPort_single {d : Device} {p : PortIx} {c : Cue} {k : Nat} (hstate : (d.port p).state.joined = false) (hcues : (d.port p).cues = [c]) (hdue : c.due ≤ k)
    (hleft : c.left = some 1) : Device.missPort k d p = (d.modPort p fun x => { x with cues := [] }).endAttempts (c.afterSkip .detached) := by
  have hdrop : (d.modPort p fun x => { x with cues := dropCue c.slot x.cues }) = d.modPort p fun x => { x with cues := [] } := by
    have hsame : { d.port p with cues := dropCue c.slot (d.port p).cues } = { d.port p with cues := [] } := by rw [hcues, dropCue_single]
    exact congrArg (d.setPort p) hsame
  have hspent : (c.afterSkip .detached).left = some 0 := by
    unfold Cue.afterSkip
    rw [hleft]
    rfl
  have hloop : Device.missLoop 1 d p k = (d.modPort p fun x => { x with cues := dropCue c.slot x.cues }).settleAttempt p (c.afterSkip .detached) := by
    unfold Device.missLoop
    rw [hcues]
    dsimp only [List.head?_cons]
    rw [if_neg (Nat.not_lt.mpr hdue)]
    rfl
  rw [Device.missPort, if_neg (by simp [hstate]), hcues, List.length_singleton, hloop, hdrop, Device.settleAttempt_spent _ _ hspent]

theorem Device.missPort_single_port {d : Device} {p : PortIx} {c : Cue} {k : Nat} (hstate : (d.port p).state.joined = false) (hcues : (d.port p).cues = [c])
    (hdue : c.due ≤ k) (hleft : c.left = some 1) : (Device.missPort k d p).port p = { d.port p with cues := [] } := by
  have hended : ∀ (b : Device) (c : Cue), (b.endAttempts c).port p = b.port p := fun b c => by
    unfold Device.endAttempts Device.endCue
    split <;> exact Device.finishSlot_port _ _ _ _ _
  rw [Device.missPort_single hstate hcues hdue hleft, hended, Device.port_modPort_same]

/-! ## Reaches taken as a pulse is retired (log 23) -/

theorem Device.catchUpLoop_idle {d : Device} {p : PortIx} (h : d.portReachDue p = none) (bound : Nat) : ∀ n : Nat, Device.catchUpLoop bound n d p = d
  | 0 => rfl
  | n + 1 => by
    unfold Device.catchUpLoop
    rw [h]

theorem Device.catchUpLoop_beyond {d : Device} {p : PortIx} {bound : Nat} (h : ∀ e, d.portReachDue p = some e → bound ≤ e.pi) : ∀ n : Nat,
    Device.catchUpLoop bound n d p = d
  | 0 => rfl
  | n + 1 => by
    unfold Device.catchUpLoop
    split
    · next e he => exact if_neg (Nat.not_lt.mpr (h e he))
    · rfl

theorem Device.catchUpLoop_other {p q : PortIx} (h : p ≠ q) (bound : Nat) : ∀ (n : Nat) (d : Device), (Device.catchUpLoop bound n d q).port p = d.port p
  | 0, _ => rfl
  | n + 1, d => by
    unfold Device.catchUpLoop
    split
    · split
      · exact (Device.catchUpLoop_other h bound n _).trans (d.reachPort_other _ h)
      · rfl
    · rfl

/-- The reach of a pulse with no cue in the list dispatches nothing. -/
theorem Device.dispatch_nil {d : Device} {p : PortIx} (h : (d.port p).cues = []) (k : Nat) : d.dispatch p k = d := by
  unfold Device.dispatch
  split
  · rw [h, List.length_nil]
    unfold Device.dispatchLoop
    rw [h]
    rfl
  · have hsame : { d.port p with cues := (d.port p).cues.map fun c => if c.due ≤ k ∧ c.mark = none then { c with mark := (d.port p).join } else c } = d.port p := by
      rw [h, List.map_nil, ← h]
    exact (congrArg (d.setPort p) hsame).trans (d.setPort_self p)
  · rfl

theorem Device.reachPort_nil {d : Device} {p : PortIx} {e : PlanEntry} (h : ((d.arrive p e.pi).port p).cues = []) : ((d.reachPort p e).port p).cues = [] := by
  obtain ⟨cues, runs, resume, clock, step, mixer, hport, hcues⟩ := d.reachPort_frame p e
  have hbegun : ((d.reachBegun p e).port p).cues = [] := by
    rw [Device.reachBegun_port]
    exact h
  rw [hport, hcues, Device.dispatch_nil hbegun, hbegun]

/-- The head of the plan that the cursor reaches is what an ACQUIRING port of latency 0 with its join there reaches, too. -/
theorem Device.portReachDue_joining {d : Device} {p : PortIx} {e : PlanEntry} (hcursor : d.planner.transport ≠ .stopped) (hhead : d.planner.plan.head? = some e)
    (htime : 0 ≤ timeDiff d.time (instantTime e.instant)) (hlatency : (d.port p).settings.latency = 0) (hstate : (d.port p).state = .acquiring)
    (hjoin : (d.port p).join = some e.pi) : d.portReachDue p = some e := by
  have hnext : (d.port p).nextReach = some e.pi := by
    rw [Port.nextReach, hstate]
    exact hjoin
  have hentry : d.planEntry e.pi = some e := by
    obtain ⟨rest, hplan⟩ := List.head?_eq_some_iff.mp hhead
    rw [Device.planEntry, hplan, List.find?_cons_of_pos (by simp)]
  have hdue : e.due (d.port p).settings.latency = instantTime e.instant := by
    rw [hlatency, PlanEntry.due, timeMinus, show BitVec.ofNat 48 0 = 0#48 from rfl, BitVec.sub_zero]
  unfold Device.portReachDue
  rw [hnext]
  dsimp only
  rw [hentry]
  dsimp only
  rw [hdue, if_neg (by simp [runUnderWay_iff.mpr hcursor]), if_pos ((timeReached_iff _ _).mpr htime)]

/-- Such a port with no cue left joins, and reaches nothing more at this cursor reach. -/
theorem Device.catchUp_joins {d : Device} {p : PortIx} {e : PlanEntry} (hdue : d.portReachDue p = some e) (hstate : (d.port p).state = .acquiring)
    (hcues : (d.port p).cues = []) {n : Nat} (hn : n ≠ 0) :
    ((Device.catchUpLoop (e.pi + 1) n d p).port p).cues = [] ∧ ((Device.catchUpLoop (e.pi + 1) n d p).port p).cursor = e.pi + 1 ∧
      ((Device.catchUpLoop (e.pi + 1) n d p).port p).state = if (d.port p).settings.settle = 0 then .locked else .settling := by
  obtain ⟨n, rfl⟩ := Nat.exists_eq_succ_of_ne_zero hn
  have hjoins := Device.arrive_joins hstate e.pi
  have hnil : ((d.reachPort p e).port p).cues = [] := Device.reachPort_nil (by rw [hjoins, hcues]; rfl)
  obtain ⟨cues, runs, resume, clock, step, mixer, hport, -⟩ := d.reachPort_frame p e
  rw [hjoins] at hport
  have hcursor : ((d.reachPort p e).port p).cursor = e.pi + 1 := by rw [hport]
  have hafter : ((d.reachPort p e).port p).state = if (d.port p).settings.settle = 0 then .locked else .settling := by rw [hport]
  have hbeyond : ∀ x, (d.reachPort p e).portReachDue p = some x → e.pi + 1 ≤ x.pi := by
    intro x hx
    obtain ⟨-, hnext, -, -⟩ := Device.portReachDue_some hx
    have hnextReach : ((d.reachPort p e).port p).nextReach = some (e.pi + 1) := by
      rw [Port.nextReach, hafter, hcursor]
      by_cases hsettle : (d.port p).settings.settle = 0
      · rw [if_pos hsettle]
      · rw [if_neg hsettle]
    rw [hnextReach] at hnext
    exact Nat.le_of_eq (Option.some.inj hnext)
  rw [Device.catchUpLoop, hdue]
  dsimp only
  rw [if_pos (Nat.lt_succ_self _), Device.catchUpLoop_beyond hbeyond]
  exact ⟨hnil, hcursor, hafter⟩

/-! ## A port at the cursor's reach -/

theorem Device.catchUpEarly_other {d : Device} {p q : PortIx} (h : p ≠ q) (k : Nat) :
    (if (d.port q).settings.latency = 0 then d else Device.catchUpLoop k 257 d q).port p = d.port p := by
  split
  · rfl
  · exact Device.catchUpLoop_other h k _ d

theorem Device.cursorArrives_port {d : Device} {p : PortIx} {c : Cue} {e : PlanEntry} (hstate : (d.port p).state.joined = false) (hcues : (d.port p).cues = [c])
    (hdue : c.due ≤ e.pi) (hleft : c.left = some 1) : (d.cursorArrives e).port p = { d.port p with cues := [] } := by
  have hraised : ((d.withCursor (e.pi + 1)).raiseHorizon e.pi).port p = d.port p := Device.raiseHorizon_port _ _ _
  obtain ⟨before, after, hbefore, -, hat⟩ := Device.eachPort_at (fun p d => Local.missPort p e.pi d) ((d.withCursor (e.pi + 1)).raiseHorizon e.pi) p
  rw [hraised] at hbefore
  rw [Device.cursorArrives_eq, hat, Device.missPort_single_port (by rw [hbefore]; exact hstate) (by rw [hbefore]; exact hcues) hdue hleft, hbefore]

/-- A port that follows no timeline reaches nothing, and its cue due by then is gone. -/
theorem Device.retiring_detached {d : Device} {p : PortIx} {c : Cue} {e : PlanEntry} (hstate : (d.port p).state.counts = false) (hcues : (d.port p).cues = [c])
    (hdue : c.due ≤ e.pi) (hleft : c.left = some 1) : ((d.retiring e).port p).cues = [] := by
  have hnext : ∀ b : Device, (b.port p).state = (d.port p).state → b.portReachDue p = none := by
    intro b hb
    refine Device.portReachDue_none ?_
    rw [Port.nextReach, hb]
    cases hx : (d.port p).state <;> simp_all [PortState.counts]
  have hjoined : (d.port p).state.joined = false := by
    cases hx : (d.port p).state <;> simp_all [PortState.counts, PortState.joined]
  have hearly : (d.catchUpEarly e).port p = d.port p := by
    obtain ⟨b, -, hb, hat⟩ := Device.eachPort_turn (fun d _ _ h => Device.catchUpEarly_other h (e.pi + 1)) (P := fun _ => True) (fun _ _ _ => trivial) (d := d) trivial p
    refine hat.trans ?_
    split
    · exact hb
    · rw [Device.catchUpLoop_idle (hnext b (by rw [hb]))]
      exact hb
  have harrived := Device.cursorArrives_port (d := d.catchUpEarly e) (p := p) (c := c) (e := e) (by rw [hearly]; exact hjoined) (by rw [hearly]; exact hcues) hdue hleft
  rw [hearly] at harrived
  obtain ⟨b, -, hb, hat⟩ := Device.eachPort_turn (fun d _ _ h => Device.catchUpLoop_other h (e.pi + 1) 257 d) (P := fun _ => True) (fun _ _ _ => trivial)
    (d := (d.catchUpEarly e).cursorArrives e) trivial p
  rw [harrived] at hb
  refine (congrArg Port.cues hat).trans ?_
  rw [Device.catchUpLoop_idle (hnext b (by rw [hb])), hb]

/-- An ACQUIRING port of latency 0 that is to join at the cursor's pulse loses its cue due by then, and joins. -/
theorem Device.retiring_joins {d : Device} {p : PortIx} {c : Cue} {e : PlanEntry} (hreach : d.cursorReachDue = some e) (hlatency : (d.port p).settings.latency = 0)
    (hstate : (d.port p).state = .acquiring) (hjoin : (d.port p).join = some e.pi) (hcues : (d.port p).cues = [c]) (hdue : c.due ≤ e.pi) (hleft : c.left = some 1) :
    ((d.retiring e).port p).cues = [] ∧ ((d.retiring e).port p).cursor = e.pi + 1 ∧
      ((d.retiring e).port p).state = if (d.port p).settings.settle = 0 then .locked else .settling := by
  obtain ⟨hrun, hhead, -, htime⟩ := (Device.cursorReachDue_iff d e).mp hreach
  have hearly : (d.catchUpEarly e).port p = d.port p := by
    obtain ⟨b, -, hb, hat⟩ := Device.eachPort_turn (fun d _ _ h => Device.catchUpEarly_other h (e.pi + 1)) (P := fun _ => True) (fun _ _ _ => trivial) (d := d) trivial p
    refine hat.trans ?_
    rw [if_pos (by rw [hb]; exact hlatency)]
    exact hb
  have hjoined : (d.port p).state.joined = false := by rw [hstate]; rfl
  have harrived := Device.cursorArrives_port (d := d.catchUpEarly e) (p := p) (c := c) (e := e) (by rw [hearly]; exact hjoined) (by rw [hearly]; exact hcues) hdue hleft
  rw [hearly] at harrived
  have hkeeps : Keeps 1 d ((d.catchUpEarly e).cursorArrives e) := ((Keeps.catchUpEarly d e).mono (by omega)).trans (Keeps.cursorArrives _ e)
  have harrives := (((Keeps.catchUpEarly d e).arrives (Nat.le_refl _) (.eachPort (fun d p => .ite (.refl d) (.catchUpLoop _ p _ d)) d)).trans
    ((d.catchUpEarly e).cursorArrives_arrives e)).planner
  rw [show d.retiring e = ((d.catchUpEarly e).cursorArrives e).eachPort (Device.catchUpLoop (e.pi + 1) 257) from rfl]
  generalize (d.catchUpEarly e).cursorArrives e = a at *
  obtain ⟨b, hab, hb, hat⟩ := Device.eachPort_turn (fun d _ _ h => Device.catchUpLoop_other h (e.pi + 1) 257 d) (P := fun b => Keeps 2 a b)
    (fun _ q h => h.trans (Keeps.catchUpLoop _ q _ _)) (Keeps.refl a) p
  rw [harrived] at hb
  have hplan : b.planner.transport = d.planner.transport ∧ b.planner.plan = d.planner.plan :=
    ⟨(hab.transport_eq (Nat.le_refl _)).trans (congrArg Planner.transport harrives :), (hab.plan_eq (Nat.le_refl _)).trans (congrArg Planner.plan harrives :)⟩
  have hreachDue : b.portReachDue p = some e :=
    Device.portReachDue_joining (by rw [hplan.1]; exact hrun) (by rw [hplan.2]; exact hhead) (by rw [hab.time, hkeeps.time]; exact htime) (by rw [hb]; exact hlatency)
      (by rw [hb]; exact hstate) (by rw [hb]; exact hjoin)
  obtain ⟨hnil, hcursor, hafter⟩ := Device.catchUp_joins hreachDue (by rw [hb]; exact hstate) (by rw [hb]) (n := 257) (by omega)
  rw [hb] at hafter
  exact ⟨(congrArg Port.cues hat).trans hnil, (congrArg Port.cursor hat).trans hcursor, (congrArg Port.state hat).trans hafter⟩

/-! ## How far the commit horizon rises (R39) -/

/-- A commit horizon that has risen to k. -/
def covering (h : Option Nat) (k : Nat) : Option Nat :=
  match h with
  | some c => some (Nat.max c k)
  | none => some k

theorem covering_covering (h : Option Nat) {j k : Nat} (hj : j ≤ k) : covering (covering h j) k = covering h k := by
  cases h with
  | none => exact congrArg some (Nat.max_eq_right hj)
  | some c => exact congrArg some ((Nat.max_assoc c j k).trans (congrArg (Nat.max c) (Nat.max_eq_right hj)))

theorem covering_covered (h : Option Nat) {j k : Nat} (hj : j ≤ k) : covering (covering h k) j = covering h k := by
  cases h with
  | none => exact congrArg some (Nat.max_eq_left hj)
  | some c => exact congrArg some ((Nat.max_assoc c k j).trans (congrArg (Nat.max c) (Nat.max_eq_left hj)))

theorem Device.raiseHorizon_covering {d : Device} (h : d.planner.transport ≠ .stopped) (k : Nat) :
    (d.raiseHorizon k).planner.horizon = covering d.planner.horizon k :=
  (Device.raiseHorizon_horizon h k).trans (by unfold covering; rfl)

/-- What the reaches below a bound keep of the horizon is what rising to each of their pulses keeps. -/
theorem Device.catchUpLoop_horizon {k : Nat} {Q : Option Nat → Prop} (hQ : ∀ h j, j ≤ k → Q h → Q (covering h j)) (p : PortIx) : ∀ (n : Nat) (d : Device),
    d.planner.transport ≠ .stopped → Q d.planner.horizon → Q (Device.catchUpLoop (k + 1) n d p).planner.horizon
  | 0, _, _, h => h
  | n + 1, d, hrun, h => by
    unfold Device.catchUpLoop
    split
    · next e _ =>
      split
      · next hbelow =>
        have hrun' : (d.reachPort p e).planner.transport ≠ .stopped := by
          rw [(Keeps.reachPort d p e).transport_eq (Nat.le_refl _)]
          exact hrun
        refine Device.catchUpLoop_horizon hQ p n _ hrun' ?_
        rw [Device.reachPort_planner, Device.raiseHorizon_covering hrun]
        exact hQ _ _ (Nat.le_of_lt_succ hbelow) h
      · exact h
    · exact h

theorem Device.eachPort_horizon {f : Device → PortIx → Device} {Q : Option Nat → Prop} (hkeeps : ∀ d p, Keeps 2 d (f d p))
    (h : ∀ d p, d.planner.transport ≠ .stopped → Q d.planner.horizon → Q (f d p).planner.horizon) {d : Device} (hrun : d.planner.transport ≠ .stopped)
    (hd : Q d.planner.horizon) : Q (d.eachPort f).planner.horizon :=
  (foldl_invariant (P := fun b => b.planner.transport ≠ .stopped ∧ Q b.planner.horizon)
    (fun b p hb => ⟨by rw [(hkeeps b p).transport_eq (Nat.le_refl _)]; exact hb.1, h b p hb.1 hb.2⟩) allPorts d ⟨hrun, hd⟩).2

theorem Device.catchUpEach_horizon {k n : Nat} {Q : Option Nat → Prop} (hQ : ∀ h j, j ≤ k → Q h → Q (covering h j)) {d : Device}
    (hrun : d.planner.transport ≠ .stopped) (hd : Q d.planner.horizon) : Q (d.eachPort (Device.catchUpLoop (k + 1) n)).planner.horizon :=
  Device.eachPort_horizon (fun b p => .catchUpLoop _ p _ b) (fun b p => Device.catchUpLoop_horizon hQ p n b) hrun hd

theorem Device.catchUpSome_horizon {k n : Nat} {Q : Option Nat → Prop} (hQ : ∀ h j, j ≤ k → Q h → Q (covering h j)) {d : Device}
    (hrun : d.planner.transport ≠ .stopped) (hd : Q d.planner.horizon) :
    Q (d.eachPort fun d p => if (d.port p).settings.latency = 0 then d else Device.catchUpLoop (k + 1) n d p).planner.horizon := by
  refine Device.eachPort_horizon (fun b p => .ite (.refl b) (.catchUpLoop _ p _ b)) (fun b p hb h => ?_) hrun hd
  split
  · exact h
  · exact Device.catchUpLoop_horizon hQ p n b hb h

/-- The horizon as the cursor has arrived: the misses leave it. -/
theorem Device.cursorArrives_horizon {d : Device} (hrun : d.planner.transport ≠ .stopped) (e : PlanEntry) :
    (d.cursorArrives e).planner.horizon = covering d.planner.horizon e.pi := by
  rw [Device.cursorArrives_eq, (Ported.eachPort (fun p d => Local.missPort p e.pi d) _).planner, Device.raiseHorizon_covering (by exact hrun)]
  rfl

theorem Device.retiring_horizon {d : Device} (hrun : d.planner.transport ≠ .stopped) (e : PlanEntry) :
    (d.retiring e).planner.horizon = covering d.planner.horizon e.pi := by
  have hearly : covering (d.catchUpEarly e).planner.horizon e.pi = covering d.planner.horizon e.pi := by
    unfold Device.catchUpEarly
    exact Device.catchUpSome_horizon (Q := fun h => covering h e.pi = covering d.planner.horizon e.pi) (fun h _ hj hcov => (covering_covering h hj).trans hcov) hrun rfl
  have hrunEarly : (d.catchUpEarly e).planner.transport ≠ .stopped := by
    rw [(Keeps.catchUpEarly d e).transport_eq (Nat.le_refl _)]
    exact hrun
  have harrived := Device.cursorArrives_horizon hrunEarly e
  have hrunArrived : ((d.catchUpEarly e).cursorArrives e).planner.transport ≠ .stopped := by
    rw [((d.catchUpEarly e).cursorArrives_arrives e).transport]
    exact hrunEarly
  rw [hearly] at harrived
  rw [show d.retiring e = ((d.catchUpEarly e).cursorArrives e).eachPort (Device.catchUpLoop (e.pi + 1) 257) from rfl]
  generalize (d.catchUpEarly e).cursorArrives e = a at *
  refine Device.catchUpEach_horizon (Q := fun h => h = covering d.planner.horizon e.pi) (fun h j hj hcov => ?_) hrunArrived harrived
  rw [hcov]
  exact covering_covered _ hj

/-! ## The reach -/

theorem Device.retired_port (d : Device) (e : PlanEntry) (p : PortIx) : (d.retired e).port p = d.port p := by
  unfold Device.retired
  split
  · rw [Device.requestStatus_port]
    rfl
  · rfl

/-- Settles O40: before the retirement the cursor, the horizon and the ports take the pulse; the retirement takes the entry out of the plan. -/
theorem cursorReach : Obligations.CursorReach := by
  unfold Obligations.CursorReach
  intro s
  refine ⟨fun e => Device.cursorReachDue_iff s.toDevice e, fun hnone => ?_, fun p c k hmem hquiet hstate hcues hslot hdue hinterval hleft hlast => ?_,
    fun e hdue hlatched => ?_⟩
  · refine exec_of_noEffect rfl ?_
    show Device.tryCursorReach s.presenting = _
    unfold Device.tryCursorReach
    rw [show s.presenting.cursorReachDue = none from hnone]
  · refine ⟨?_, congrArg Port.cues (Device.missPort_single_port hstate hcues hdue hleft)⟩
    rw [Device.missPort_single hstate hcues hdue hleft, Device.endAttempts_missed _ (show (c.afterSkip .detached).lastFired = none from hlast)]
    unfold Device.endCue
    rw [Cue.aux_afterSkip hinterval]
    have hrevision : (c.afterSkip .detached).revision = c.revision := if_neg (by simpa using hinterval)
    rw [hrevision]
    exact Device.finishSlot_shows (by rw [Device.modPort_arbiter]; exact hquiet) _ (by rw [Device.MemOk, Device.modPort_mem]; exact hmem) hslot (by decide)
  · have hrun : s.presenting.planner.transport ≠ .stopped := ((Device.cursorReachDue_iff s.toDevice e).mp hdue).1
    have hmem : e ∈ s.presenting.planner.plan := List.mem_of_head? ((Device.cursorReachDue_iff s.toDevice e).mp hdue).2.1
    have hkeeps := Keeps.reachCursor s.presenting e hmem
    refine ⟨_, exec_cursorReach hdue, ?_⟩
    have harrives := (s.presenting.retiring_arrives e).planner
    have hhorizon := Device.retiring_horizon hrun e
    have hdetached := fun (p : PortIx) (c : Cue) => @Device.retiring_detached s.presenting p c e
    have hjoins := fun (p : PortIx) (c : Cue) => @Device.retiring_joins s.presenting p c e hdue
    have hlatched' : (s.presenting.retiring e).planner.latched ≠ some e.pi := by
      rw [(congrArg Planner.latched harrives :)]
      exact hlatched
    rw [Device.reachCursor_eq, Device.retireEntry_eq, if_neg hlatched'] at hkeeps ⊢
    have hfields : ∃ b : Device, b = s.presenting ∧ b.planner = s.planner ∧ b.time = s.time ∧ b.follower = s.follower ∧ b.mode = s.mode ∧ b.service = s.service ∧
        b.house = s.house ∧ ∀ p, b.port p = s.port p := ⟨_, rfl, rfl, rfl, rfl, rfl, rfl, rfl, fun _ => rfl⟩
    obtain ⟨b, hb, hplanner, htime, hfollower, hmode, hservice, hhouse, hport⟩ := hfields
    rw [← hb] at hkeeps harrives hhorizon hdetached hjoins ⊢
    generalize b.retiring e = r at *
    have hretired := r.retired_planner e
    have hports := r.retired_port e
    have hwriter : e.beatStart = true → (r.retired e).writer.isSome = true := fun hbeat => by
      unfold Device.retired
      rw [if_pos hbeat]
      exact Device.requestStatus_isSome _
    generalize r.retired e = d at *
    rw [harrives] at hretired
    have hhistory : d.planner.history = if e.beatStart then appendHistory s.planner.history e.instant else s.planner.history := by
      rw [← hplanner]
      exact (congrArg Planner.history hretired :)
    have hrisen : d.planner.horizon = covering s.planner.horizon e.pi := by
      rw [← hplanner, ← hhorizon]
      exact (congrArg Planner.horizon hretired :)
    rw [appendHistory_eq] at hhistory
    refine ⟨(congrArg Planner.cursor hretired :), (congrArg Planner.anchor hretired :), ?_, hhistory, hrisen.trans (by unfold covering; rfl), hwriter, ?_, ?_,
      fun p c hcounts hcues hdue' hinterval hleft => ?_, fun p c hlatency hstate hjoin hcues hdue' hinterval hleft => ?_, hkeeps.time.trans htime,
      (hkeeps.follower (Nat.le_refl _)).trans hfollower, (hkeeps.mode (Nat.le_refl _)).trans hmode, (hkeeps.service (Nat.le_refl _)).trans hservice, (hkeeps.house (Nat.le_refl _)).trans hhouse⟩
    · rw [← hplanner]
      exact (congrArg Planner.plan hretired :)
    · rw [← hplanner]
      exact (congrArg Planner.transport hretired :)
    · rw [← hplanner]
      exact (congrArg Planner.latched hretired :)
    · rw [show (s.noted d).port p = d.port p from rfl, hports]
      exact hdetached p c (by rw [hport]; exact hcounts) (by rw [hport]; exact hcues) hdue' hleft
    · have hjoined := hjoins p c (by rw [hport]; exact hlatency) (by rw [hport]; exact hstate) (by rw [hport]; exact hjoin) (by rw [hport]; exact hcues) hdue' hleft
      rw [show (s.noted d).port p = d.port p from rfl, hports]
      rw [hport] at hjoined
      exact hjoined

end Sys2Proof.Machine
end

section
/-! PROOFS. The reach of a port that takes no cue: the horizon, the release of the head SEND and the traffic of the port's kind (R117, R127 to R129, R133, R138, R146). -/
namespace Sys2Proof.Machine

/-! ## The port as it emits -/

/-- The record of port x that stays in its state as it reaches the pulse of e. -/
def Port.reaching (x : Port) (e : PlanEntry) : Port := { x with cursor := e.pi + 1, step := x.step.release e.beatStart (x.onBoundary e.pi) }

theorem Device.setPort_modPort (d : Device) (p : PortIx) (x : Port) (f : Port → Port) : (d.setPort p x).modPort p f = d.setPort p (f x) := by
  rw [Device.modPort, Device.port_setPort_same, Device.setPort_setPort]

/-- A port that is SETTLING before its settle end, or LOCKED, stays in its state as it arrives. -/
theorem Device.arrive_still {d : Device} {p : PortIx} {k : Nat} (h : (d.port p).state = .locked ∨ ((d.port p).state = .settling ∧ ∃ j, (d.port p).settleEnd = some j ∧ k < j)) :
    d.arrive p k = d.modPort p fun x => { x with cursor := k + 1 } := by
  rcases h with hlocked | ⟨hsettling, j, hend, hk⟩
  · exact Device.arrive_other (by rw [hlocked]; exact PortState.noConfusion) (by rw [hlocked]; exact PortState.noConfusion) k
  · exact Device.arrive_stays hsettling hend hk

theorem Device.reachBegun_still {d : Device} {p : PortIx} {e : PlanEntry} (hquiet : d.arbiter = [])
    (h : d.arrive p e.pi = d.modPort p fun x => { x with cursor := e.pi + 1 }) :
    d.reachBegun p e = (d.raiseHorizon e.pi).setPort p ((d.port p).reaching e) := by
  have harrived : d.arrive p e.pi = d.setPort p { d.port p with cursor := e.pi + 1 } := h
  have hraised := (Blind.raiseHorizon e.pi d p { d.port p with cursor := e.pi + 1 } hquiet).1
  dsimp only at hraised
  rw [Device.reachBegun, harrived, hraised]
  generalize d.raiseHorizon e.pi = r
  rw [Device.setPort_modPort]
  rfl

/-- A port with nothing to dispatch emits. -/
theorem Device.reachPort_quietly {d : Device} {p : PortIx} {e : PlanEntry} (hquiet : d.arbiter = []) (hcues : (d.port p).cues = [])
    (h : d.arrive p e.pi = d.modPort p fun x => { x with cursor := e.pi + 1 }) :
    d.reachPort p e = ((d.raiseHorizon e.pi).setPort p ((d.port p).reaching e)).emit p (d.port p).run e := by
  have hbegun := Device.reachBegun_still hquiet h
  have hport : ((d.raiseHorizon e.pi).setPort p ((d.port p).reaching e)).port p = (d.port p).reaching e := Device.port_setPort_same _ _ _
  rw [Device.reachPort_eq, hbegun, Device.dispatch_nil (by rw [hport]; exact hcues), hport]
  rfl

/-! ## The release of the head SEND (R138, R140) -/

theorem StepLine.release_empty {s : StepLine} (h : s.queue = []) (beat boundary : Bool) : s.release beat boundary = s := by
  rw [StepLine.release, h]

theorem Port.reaching_empty {x : Port} (h : x.step.queue = []) (e : PlanEntry) : x.reaching e = { x with cursor := e.pi + 1 } := by
  rw [Port.reaching, StepLine.release_empty h]

theorem StepLine.aborting_iff (s : StepLine) : s.aborting = true ↔ 0x13F ∈ s.owed ∨ ∃ l, s.line = some l ∧ l.code = 0x13F := by
  unfold StepLine.aborting chAbort
  cases s.line <;> simp

theorem Pacing.releasedBy_iff (x : Pacing) (beat boundary : Bool) : x.releasedBy beat boundary = true ↔ (x = .perBeat ∧ beat = true) ∨ (x = .perTick ∧ boundary = true) := by
  cases x <;> simp [Pacing.releasedBy]

theorem StepLine.release_counts {s : StepLine} {f : Flight} {rest : List Flight} (hqueue : s.queue = f :: rest) {beat boundary : Bool}
    (h : ¬ (0x13F ∈ s.owed ∨ ∃ l, s.line = some l ∧ l.code = 0x13F) ∧
      ((f.cue.body.pacing = .perBeat ∧ beat = true) ∨ (f.cue.body.pacing = .perTick ∧ boundary = true))) :
    (s.release beat boundary).queue = f.released :: rest := by
  obtain ⟨hfree, hpaced⟩ := h
  rw [← StepLine.aborting_iff, Bool.not_eq_true] at hfree
  rw [← Pacing.releasedBy_iff] at hpaced
  have hif : s.release beat boundary = { s with queue := f.released :: rest } := by
    rw [StepLine.release, hqueue]
    exact if_pos (by simp [hfree, hpaced])
  rw [hif]

theorem StepLine.release_still {s : StepLine} {f : Flight} {rest : List Flight} (hqueue : s.queue = f :: rest) {beat boundary : Bool}
    (h : ¬ (¬ (0x13F ∈ s.owed ∨ ∃ l, s.line = some l ∧ l.code = 0x13F) ∧
      ((f.cue.body.pacing = .perBeat ∧ beat = true) ∨ (f.cue.body.pacing = .perTick ∧ boundary = true)))) :
    s.release beat boundary = s := by
  rw [← StepLine.aborting_iff, ← Pacing.releasedBy_iff] at h
  rw [StepLine.release, hqueue]
  refine if_neg ?_
  simpa [and_comm] using h

theorem StepLine.release_line (s : StepLine) (beat boundary : Bool) : (s.release beat boundary).line = s.line := by
  unfold StepLine.release
  split
  · split <;> rfl
  · rfl

/-- While a character is on the line the emission of a STEP port leaves the SENDs. -/
theorem Device.emit_sends {d : Device} {p : PortIx} (hkind : (d.port p).settings.kind = .step) (hline : (d.port p).step.line.isSome = true) (b : RunState) (e : PlanEntry) :
    ((d.emit p b e).port p).step.queue = (d.port p).step.queue := by
  have htimes := Times.emitStep p d b e
  have hsame : ((d.emitStep p b e).port p).step.line = (d.port p).step.line := by rw [htimes.port]
  have hqueue : ((d.emitStep p b e).port p).step.queue = (d.port p).step.queue := by rw [htimes.port]
  have hpump : ((d.emitStep p b e).pump p).port p = (d.emitStep p b e).port p := by
    have hchoose : (d.emitStep p b e).choose p = d.emitStep p b e := by
      refine Device.modPort_eq_self ?_
      have hstart : ∀ (m : List Host.Cell) (now : Time), ((d.emitStep p b e).port p).step.startNext m now = ((d.emitStep p b e).port p).step := fun m now => by
        obtain ⟨l, hl⟩ := Option.isSome_iff_exists.mp hline
        rw [StepLine.startNext, hsame, hl]
      rw [hstart]
    rw [Device.pump, hchoose, ite_self]
  have hemit : d.emit p b e = (d.emitStep p b e).pump p := by
    rw [Device.emit, hkind]
  rw [hemit, hpump, hqueue]

/-! ## A CLOCK port (R127 to R129) -/

theorem Device.emit_clock {d : Device} {p : PortIx} (hkind : (d.port p).settings.kind = .clock) (hrun : (d.port p).run = .run) (hresume : (d.port p).resume = none)
    {b : RunState} (hb : b = .run) (e : PlanEntry) : d.emit p b e = d.modPort p fun x => { x with clock := x.clock.reach d.time x e } := by
  rw [Device.emit, hkind]
  dsimp only
  unfold Device.emitClock
  simp only [hb, hrun, hresume]

/-- Emitting an edge leaves wire B, the forms and the fall that is owed. -/
theorem ClockLine.emit_frame (c : ClockLine) (now : Time) (x : Edge) :
    (c.emit now x).wireB = c.wireB ∧ (c.emit now x).form = c.form ∧ (c.emit now x).fallOwed = c.fallOwed := by
  have hstart : ∀ c : ClockLine, (c.startEdge now).wireB = c.wireB ∧ (c.startEdge now).form = c.form ∧ (c.startEdge now).fallOwed = c.fallOwed := by
    intro c
    unfold ClockLine.startEdge
    split
    · split <;> exact ⟨rfl, rfl, rfl⟩
    · exact ⟨rfl, rfl, rfl⟩
  unfold ClockLine.emit
  split
  · exact hstart _
  · exact ⟨rfl, rfl, rfl⟩

/-- The reach of the join pulse after the RESET pulse: RUN rises, and with no stop it stays high. -/
theorem ClockLine.reach_rises {c : ClockLine} {x : Port} {e : PlanEntry} (hresume : x.resume = none) (hform : c.form = .ready e.pi) (hstop : e.stop = false) (now : Time) :
    (c.reach now x e).wireB = true ∧ (c.reach now x e).form = .none ∧ (c.reach now x e).fallOwed = false := by
  have hrises : c.joinReached now e.pi = c.runRises := by
    rw [ClockLine.joinReached, hform]
    exact if_pos rfl
  unfold ClockLine.reach
  simp only [hresume, hrises, hstop, reduceCtorEq, if_false, Bool.false_eq_true]
  split
  · exact c.runRises.emit_frame now _
  · exact ⟨rfl, rfl, rfl⟩

/-- An idle line with no form: an edge at a boundary, and the stop form. -/
theorem ClockLine.reach_idle {c : ClockLine} {x : Port} {e : PlanEntry} (hresume : x.resume = none) (hform : c.form = .none) (hwaiting : c.waiting = [])
    (hphase : c.phase = .rest) (now : Time) : c.reach now x e =
      { c with
        phase := if x.onBoundary e.pi then .active (timePlus now (edgeWidth x.settings.division e.period)) else .rest
        wireB := if e.stop && !x.onBoundary e.pi then false else c.wireB
        fallOwed := if e.stop && x.onBoundary e.pi then true else c.fallOwed } := by
  have hjoin : c.joinReached now e.pi = c := by
    rw [ClockLine.joinReached, hform]
  have hemit : c.emit now { pi := e.pi, width := edgeWidth x.settings.division e.period } =
      { c with phase := .active (timePlus now (edgeWidth x.settings.division e.period)) } := by
    obtain ⟨negative, phase, waiting, wireB, form, fallOwed⟩ := c
    cases hform
    cases hwaiting
    cases hphase
    rfl
  unfold ClockLine.reach
  simp only [hresume, hjoin, hemit, reduceCtorEq, if_false]
  obtain ⟨negative, phase, waiting, wireB, form, fallOwed⟩ := c
  cases hform
  cases hwaiting
  cases hphase
  cases x.onBoundary e.pi <;> cases e.stop <;> simp [ClockLine.stopForm]

/-! ## A STEP port (R133, R134) -/

theorem Device.emit_step {d : Device} {p : PortIx} (hkind : (d.port p).settings.kind = .step) (hrun : (d.port p).run = .run) (hresume : (d.port p).resume = none)
    {b : RunState} (hb : b = .run) (e : PlanEntry) : d.emit p b e = ((d.joinFormReached p e.pi).queueChars p ((d.port p).timingChars e true)).pump p := by
  rw [Device.emit, hkind]
  dsimp only
  unfold Device.emitStep
  simp only [hb, hrun, hresume]

/-- Table 8-2: the codes of the timing characters of a reach. -/
theorem Port.timingChars_codes (x : Port) (e : PlanEntry) : (x.timingChars e true).map (·.code) =
    (if e.pi % x.settings.division = 0 then [if e.barStart then 0x103 else if e.beatStart then 0x102 else 0x101] else []) ++ (if e.stop then [0x111] else []) := by
  have hcode : timingCode e = if e.barStart then 0x103 else if e.beatStart then 0x102 else 0x101 := rfl
  unfold Port.timingChars Port.onBoundary
  rw [List.map_append, hcode]
  congr 1
  · by_cases h : e.pi % x.settings.division = 0 <;> simp [h, TimingChar.plain]
  · cases e.stop <;> simp [TimingChar.plain, chStop]

theorem Port.timingChars_length (x : Port) (e : PlanEntry) (b : Bool) : (x.timingChars e b).length ≤ 2 := by
  unfold Port.timingChars
  rw [List.length_append]
  split <;> split <;> simp

/-- What an idle transmitter with nothing before it makes of timing characters. -/
theorem StepLine.startNext_codes {s : StepLine} (hline : s.line = none) (howed : s.owed = []) (hqueue : s.queue = []) (m : List Host.Cell) (now : Time) :
    ((s.startNext m now).line.map (·.code)).toList ++ (s.startNext m now).timing.map (·.code) = s.timing.map (·.code) ∧
      ∀ l, (s.startNext m now).line = some l → l.ends = timePlus now 110 := by
  cases htiming : s.timing with
  | nil =>
    rw [StepLine.startNext_none hline htiming howed hqueue, hline, htiming]
    exact ⟨rfl, fun l h => Option.noConfusion rfl (heq_of_eq h)⟩
  | cons c rest =>
    rw [StepLine.startNext_timing hline htiming]
    refine ⟨rfl, fun l h => ?_⟩
    cases h
    rfl

/-- An idle STEP port with nothing before it sends the characters of the reach. -/
theorem Device.emit_step_idle {d : Device} {p : PortIx} (hkind : (d.port p).settings.kind = .step) (hrun : (d.port p).run = .run) (hresume : (d.port p).resume = none)
    (hform : (d.port p).step.form = .none) (htiming : (d.port p).step.timing = []) (hline : (d.port p).step.line = none) (howed : (d.port p).step.owed = [])
    (hqueue : (d.port p).step.queue = []) {b : RunState} (hb : b = .run) (e : PlanEntry) :
    (((d.emit p b e).port p).step.line.map (·.code)).toList ++ ((d.emit p b e).port p).step.timing.map (·.code) =
        (if e.pi % (d.port p).settings.division = 0 then [if e.barStart then 0x103 else if e.beatStart then 0x102 else 0x101] else []) ++
          (if e.stop then [0x111] else []) ∧
      ∀ l, ((d.emit p b e).port p).step.line = some l → l.ends = timePlus d.time 110 := by
  have hreached : d.joinFormReached p e.pi = d := by
    have hsame : { d.port p with step := { (d.port p).step with form := .none } } = d.port p := by rw [← hform]
    unfold Device.joinFormReached
    simp only [hform]
    exact Device.modPort_eq_self hsame
  have hroom : (d.port p).step.timing.length + ((d.port p).timingChars e true).length ≤ 16 := by
    have := (d.port p).timingChars_length e true
    rw [htiming, List.length_nil]
    omega
  rw [Device.emit_step hkind hrun hresume hb, hreached, Device.queueChars_room _ hroom, ← Port.timingChars_codes]
  generalize (d.port p).timingChars e true = l
  have htime : (d.modPort p fun x => { x with step := { x.step with timing := x.step.timing ++ l } }).time = d.time := rfl
  have hstep : ((d.modPort p fun x => { x with step := { x.step with timing := x.step.timing ++ l } }).port p).step = { (d.port p).step with timing := l } := by
    rw [Device.port_modPort_same, htiming]
    rfl
  generalize d.modPort p (fun x => { x with step := { x.step with timing := x.step.timing ++ l } }) = b at *
  unfold Device.pump
  split
  · rw [hstep, hline]
    exact ⟨rfl, fun l h => Option.noConfusion rfl (heq_of_eq h)⟩
  · unfold Device.choose
    rw [Device.port_modPort_same, hstep, htime]
    exact StepLine.startNext_codes (s := { (d.port p).step with timing := l }) hline howed hqueue _ _

/-! ## The reach -/

/-- Settles O43: with nothing to dispatch, the reach is the rise of the horizon, the release of the head SEND and the emission. -/
theorem portReachEmits : Obligations.PortReachEmits := by
  unfold Obligations.PortReachEmits
  intro s p
  refine ⟨fun hnone => ?_, fun e hdue => (Device.portReachDue_some hdue).2.2.2, fun e hdue hstill hcues hquiet => ?_⟩
  · refine exec_of_noEffect rfl ?_
    show Device.tryReach s.presenting p = _
    unfold Device.tryReach
    rw [show s.presenting.portReachDue p = none from hnone]
  have hop : operationOf (.portReach p) s.toDevice = s.reachPort p e := by
    show Device.tryReach s.toDevice p = _
    unfold Device.tryReach
    rw [hdue]
  have hreach := Device.reachPort_quietly hquiet.idle hcues (Device.arrive_still hstill)
  have hidle : (s.raiseHorizon e.pi).arbiter = [] := (Keeps.raiseHorizon s.toDevice e.pi).arbiter hquiet.idle
  have htime : (s.raiseHorizon e.pi).time = s.time := (Keeps.raiseHorizon s.toDevice e.pi).time
  have hothers : ∀ q, (s.raiseHorizon e.pi).port q = s.port q := s.raiseHorizon_port e.pi
  have hplanner := s.raiseHorizon_planner e.pi
  generalize s.raiseHorizon e.pi = r at *
  have hemits := Emits.emit p (r.setPort p ((s.port p).reaching e)) (s.port p).run e
  have hport : (r.setPort p ((s.port p).reaching e)).port p = (s.port p).reaching e := Device.port_setPort_same _ _ _
  have hexec := exec_of_quiet hquiet (c := .portReach p) rfl (by rw [hop, hreach, hemits.arbiter]; exact hidle)
  rw [hop, hreach] at hexec
  refine ⟨_, hexec, ?_, fun q hq => ?_, hemits.planner, hemits.globals, hemits.mem, fun hrises => ?_, fun hqueue hkind => ?_,
    fun hqueue hkind hrun hresume hform hwaiting hphase => ?_, fun hkind hrun hresume hform hstop => ?_,
    fun hkind hrun hresume hform htiming hline howed hqueue => ?_, fun f rest hkind hline hqueue => ?_⟩
  · rw [hemits.port, hport]
    rfl
  · rw [hemits.ports q hq, Device.port_setPort_ne _ _ hq, hothers]
  · rw [hemits.planner]
    refine (congrArg Planner.horizon hplanner).trans ?_
    rw [Planner.reached, if_pos hrises]
  · rw [Port.reaching_empty hqueue] at hport ⊢
    have hemit : (r.setPort p { s.port p with cursor := e.pi + 1 }).emit p (s.port p).run e =
        (r.setPort p { s.port p with cursor := e.pi + 1 }).modPort p fun x => { x with mixer := x.mixer.reach e.pi } := by
      unfold Device.emit
      simp only [hport, hkind]
    rw [hemit, Device.setPort_modPort]
    rfl
  · rw [Port.reaching_empty hqueue] at hport ⊢
    rw [Device.emit_clock (by rw [hport]; exact hkind) (by rw [hport]; exact hrun) (by rw [hport]; exact hresume) hrun, Device.setPort_modPort,
      show (r.setPort p { s.port p with cursor := e.pi + 1 }).time = s.time from htime, ClockLine.reach_idle (by exact hresume) (by exact hform) (by exact hwaiting) (by exact hphase)]
    rfl
  · rw [Device.emit_clock (by rw [hport]; exact hkind) (by rw [hport]; exact hrun) (by rw [hport]; exact hresume) hrun, Device.setPort_modPort, Device.port_setPort_same]
    exact ClockLine.reach_rises hresume hform hstop _
  · rw [Port.reaching_empty hqueue] at hport ⊢
    have hidleStep := Device.emit_step_idle (d := r.setPort p { s.port p with cursor := e.pi + 1 }) (p := p) (by rw [hport]; exact hkind) (by rw [hport]; exact hrun)
      (by rw [hport]; exact hresume) (by rw [hport]; exact hform) (by rw [hport]; exact htiming) (by rw [hport]; exact hline) (by rw [hport]; exact howed)
      (by rw [hport]; exact hqueue) hrun e
    rw [hport, show (r.setPort p { s.port p with cursor := e.pi + 1 }).time = s.time from htime] at hidleStep
    exact hidleStep
  · have hsends := Device.emit_sends (d := r.setPort p ((s.port p).reaching e)) (p := p) (by rw [hport]; exact hkind)
      (by rw [hport]; exact (congrArg Option.isSome (StepLine.release_line _ _ _)).trans hline) (s.port p).run e
    rw [hport] at hsends
    have hboundary : (s.port p).onBoundary e.pi = true ↔ e.pi % (s.port p).settings.division = 0 := beq_iff_eq
    rw [← hboundary]
    dsimp only
    refine ⟨fun hcounts => hsends.trans (StepLine.release_counts hqueue hcounts), fun hcounts => hsends.trans ?_⟩
    rw [← hqueue]
    exact congrArg StepLine.queue (StepLine.release_still hqueue hcounts)

end Sys2Proof.Machine
end

section
/-! PROOFS. Dispatch (R97, R99, R101): the loop over the head of the list, what a fired attempt leaves (R100, R136, R148), and the slot shown as a cue ends. -/
namespace Sys2Proof.Machine

/-! ## The reach of a LOCKED port -/

/-- The device as a LOCKED port begins to dispatch for the entry e, and the exec of that reach. -/
structure State.Dispatching (s : State) (p : PortIx) (e : PlanEntry) (b : Device) : Prop where
  port : b.port p = (s.port p).reaching e
  mem : b.mem = s.mem
  prot : b.prot = s.prot
  planner : b.planner = s.planner
  time : b.time = s.time
  idle : b.arbiter = []
  exec : exec (.portReach p) s = .next { s with toDevice := (b.dispatch p e.pi).emit p (s.port p).run e }

theorem State.dispatching {s : State} {p : PortIx} {e : PlanEntry} (hquiet : s.Quiet) (hdue : s.portReachDue p = some e) (hlocked : (s.port p).state = .locked)
    (hstill : s.risesTo e.pi = false) : ∃ b : Device, s.Dispatching p e b := by
  have hop : operationOf (.portReach p) s.toDevice = s.reachPort p e := by
    show Device.tryReach s.toDevice p = _
    unfold Device.tryReach
    rw [hdue]
  have hbegun := Device.reachBegun_still (e := e) hquiet.idle (Device.arrive_still (p := p) (.inl hlocked))
  rw [Device.raiseHorizon_still hstill] at hbegun
  have hreach : s.reachPort p e = ((s.setPort p ((s.port p).reaching e)).dispatch p e.pi).emit p (s.port p).run e := by
    rw [Device.reachPort_eq, hbegun, Device.port_setPort_same]
    rfl
  refine ⟨s.setPort p ((s.port p).reaching e), Device.port_setPort_same _ _ _, rfl, rfl, rfl, rfl, hquiet.idle, ?_⟩
  have hexec := exec_of_quiet hquiet (c := .portReach p) rfl
    (by rw [hop]; exact (Keeps.reachPort s.toDevice p e).arbiter hquiet.idle)
  rw [hop, hreach] at hexec
  exact hexec

/-- The emission after the dispatch leaves the slots. -/
theorem Emits.kept {p : PortIx} {d e : Device} (h : Emits p d e) (n : Nat) : d.SlotKept e n := .of_eq h.mem h.prot

theorem Device.Shows.finishSlot {d : Device} (hquiet : d.arbiter = []) (hmem : d.MemOk) {n m : Nat} (hn : n < 512) (hm : m < 512) (hne : n ≠ m) {st : Nat} {r : Result}
    (h : d.Shows n st r) (st' : Nat) (r' : Result) : (d.finishSlot m st' r').Shows n st r := by
  have hkept := Device.SlotKept.finishSlot hquiet hm hne st' r'
  refine ⟨hkept.slot.slotState.trans h.state, (hkept.slot.field 48 1).trans h.reason, (hkept.slot.field 49 1).trans h.flags, (hkept.slot.field 50 2).trans h.revision, (hkept.slot.field 52 4).trans h.firePI,
    (hkept.slot.field 56 4).trans h.fireTime, (hkept.slot.field 60 2).trans h.fired, (hkept.slot.field 62 2).trans h.aux, ?_, fun hp => h.unprotected (hkept.prot hp)⟩
  by_cases hbyte : m / 8 = n / 8
  · rw [← hbyte, Device.finishSlot_mapByte hquiet st' r' hmem hm, BitVec.getLsbD_or, hbyte, h.finished, Bool.true_or]
  · rw [Device.finishSlot_bytes hquiet m st' r' (mapBase + n / 8) (by unfold endBytes mapBase slotBase; omega)]
    exact h.finished

theorem Device.Shows.of_mem {d e : Device} (hmem : e.mem = d.mem) (hprot : e.prot = d.prot) {n st : Nat} {r : Result} (h : d.Shows n st r) : e.Shows n st r := by
  have hkept : d.SlotKept e n := .of_eq hmem hprot
  exact ⟨hkept.slot.slotState.trans h.state, (hkept.slot.field 48 1).trans h.reason, (hkept.slot.field 49 1).trans h.flags, (hkept.slot.field 50 2).trans h.revision, (hkept.slot.field 52 4).trans h.firePI,
    (hkept.slot.field 56 4).trans h.fireTime, (hkept.slot.field 60 2).trans h.fired, (hkept.slot.field 62 2).trans h.aux, by rw [hmem]; exact h.finished, fun hp => h.unprotected (hkept.prot hp)⟩

/-! ## The loop (R97) -/

/-- The device with the cue of slot n out of port p's list. -/
def Device.unlisted (d : Device) (p : PortIx) (n : Nat) : Device := d.modPort p fun x => { x with cues := dropCue n x.cues }

theorem Device.unlisted_port (d : Device) (p : PortIx) (n : Nat) : (d.unlisted p n).port p = { d.port p with cues := dropCue n (d.port p).cues } :=
  Device.port_modPort_same _ _ _

theorem Device.SameOutlook.unlisted (d : Device) (p : PortIx) (n : Nat) : d.SameOutlook (d.unlisted p n) p := by
  have hport := d.unlisted_port p n
  exact ⟨rfl, by rw [hport], by rw [hport], by rw [hport]⟩

/-- R97: the attempt is late where it fires above its due PI. -/
def Cue.firedAt (c : Cue) (k : Nat) : Cue := { c with flags := { c.flags with late := c.flags.late || decide (c.due < k) } }

theorem Device.dispatchOne_fires {d : Device} {p : PortIx} {c : Cue} {k : Nat} (h : d.withinGrace c.grace (k - c.due) = true) (last : LastFired) :
    d.dispatchOne p k last c = (d.unlisted p c.slot).fireCue p k last (c.firedAt k) := if_pos h

theorem Device.dispatchOne_skips {d : Device} {p : PortIx} {c : Cue} {k : Nat} (h : d.withinGrace c.grace (k - c.due) = false) (last : LastFired) :
    d.dispatchOne p k last c = ((d.unlisted p c.slot).settleAttempt p (c.afterSkip c.skipReason), last) := if_neg (by rw [h]; decide)

theorem Device.dispatchLoop_stops {d : Device} {p : PortIx} {k : Nat} (h : ∀ c, (d.port p).cues.head? = some c → k < c.due) (last : LastFired) : ∀ n : Nat,
    Device.dispatchLoop n d p k last = d.endLast last
  | 0 => rfl
  | n + 1 => by
    unfold Device.dispatchLoop
    split
    · rfl
    · next c hc => exact if_pos (h c hc)

theorem Device.dispatchLoop_takes {d : Device} {p : PortIx} {k : Nat} {c : Cue} {rest : List Cue} (hcues : (d.port p).cues = c :: rest) (hdue : c.due ≤ k) (n : Nat)
    (last : LastFired) : Device.dispatchLoop (n + 1) d p k last = Device.dispatchLoop n (d.dispatchOne p k last c).1 p k (d.dispatchOne p k last c).2 := by
  conv =>
    lhs
    unfold Device.dispatchLoop
  rw [hcues]
  exact if_neg (Nat.not_lt.mpr hdue)

/-- The dispatch of the one cue that is due. -/
theorem Device.dispatch_one {d : Device} {p : PortIx} {k : Nat} {c : Cue} (hlocked : (d.port p).state = .locked) (hcues : (d.port p).cues = [c]) (hdue : c.due ≤ k)
    (hafter : ∀ x, ((d.dispatchOne p k .none c).1.port p).cues.head? = some x → k < x.due) :
    d.dispatch p k = (d.dispatchOne p k .none c).1.endLast (d.dispatchOne p k .none c).2 := by
  unfold Device.dispatch
  rw [hlocked]
  dsimp only
  rw [hcues, Device.dispatchLoop_takes hcues hdue, Device.dispatchLoop_stops hafter]

theorem Device.dispatch_two {d : Device} {p : PortIx} {k : Nat} {a b : Cue} {m : Device} {last : LastFired} (hlocked : (d.port p).state = .locked)
    (hcues : (d.port p).cues = [a, b]) (hdue : a.due ≤ k) (hdue' : b.due ≤ k) (hfirst : d.dispatchOne p k .none a = (m, last)) (hrest : (m.port p).cues = [b])
    (hafter : ((m.dispatchOne p k last b).1.port p).cues = []) : d.dispatch p k = (m.dispatchOne p k last b).1.endLast (m.dispatchOne p k last b).2 := by
  unfold Device.dispatch
  rw [hlocked]
  dsimp only
  rw [hcues, Device.dispatchLoop_takes hcues hdue, hfirst, Device.dispatchLoop_takes hrest hdue',
    Device.dispatchLoop_stops fun x hx => by rw [hafter] at hx; cases hx]

/-! ## Where an attempt leaves its cue (R100) -/

theorem Device.rearmed_ends (d : Device) (p : PortIx) {c : Cue} (h : c.left = some 0 ∨ maxPI < c.due + c.interval * 96) (n : Nat) :
    Device.rearmed (n + 1) d p c = { cue := c, ends := true } := by
  unfold Device.rearmed
  split
  · rfl
  · next hleft => exact if_pos (h.resolve_left hleft)

theorem Device.settled_ends (d : Device) (p : PortIx) {c : Cue} (h : c.left = some 0 ∨ maxPI < c.due + c.interval * 96) : d.settled p c = { cue := c, ends := true } :=
  d.rearmed_ends p h _

/-- A repeating cue whose next due PI is at or above the reference point is re-armed there. -/
theorem Device.settled_rearms {d : Device} {p : PortIx} {c : Cue} (hrun : d.planner.transport ≠ .stopped) (hleft : c.left ≠ some 0)
    (hmax : c.due + c.interval * 96 ≤ maxPI) (href : d.refPoint p ≤ c.due + c.interval * 96) :
    d.settled p c = { cue := { c with due := c.due + c.interval * 96, mark := d.markAt p }, ends := false } := by
  have hverdict : d.verdict p { c with due := c.due + c.interval * 96, mark := d.markAt p } = none := Device.verdict_none_iff.mpr (.inl href)
  unfold Device.settled Device.rearmed
  rw [if_neg hleft, if_neg (Nat.not_lt.mpr hmax)]
  dsimp only
  rw [if_neg (by simp [runUnderWay_iff.mpr hrun]), if_neg (by omega), hverdict]

theorem Device.noteFired_ends {d : Device} {p : PortIx} {c x : Cue} (h : d.settled p c = { cue := x, ends := true }) : d.noteFired p c = (d, .ending x) := by
  rw [Device.noteFired, h]
  rfl

theorem Device.noteFired_rearms {d : Device} {p : PortIx} {c x : Cue} (h : d.settled p c = { cue := x, ends := false }) :
    d.noteFired p c = (d.enterList p x, .listed x.slot) := by
  rw [Device.noteFired, h]
  rfl

theorem Device.endAttempts_port (d : Device) (c : Cue) (q : PortIx) : (d.endAttempts c).port q = d.port q := by
  unfold Device.endAttempts Device.endCue
  split <;> exact Device.finishSlot_port _ _ _ _ _

theorem Device.settle_ends {d : Device} {p : PortIx} {c x : Cue} (h : d.settled p c = { cue := x, ends := true }) : d.settleAttempt p c = d.endAttempts x := by
  rw [Device.settleAttempt, h, Device.settle]
  exact if_pos rfl

theorem Device.settle_rearms {d : Device} {p : PortIx} {c x : Cue} (h : d.settled p c = { cue := x, ends := false }) : d.settleAttempt p c = d.enterList p x := by
  rw [Device.settleAttempt, h, Device.settle]
  exact if_neg Bool.false_ne_true

theorem Device.endAttempts_shows_fired {d : Device} (hquiet : d.arbiter = []) (hmem : d.MemOk) {c : Cue} (hslot : c.slot < 512) {k : Nat} {t : Time}
    (h : c.lastFired = some (k, t)) : (d.endAttempts c).Shows c.slot stFired
      { reason := .none, flags := c.flags, revision := c.revision, firePI := k, fireTime := timeLow32 t, fired := c.fired, aux := c.aux } := by
  rw [Device.endAttempts_fired _ h]
  exact Device.finishSlot_shows hquiet _ hmem hslot (by decide)

theorem Device.endAttempts_shows_missed {d : Device} (hquiet : d.arbiter = []) (hmem : d.MemOk) {c : Cue} (hslot : c.slot < 512) (h : c.lastFired = none) :
    (d.endAttempts c).Shows c.slot stMissed
      { reason := c.lastSkip, flags := c.flags, revision := c.revision, firePI := c.due, fireTime := timeLow32 d.time, fired := c.fired, aux := c.aux } := by
  rw [Device.endAttempts_missed _ h]
  exact Device.finishSlot_shows hquiet _ hmem hslot (by decide)

theorem Device.writeProgress_reads {d : Device} (hquiet : d.arbiter = []) (hmem : d.MemOk) (c : Cue) (k : Nat) :
    (d.writeProgress c k).field c.slot 52 4 = k % 4294967296 ∧ (d.writeProgress c k).slotState c.slot = d.slotState c.slot := by
  have hbefore : Memory.wf (Memory.writeLE d.mem (slotBase c.slot + 50) 2 c.revision) = true := Memory.wf_writeLE 2 _ _ hmem
  rw [Device.writeProgress_quiet hquiet]
  simp only [Device.field, Device.slotState, Device.peek, Device.write_mem]
  constructor
  · repeat rw [Memory.readLE_writeLE_outside _ _ _ _ (by omega)]
    exact Memory.readLE_writeLE_same 4 _ _ hbefore
  · repeat rw [Memory.readLE_writeLE_outside _ _ _ _ (by omega)]

/-- A re-armed cue stands alone in the list again, its slot HELD with the new fire PI. -/
theorem Device.enterList_single {d : Device} {p : PortIx} (hquiet : d.arbiter = []) (hmem : d.MemOk) (hcues : (d.port p).cues = []) (x : Cue) :
    ((d.enterList p x).port p).cues = [x] ∧ (d.enterList p x).field x.slot 52 4 = x.due % 4294967296 ∧ (d.enterList p x).slotState x.slot = d.slotState x.slot := by
  have hidle : (d.modPort p fun y => { y with cues := insertCue x y.cues }).arbiter = [] := hquiet
  have hsame : (d.modPort p fun y => { y with cues := insertCue x y.cues }).mem = d.mem := rfl
  have hlist : ((d.enterList p x).port p).cues = [x] := by
    rw [Device.enterList_port, if_pos rfl, hcues]
    rfl
  have hreads := Device.writeProgress_reads hidle (by rw [Device.MemOk, hsame]; exact hmem) x x.due
  exact ⟨hlist, hreads.1, hreads.2⟩

end Sys2Proof.Machine
end

section
/-! PROOFS. Dispatch: what a fired SCENE or PORT RUN does (R148, R101), and the halt forms (R130). -/
namespace Sys2Proof.Machine

/-! ## What a fired SCENE or PORT RUN does -/

/-- What firing does to the port's record, with the scenes as the device d holds them. -/
def CueBody.act (d : Device) (k : Nat) : CueBody → Port → Port
  | .portRun action, x => { x with run := action }
  | .scene n fade m first last, x => { x with mixer := x.mixer.fire k (d.levelsAt (sceneBase n)) fade m first last }
  | _, x => x

/-- A PORT RUN or a SCENE. -/
def CueBody.Acts (b : CueBody) : Prop := (∃ action, b = .portRun action) ∨ ∃ n fade m first last, b = .scene n fade m first last

theorem CueBody.act_frame (d : Device) (k : Nat) (b : CueBody) (x : Port) : b.act d k x = { x with run := (b.act d k x).run, mixer := (b.act d k x).mixer } := by
  unfold CueBody.act
  split <;> rfl

theorem Device.fireScene_quiet {d : Device} (h : d.arbiter = []) (p : PortIx) (k n fade : Nat) (m : Modulator) (first last : Nat) :
    d.fireScene p k n fade m first last = d.modPort p (CueBody.act d k (.scene n fade m first last)) := by
  rw [Device.fireScene, Device.copyLevels_quiet h]
  rfl

theorem Device.fireCue_acts {d : Device} {p : PortIx} {last : LastFired} {c : Cue} (hbody : c.body.Acts) (hquiet : (d.supersede p last).arbiter = []) (k : Nat) :
    d.fireCue p k last c = ((d.supersede p last).modPort p (c.body.act (d.supersede p last) k)).noteFired p ((last.mark c).afterFire k d.time) := by
  unfold Device.fireCue
  rcases hbody with ⟨action, h⟩ | ⟨n, fade, m, first, last', h⟩
  · rw [h]
    rfl
  · rw [h]
    dsimp only
    rw [Device.fireScene_quiet hquiet]

/-- The device with the port's cue taken, and what its firing does. -/
def Device.acted (d : Device) (p : PortIx) (k : Nat) (c : Cue) : Device := (d.unlisted p c.slot).modPort p (c.body.act (d.unlisted p c.slot) k)

theorem Device.acted_port (d : Device) (p : PortIx) (k : Nat) (c : Cue) : (d.acted p k c).port p =
    { d.port p with
      cues := dropCue c.slot (d.port p).cues
      run := (c.body.act d k (d.port p)).run
      mixer := (c.body.act d k (d.port p)).mixer } := by
  rw [Device.acted, Device.port_modPort_same, Device.unlisted_port]
  cases c.body <;> rfl

theorem Device.SameOutlook.acted (d : Device) (p : PortIx) (k : Nat) (c : Cue) : d.SameOutlook (d.acted p k c) p := by
  have hport := d.acted_port p k c
  exact ⟨rfl, by rw [hport], by rw [hport], by rw [hport]⟩

/-- The cue after it has fired at the reach of k. -/
def Cue.afterFiring (c : Cue) (k : Nat) (t : Time) : Cue := (c.firedAt k).afterFire k t

section
variable {d : Device} {p : PortIx} {k : Nat} {c : Cue} (hquiet : d.arbiter = []) (hbody : c.body.Acts) (hgrace : d.withinGrace c.grace (k - c.due) = true)
include hquiet hbody hgrace

/-- The first cue of a reach fires. -/
theorem Device.dispatchOne_acts : d.dispatchOne p k .none c = (d.acted p k c).noteFired p (c.afterFiring k d.time) := by
  rw [Device.dispatchOne_fires hgrace, Device.fireCue_acts (c := c.firedAt k) hbody (by exact hquiet)]
  rfl

theorem Device.dispatchOne_acts_ending (hends : (c.afterFiring k d.time).left = some 0 ∨ maxPI < c.due + c.interval * 96) :
    d.dispatchOne p k .none c = (d.acted p k c, .ending (c.afterFiring k d.time)) := by
  rw [Device.dispatchOne_acts hquiet hbody hgrace]
  exact Device.noteFired_ends (Device.settled_ends _ _ hends)

theorem Device.dispatch_fires_ending (hlocked : (d.port p).state = .locked) (hcues : (d.port p).cues = [c]) (hdue : c.due ≤ k)
    (hends : (c.afterFiring k d.time).left = some 0 ∨ maxPI < c.due + c.interval * 96) :
    d.dispatch p k = (d.acted p k c).endAttempts (c.afterFiring k d.time) := by
  have hone := Device.dispatchOne_acts_ending hquiet hbody hgrace hends (p := p)
  have hempty : ((d.acted p k c).port p).cues = [] := by rw [Device.acted_port, hcues, dropCue_single]
  rw [Device.dispatch_one hlocked hcues hdue (fun x hx => by rw [hone, hempty] at hx; cases hx), hone]
  rfl

theorem Device.dispatch_fires_rearming (hlocked : (d.port p).state = .locked) (hcues : (d.port p).cues = [c]) (hdue : c.due ≤ k)
    (hrun : d.planner.transport ≠ .stopped) (hleft : (c.afterFiring k d.time).left ≠ some 0) (hmax : c.due + c.interval * 96 ≤ maxPI)
    (href : d.refPoint p ≤ c.due + c.interval * 96) (hnext : k < c.due + c.interval * 96) :
    d.dispatch p k = (d.acted p k c).enterList p { c.afterFiring k d.time with due := c.due + c.interval * 96, mark := d.markAt p } := by
  have hout := Device.SameOutlook.acted d p k c
  have hsettled := Device.settled_rearms (d := d.acted p k c) (p := p) (c := c.afterFiring k d.time) (by rw [hout.planner]; exact hrun) hleft hmax (by rw [hout.refPoint]; exact href)
  have hone := Device.dispatchOne_acts hquiet hbody hgrace (p := p)
  rw [Device.noteFired_rearms hsettled, hout.markAt] at hone
  have hempty : ((d.acted p k c).port p).cues = [] := by rw [Device.acted_port, hcues, dropCue_single]
  refine (Device.dispatch_one hlocked hcues hdue fun x hx => ?_).trans (by rw [hone]; rfl)
  rw [hone] at hx
  dsimp only at hx
  rw [Device.enterList_port, if_pos rfl, hempty] at hx
  cases hx
  exact hnext

end

/-! ## A skipped attempt -/

section
variable {d : Device} {p : PortIx} {k : Nat} {c : Cue} (hgrace : d.withinGrace c.grace (k - c.due) = false) (hlocked : (d.port p).state = .locked)
  (hcues : (d.port p).cues = [c]) (hdue : c.due ≤ k)
include hgrace hlocked hcues hdue

theorem Device.dispatch_skips_ending (hends : (c.afterSkip c.skipReason).left = some 0 ∨ maxPI < c.due + c.interval * 96) :
    d.dispatch p k = (d.unlisted p c.slot).endAttempts (c.afterSkip c.skipReason) := by
  have hone := Device.dispatchOne_skips hgrace .none (p := p)
  rw [Device.settle_ends (Device.settled_ends _ _ hends)] at hone
  refine (Device.dispatch_one hlocked hcues hdue fun x hx => ?_).trans (by rw [hone]; rfl)
  rw [hone] at hx
  dsimp only at hx
  rw [Device.endAttempts_port, Device.unlisted_port, hcues, dropCue_single] at hx
  cases hx

theorem Device.dispatch_skips_rearming (hrun : d.planner.transport ≠ .stopped) (hleft : (c.afterSkip c.skipReason).left ≠ some 0)
    (hmax : c.due + c.interval * 96 ≤ maxPI) (href : d.refPoint p ≤ c.due + c.interval * 96) (hnext : k < c.due + c.interval * 96) :
    d.dispatch p k = (d.unlisted p c.slot).enterList p { c.afterSkip c.skipReason with due := c.due + c.interval * 96, mark := d.markAt p } := by
  have hout := Device.SameOutlook.unlisted d p c.slot
  have hsettled := Device.settled_rearms (d := d.unlisted p c.slot) (p := p) (c := c.afterSkip c.skipReason) (by rw [hout.planner]; exact hrun) hleft hmax
    (by rw [hout.refPoint]; exact href)
  have hone := Device.dispatchOne_skips hgrace .none (p := p)
  rw [Device.settle_rearms hsettled, hout.markAt] at hone
  refine (Device.dispatch_one hlocked hcues hdue fun x hx => ?_).trans (by rw [hone]; rfl)
  rw [hone] at hx
  dsimp only at hx
  rw [Device.enterList_port, if_pos rfl, Device.unlisted_port, hcues, dropCue_single] at hx
  cases hx
  exact hnext

end

/-! ## A fired SEND (R136) -/

section
variable {d : Device} {p : PortIx} {k : Nat} {c : Cue} {bulk : Bool} {offset len : Nat} {pacing : Pacing} {chunk : Nat} (hbody : c.body = .send bulk offset len pacing chunk)
  (hgrace : d.withinGrace c.grace (k - c.due) = true) (hlocked : (d.port p).state = .locked) (hcues : (d.port p).cues = [c]) (hdue : c.due ≤ k)
include hbody hgrace hlocked hcues hdue

/-- The dispatch of a SEND within its grace is its offer to the message queue. -/
theorem Device.dispatch_sends (hempty : (((d.unlisted p c.slot).offerSend p k (c.firedAt k)).port p).cues = []) :
    d.dispatch p k = (d.unlisted p c.slot).offerSend p k (c.firedAt k) := by
  have hone : d.dispatchOne p k .none c = ((d.unlisted p c.slot).offerSend p k (c.firedAt k), .none) := by
    rw [Device.dispatchOne_fires hgrace]
    unfold Device.fireCue
    rw [show (c.firedAt k).body = c.body from rfl, hbody]
  refine (Device.dispatch_one hlocked hcues hdue fun x hx => ?_).trans (by rw [hone]; rfl)
  rw [hone, hempty] at hx
  cases hx

end

/-! ## The halt forms (R130) -/

theorem Device.emit_halt_clock {d : Device} {p : PortIx} {b : RunState} {e : PlanEntry} (hkind : (d.port p).settings.kind = .clock) (hb : b = .run)
    (hrun : (d.port p).run = .halt) : ((d.emit p b e).port p).clock.wireB = false ∧ ((d.emit p b e).port p).clock.waiting = [] := by
  have hemit : d.emit p b e = d.modPort p fun x => { x with resume := none, clock := x.clock.halt } := by
    rw [Device.emit, hkind]
    dsimp only
    unfold Device.emitClock
    simp only [hb, hrun]
  rw [hemit, Device.port_modPort_same]
  exact ⟨rfl, rfl⟩

theorem Device.pump_sending {d : Device} {p : PortIx} (h : (d.port p).step.line.isSome = true) : d.pump p = d := by
  have hchoose : d.choose p = d := by
    refine Device.modPort_eq_self ?_
    have hstart : ∀ (m : List Host.Cell) (now : Time), (d.port p).step.startNext m now = (d.port p).step := fun m now => by
      obtain ⟨l, hl⟩ := Option.isSome_iff_exists.mp h
      rw [StepLine.startNext, hl]
    rw [hstart]
  rw [Device.pump, hchoose, ite_self]

/-- The end of the resume form before the halt: what is left in the timing queue. -/
theorem Device.haltStep_queues {d : Device} {p : PortIx} {k : Nat} (hroom : ((d.endResume p k).port p).step.timing.length < 16) :
    ((d.haltStep p k).port p).resume = ((d.endResume p k).port p).resume ∧
      ((d.haltStep p k).port p).step.timing.map (·.code) = ((d.endResume p k).port p).step.timing.map (·.code) ++ [0x111] := by
  unfold Device.haltStep
  generalize d.endResume p k = m at *
  have hqueue : ∀ b : Device, (b.port p).step.timing.length < 16 → (b.queueChar p (TimingChar.plain chStop)).port p =
      { b.port p with step := { (b.port p).step with timing := (b.port p).step.timing ++ [TimingChar.plain chStop] } } := fun b hb => by
    rw [Device.queueChar, if_pos hb, Device.port_modPort_same]
  rw [hqueue _ (by rw [Device.port_modPort_same]; exact hroom), Device.port_modPort_same]
  exact ⟨rfl, List.map_append⟩

theorem Device.emit_halt_step {d : Device} {p : PortIx} {b : RunState} {e : PlanEntry} (hkind : (d.port p).settings.kind = .step) (hb : b = .run)
    (hrun : (d.port p).run = .halt) (hline : (d.port p).step.line.isSome = true) (hroom : ((d.endResume p e.pi).port p).step.timing.length < 16) :
    ((d.emit p b e).port p).resume = ((d.endResume p e.pi).port p).resume ∧
      ((d.emit p b e).port p).step.timing.map (·.code) = ((d.endResume p e.pi).port p).step.timing.map (·.code) ++ [0x111] := by
  have hemit : d.emit p b e = (d.haltStep p e.pi).pump p := by
    rw [Device.emit, hkind]
    dsimp only
    unfold Device.emitStep
    simp only [hb, hrun]
  have hbusy : ((d.haltStep p e.pi).port p).step.line.isSome = true := by
    rw [(Times.haltStep p d e.pi).port]
    exact hline
  rw [hemit, Device.pump_sending hbusy]
  exact Device.haltStep_queues hroom

/-- A resume at or below the pulse, its form queued, or no resume: nothing is withdrawn. -/
theorem Device.endResume_keeps {d : Device} {p : PortIx} {k : Nat}
    (h : (d.port p).resume = none ∨ ∃ b, (d.port p).resume = some b ∧ b ≤ k ∧ (d.port p).step.resumeQueued = true) :
    ((d.endResume p k).port p).resume = none ∧ ((d.endResume p k).port p).step.timing.map (·.code) = (d.port p).step.timing.map (·.code) := by
  unfold Device.endResume
  rcases h with hnone | ⟨b, hsome, hb, hqueued⟩
  · rw [hnone]
    exact ⟨hnone, rfl⟩
  · rw [hsome]
    dsimp only
    rw [if_neg (Nat.not_lt.mpr hb)]
    unfold Device.resumeReached
    rw [if_pos hqueued, Device.port_modPort_same]
    refine ⟨rfl, ?_⟩
    rw [List.map_map]
    refine List.map_congr_left fun x _ => ?_
    unfold TimingChar.confirmed Function.comp
    dsimp only
    split <;> rfl

/-- A resume above the pulse: its form is withdrawn. -/
theorem Device.endResume_withdraws {d : Device} {p : PortIx} {k b : Nat} (hresume : (d.port p).resume = some b) (hb : k < b)
    (hhead : ∀ x, (d.port p).step.timing.head? = some x → x.posData = false) :
    ((d.endResume p k).port p).resume = none ∧ ((d.endResume p k).port p).step.timing = (d.port p).step.timing.filter (·.source != .resumeForm) := by
  unfold Device.endResume
  rw [hresume]
  dsimp only
  rw [if_pos hb, Device.port_modPort_same]
  refine ⟨rfl, ?_⟩
  unfold withdrawChars
  cases htiming : (d.port p).step.timing with
  | nil => rfl
  | cons x l =>
    have hx : x.posData = false := hhead x (by rw [htiming]; rfl)
    rw [List.takeWhile_cons, List.dropWhile_cons, hx]
    rfl

/-! ## The message queue (R136) -/

theorem StepLine.release_cues (s : StepLine) (beat boundary : Bool) : (s.release beat boundary).queue.map (·.cue) = s.queue.map (·.cue) := by
  unfold StepLine.release
  split
  · next f rest h =>
    rw [h]
    split
    · rfl
    · rw [h]
  · rfl

theorem Port.reaching_cues (x : Port) (e : PlanEntry) : (x.reaching e).step.queue.map (·.cue) = x.step.queue.map (·.cue) := x.step.release_cues _ _

theorem Port.reaching_length (x : Port) (e : PlanEntry) : (x.reaching e).step.queue.length = x.step.queue.length := by
  have h := congrArg List.length (x.reaching_cues e)
  rw [List.length_map, List.length_map] at h
  exact h

theorem Device.offerSend_admits {d : Device} {p : PortIx} (h : (d.port p).step.queue.length < 8) (k : Nat) (c : Cue) :
    d.offerSend p k c =
      (d.modPort p fun x => { x with step := { x.step with queue := x.step.queue ++ [{ cue := c, pi := k, time := d.time, sent := 0, releases := 0 }] } }).writeProgress c k :=
  if_pos (decide_eq_true h)

/-- A SEND that finds the queue full, on its last attempt, ends. -/
theorem Device.offerSend_refuses {d : Device} {p : PortIx} (h : 8 ≤ (d.port p).step.queue.length) (k : Nat) {c : Cue} (hleft : c.left = some 1) :
    d.offerSend p k c = (d.captureFault .linkOverrun (some p.val) (some c.slot)).endAttempts ({ c with bytes := 0 }.afterSkip .portFull) := by
  have hspent : ({ c with bytes := 0 }.afterSkip .portFull).left = some 0 := by
    unfold Cue.afterSkip
    rw [hleft]
    rfl
  rw [← Device.settleAttempt_spent _ p hspent]
  exact if_neg (by simp [StepLine.hasRoom, h])

end Sys2Proof.Machine
end

section
/-! PROOFS. The reach of a LOCKED port with the one cue of its list due: what is left of the port and of the cue's slot (R97, R99, R100, R130, R136, R148). -/
namespace Sys2Proof.Machine

theorem Device.withinGrace_congr {d e : Device} (h : e.planner = d.planner) (g : Lateness) (late : Nat) : e.withinGrace g late = d.withinGrace g late := by
  simp only [Device.withinGrace, Device.meterShown, Device.currentEntry, Device.currentPI, Device.runFirst, Device.entryAt, Device.runUnderWay, h] <;> rfl

theorem CueBody.act_congr {d e : Device} (h : e.mem = d.mem) {b : CueBody} {x y : Port} (hmixer : y.mixer = x.mixer) (hrun : y.run = x.run) (k : Nat) :
    (b.act e k y).run = (b.act d k x).run ∧ (b.act e k y).mixer = (b.act d k x).mixer := by
  have hlevels : ∀ a, e.levelsAt a = d.levelsAt a := fun a => by simp only [Device.levelsAt, h]
  unfold CueBody.act
  split <;> simp only [hmixer, hrun, hlevels, and_self]

theorem State.Dispatching.emits {s : State} {p : PortIx} {e : PlanEntry} {b : Device} (_ : s.Dispatching p e b) :
    Emits p (b.dispatch p e.pi) ((b.dispatch p e.pi).emit p (s.port p).run e) := .emit p _ _ e

section
variable {s : State} {p : PortIx} {e : PlanEntry} {b : Device} {c : Cue} (h : s.Dispatching p e b) (hmem : s.MemOk) (hlocked : (s.port p).state = .locked)
  (hcues : (s.port p).cues = [c]) (hdue : c.due ≤ e.pi) (hslot : c.slot < 512)

section
include h

theorem State.Dispatching.memOk (hmem : s.MemOk) : b.MemOk := by
  rw [Device.MemOk, h.mem]
  exact hmem

theorem State.Dispatching.withinGrace (g : Lateness) (late : Nat) : b.withinGrace g late = s.withinGrace g late := Device.withinGrace_congr h.planner g late

theorem State.Dispatching.state (hlocked : (s.port p).state = .locked) : (b.port p).state = .locked := by
  rw [h.port]
  exact hlocked

theorem State.Dispatching.cues {l : List Cue} (hcues : (s.port p).cues = l) : (b.port p).cues = l := by
  rw [h.port]
  exact hcues

theorem State.Dispatching.cursor : (((b.dispatch p e.pi).emit p (s.port p).run e).port p).cursor = e.pi + 1 := by
  rw [h.emits.port, (Fires.dispatch p b e.pi).port, h.port]
  rfl

theorem State.Dispatching.unlisted (hcues : (s.port p).cues = [c]) : (b.unlisted p c.slot).port p = { (s.port p).reaching e with cues := [] } := by
  rw [Device.unlisted_port, h.cues hcues, dropCue_single, h.port]

theorem State.Dispatching.acted (hcues : (s.port p).cues = [c]) : (b.acted p e.pi c).port p =
    { (s.port p).reaching e with
      cues := [], run := (c.body.act s.toDevice e.pi (s.port p)).run, mixer := (c.body.act s.toDevice e.pi (s.port p)).mixer } := by
  obtain ⟨hrun, hmixer⟩ := CueBody.act_congr h.mem (b := c.body) (x := s.port p) (y := (s.port p).reaching e) rfl rfl e.pi
  rw [Device.acted_port, h.cues hcues, dropCue_single, h.port, hrun, hmixer]

/-- R94: the reference point of the port after its arrival. -/
theorem State.Dispatching.refPoint (hrun : s.planner.transport ≠ .stopped) (hlocked : (s.port p).state = .locked) : b.refPoint p = e.pi + 1 := by
  have hjoined : (b.port p).state.joined = true := by rw [h.state hlocked]; rfl
  unfold Device.refPoint
  rw [if_pos (Device.runUnderWay_iff.mpr (by rw [h.planner]; exact hrun)), if_pos hjoined, h.port]
  rfl

theorem State.Dispatching.markAt : b.markAt p = if (s.port p).state.joined then (s.port p).join else none := by
  rw [Device.markAt, h.port]
  rfl

end

section
include h hmem hlocked hcues hdue hslot

/-- The last attempt of a SCENE or PORT RUN fires: its cue ends FIRED, and the port has what the cue does. -/
theorem State.Dispatching.fires_ending (hbody : c.body.Acts) (hgrace : s.withinGrace c.grace (e.pi - c.due) = true)
    (hends : (c.afterFiring e.pi s.time).left = some 0 ∨ maxPI < c.due + c.interval * 96) :
    (b.dispatch p e.pi).port p =
      { (s.port p).reaching e with
        cues := [], run := (c.body.act s.toDevice e.pi (s.port p)).run, mixer := (c.body.act s.toDevice e.pi (s.port p)).mixer } ∧
    ((b.dispatch p e.pi).emit p (s.port p).run e).Shows c.slot stFired
      { reason := .none, flags := (c.firedAt e.pi).flags, revision := (c.afterFiring e.pi s.time).revision, firePI := e.pi, fireTime := timeLow32 s.time,
        fired := satInc c.fired, aux := (c.afterFiring e.pi s.time).aux } := by
  have hdispatch := Device.dispatch_fires_ending h.idle hbody (by rw [h.withinGrace]; exact hgrace) (h.state hlocked) (h.cues hcues) hdue (by rw [h.time]; exact hends)
  rw [h.time] at hdispatch
  refine ⟨by rw [hdispatch, Device.endAttempts_port]; exact h.acted hcues, ?_⟩
  have hidle : (b.acted p e.pi c).arbiter = [] := h.idle
  have hacted : (b.acted p e.pi c).MemOk := h.memOk hmem
  have hemits := h.emits
  rw [hdispatch] at hemits ⊢
  generalize b.acted p e.pi c = m at *
  exact Device.Shows.of_mem hemits.mem hemits.prot (Device.endAttempts_shows_fired (c := c.afterFiring e.pi s.time) hidle hacted hslot rfl)

/-- The last attempt is skipped: the cue ends, MISSED if it never fired. -/
theorem State.Dispatching.skips_ending (hgrace : s.withinGrace c.grace (e.pi - c.due) = false)
    (hends : (c.afterSkip c.skipReason).left = some 0 ∨ maxPI < c.due + c.interval * 96) :
    (b.dispatch p e.pi).port p = { (s.port p).reaching e with cues := [] } ∧
    (c.lastFired = none → ((b.dispatch p e.pi).emit p (s.port p).run e).Shows c.slot stMissed
      { reason := c.skipReason, flags := c.flags, revision := (c.afterSkip c.skipReason).revision, firePI := c.due, fireTime := timeLow32 s.time, fired := c.fired,
        aux := (c.afterSkip c.skipReason).aux }) ∧
    (∀ k t, c.lastFired = some (k, t) → ((b.dispatch p e.pi).emit p (s.port p).run e).Shows c.slot stFired
      { reason := .none, flags := c.flags, revision := (c.afterSkip c.skipReason).revision, firePI := k, fireTime := timeLow32 t, fired := c.fired,
        aux := (c.afterSkip c.skipReason).aux }) := by
  have hdispatch := Device.dispatch_skips_ending (by rw [h.withinGrace]; exact hgrace) (h.state hlocked) (h.cues hcues) hdue hends
  refine ⟨by rw [hdispatch, Device.endAttempts_port]; exact h.unlisted hcues, fun hlast => ?_, fun k t hlast => ?_⟩
  · refine Device.Shows.of_mem h.emits.mem h.emits.prot ?_
    rw [hdispatch, ← h.time]
    exact Device.endAttempts_shows_missed (d := b.unlisted p c.slot) (c := c.afterSkip c.skipReason) h.idle (h.memOk hmem) hslot hlast
  · refine Device.Shows.of_mem h.emits.mem h.emits.prot ?_
    rw [hdispatch]
    exact Device.endAttempts_shows_fired (d := b.unlisted p c.slot) (c := c.afterSkip c.skipReason) h.idle (h.memOk hmem) hslot hlast

end

section
include h hmem hlocked hcues hdue

/-- A SEND with room in the queue is admitted and stays HELD. -/
theorem State.Dispatching.sends {bulk : Bool} {offset len : Nat} {pacing : Pacing} {chunk : Nat} (hbody : c.body = .send bulk offset len pacing chunk)
    (hgrace : s.withinGrace c.grace (e.pi - c.due) = true) (hroom : (s.port p).step.queue.length < 8) :
    ((b.dispatch p e.pi).port p).cues = [] ∧
    (((b.dispatch p e.pi).emit p (s.port p).run e).port p).step.queue.map (·.cue.slot) = (s.port p).step.queue.map (·.cue.slot) ++ [c.slot] ∧
    ((b.dispatch p e.pi).emit p (s.port p).run e).slotState c.slot = s.slotState c.slot ∧
    ((b.dispatch p e.pi).emit p (s.port p).run e).field c.slot 52 4 = e.pi % 4294967296 := by
  have hunlisted := h.unlisted hcues
  have hadmits := Device.offerSend_admits (d := b.unlisted p c.slot) (p := p) (by rw [hunlisted]; exact Nat.lt_of_le_of_lt (Nat.le_of_eq (Port.reaching_length _ e)) hroom) e.pi (c.firedAt e.pi)
  have hport : ((b.unlisted p c.slot).offerSend p e.pi (c.firedAt e.pi)).port p = { (s.port p).reaching e with
      cues := []
      step := { ((s.port p).reaching e).step with
        queue := ((s.port p).reaching e).step.queue ++
          [{ cue := c.firedAt e.pi, pi := e.pi, time := (b.unlisted p c.slot).time, sent := 0, releases := 0 }] } } := by
    rw [hadmits, Device.writeProgress_port, Device.port_modPort_same, hunlisted]
  have hdispatch := Device.dispatch_sends hbody (by rw [h.withinGrace]; exact hgrace) (h.state hlocked) (h.cues hcues) hdue (by rw [hport])
  have hreads : ((b.unlisted p c.slot).offerSend p e.pi (c.firedAt e.pi)).field c.slot 52 4 = e.pi % 4294967296 ∧
      ((b.unlisted p c.slot).offerSend p e.pi (c.firedAt e.pi)).slotState c.slot = b.slotState c.slot := by
    rw [hadmits]
    exact Device.writeProgress_reads (c := c.firedAt e.pi) (by exact h.idle) (by exact h.memOk hmem) e.pi
  have hstate : b.slotState c.slot = s.slotState c.slot := by simp only [Device.slotState, Device.peek, h.mem]
  have hcue := h.emits.flights
  have hkept := (h.emits.kept c.slot).slot
  rw [hdispatch] at hcue hkept ⊢
  refine ⟨by rw [hport], ?_, (SameSlot.slotState hkept).trans (hreads.2.trans hstate), (hkept.field 52 4).trans hreads.1⟩
  have hslots := congrArg (List.map (·.slot)) hcue
  rw [hport, List.map_append, Port.reaching_cues, List.map_append, List.map_map, List.map_map] at hslots
  exact hslots

end

section
include h hmem hlocked hcues hdue hslot

/-- A SEND that finds the queue full is skipped PORT_FULL, with LINK_OVERRUN. -/
theorem State.Dispatching.refuses {bulk : Bool} {offset len : Nat} {pacing : Pacing} {chunk : Nat} (hbody : c.body = .send bulk offset len pacing chunk)
    (hgrace : s.withinGrace c.grace (e.pi - c.due) = true) (hfull : 8 ≤ (s.port p).step.queue.length) (hleft : c.left = some 1) (hlast : c.lastFired = none) :
    ((b.dispatch p e.pi).port p).cues = [] ∧
    ((b.dispatch p e.pi).emit p (s.port p).run e).slotState c.slot = stMissed ∧ ((b.dispatch p e.pi).emit p (s.port p).run e).field c.slot 48 1 = 0x0E ∧
    ((b.dispatch p e.pi).emit p (s.port p).run e).attn.getLsbD 4 = true := by
  have hunlisted := h.unlisted hcues
  have hrefuses := Device.offerSend_refuses (d := b.unlisted p c.slot) (p := p) (by rw [hunlisted]; exact Nat.le_trans hfull (Nat.le_of_eq (Port.reaching_length _ e).symm)) e.pi
    (c := c.firedAt e.pi) hleft
  have hhost := HostOnly.captureFault (b.unlisted p c.slot) .linkOverrun (some p.val) (some c.slot)
  have hunwritten := Unwritten.captureFault (b.unlisted p c.slot) .linkOverrun (some p.val) (some c.slot)
  have hattn := (b.unlisted p c.slot).captureFault_attn_or .linkOverrun (some p.val) (some c.slot)
  have hcaptured : ((b.unlisted p c.slot).captureFault .linkOverrun (some p.val) (some c.slot)).port p = { (s.port p).reaching e with cues := [] } :=
    (hhost.port p).trans hunlisted
  have hrefuses' : (b.unlisted p c.slot).offerSend p e.pi (c.firedAt e.pi) =
      ((b.unlisted p c.slot).captureFault .linkOverrun (some p.val) (some c.slot)).endAttempts ({ c.firedAt e.pi with bytes := 0 }.afterSkip .portFull) := hrefuses
  have hdispatch := Device.dispatch_sends hbody (by rw [h.withinGrace]; exact hgrace) (h.state hlocked) (h.cues hcues) hdue
    (by rw [hrefuses', Device.endAttempts_port, hcaptured])
  rw [hrefuses'] at hdispatch
  have hcapturedMem : ((b.unlisted p c.slot).captureFault .linkOverrun (some p.val) (some c.slot)).MemOk := by
    rw [Device.MemOk, hunwritten.mem]
    exact h.memOk hmem
  have hidle : ((b.unlisted p c.slot).captureFault .linkOverrun (some p.val) (some c.slot)).arbiter = [] := hunwritten.arbiter.trans h.idle
  generalize (b.unlisted p c.slot).captureFault .linkOverrun (some p.val) (some c.slot) = m at *
  have hshows := Device.endAttempts_shows_missed (c := { c.firedAt e.pi with bytes := 0 }.afterSkip .portFull) hidle hcapturedMem hslot hlast
  have hfault : m.attn.getLsbD 4 = true := by
    rw [hattn, BitVec.getLsbD_or]
    exact Bool.or_eq_true_iff.mpr (.inr rfl)
  have hkeeps : Keeps 2 m ((b.dispatch p e.pi).emit p (s.port p).run e) := by
    rw [hdispatch]
    exact (Keeps.endAttempts _ _).trans (Keeps.emit _ _ _ _)
  have hshown := Device.Shows.of_mem h.emits.mem h.emits.prot (by rw [hdispatch]; exact hshows)
  refine ⟨by rw [hdispatch, Device.endAttempts_port, hcaptured], hshown.state, hshown.reason, Device.getLsbD_attn_of_keeps hkeeps hfault⟩

end

end

end Sys2Proof.Machine
end

section
/-! PROOFS. The re-arming of a repeating cue at dispatch (R100), and two cues that fire at one reach (R101). -/
namespace Sys2Proof.Machine

/-- R146: the emission of a LEVEL port. -/
theorem Device.emit_level {d : Device} {p : PortIx} (hkind : (d.port p).settings.kind = .level) (b : RunState) (e : PlanEntry) :
    d.emit p b e = d.modPort p fun x => { x with mixer := x.mixer.reach e.pi } := by
  rw [Device.emit, hkind]

theorem Mixer.reach_fire (m : Mixer) (k : Nat) (l : Levels) (fade : Nat) (x : Modulator) (first last : Nat) :
    (m.fire k l fade x first last).reach k =
      { fromL := m.fade, toL := l, start := k, len := fade, pos := 0, modulator := x, first := first, last := last, reached := some k } := by
  have hpos : Nat.min fade (k - k) = 0 := by rw [Nat.sub_self]; exact Nat.min_zero _
  unfold Mixer.fire Mixer.reach
  dsimp only
  rw [hpos]

section
variable {s : State} {p : PortIx} {e : PlanEntry} {b : Device} {c : Cue} (h : s.Dispatching p e b) (hmem : s.MemOk) (hlocked : (s.port p).state = .locked)
  (hcues : (s.port p).cues = [c]) (hdue : c.due ≤ e.pi) (hrun : s.planner.transport ≠ .stopped) (hnext : e.pi < c.due + c.interval * 96)
  (hmax : c.due + c.interval * 96 ≤ maxPI)

section
include h hmem

/-- What re-entering the list leaves to be read after the reach. -/
theorem State.Dispatching.rearmed {m : Device} {x : Cue} (hdispatch : b.dispatch p e.pi = m.enterList p x) (hm : m.mem = b.mem ∧ m.arbiter = []) (hempty : (m.port p).cues = []) :
    (((b.dispatch p e.pi).emit p (s.port p).run e).port p).cues = [x] ∧
    ((b.dispatch p e.pi).emit p (s.port p).run e).field x.slot 52 4 = x.due % 4294967296 ∧
    ((b.dispatch p e.pi).emit p (s.port p).run e).slotState x.slot = s.slotState x.slot := by
  obtain ⟨hsame, hidle⟩ := hm
  have hentered := Device.enterList_single hidle (by rw [Device.MemOk, hsame]; exact h.memOk hmem) hempty x
  obtain ⟨hlist, hfield, hstate⟩ := hentered
  have hslot : m.slotState x.slot = s.slotState x.slot := by simp only [Device.slotState, Device.peek, hsame, h.mem]
  have hkept := (h.emits.kept x.slot).slot
  have hport := congrArg Port.cues h.emits.port
  rw [hdispatch] at hkept hport ⊢
  exact ⟨hport.trans hlist, (hkept.field 52 4).trans hfield, (SameSlot.slotState hkept).trans (hstate.trans hslot)⟩

end

include h hmem hlocked hcues hdue hrun hnext hmax

theorem State.Dispatching.fires_rearming (hbody : c.body.Acts) (hgrace : s.withinGrace c.grace (e.pi - c.due) = true) (hleft : (c.afterFiring e.pi s.time).left ≠ some 0)
    {x : Cue} (hx : x = { c.afterFiring e.pi s.time with due := c.due + c.interval * 96, mark := if (s.port p).state.joined then (s.port p).join else none }) :
    (((b.dispatch p e.pi).emit p (s.port p).run e).port p).cues = [x] ∧
    ((b.dispatch p e.pi).emit p (s.port p).run e).field c.slot 52 4 = (c.due + c.interval * 96) % 4294967296 ∧
    ((b.dispatch p e.pi).emit p (s.port p).run e).slotState c.slot = s.slotState c.slot := by
  have hdispatch := Device.dispatch_fires_rearming (p := p) h.idle hbody (by rw [h.withinGrace]; exact hgrace) (h.state hlocked) (h.cues hcues) hdue (by rw [h.planner]; exact hrun)
    (by rw [h.time]; exact hleft) hmax (by rw [h.refPoint hrun hlocked]; exact hnext) hnext
  rw [h.time, h.markAt, ← hx] at hdispatch
  have hrearmed := h.rearmed hmem hdispatch ⟨rfl, h.idle⟩ (by rw [h.acted hcues])
  rw [show x.slot = c.slot by rw [hx]; rfl, show x.due = c.due + c.interval * 96 by rw [hx]] at hrearmed
  exact hrearmed

theorem State.Dispatching.skips_rearming (hgrace : s.withinGrace c.grace (e.pi - c.due) = false) (hleft : (c.afterSkip c.skipReason).left ≠ some 0)
    {x : Cue} (hx : x = { c.afterSkip c.skipReason with due := c.due + c.interval * 96, mark := if (s.port p).state.joined then (s.port p).join else none }) :
    (((b.dispatch p e.pi).emit p (s.port p).run e).port p).cues = [x] ∧
    ((b.dispatch p e.pi).emit p (s.port p).run e).field c.slot 52 4 = (c.due + c.interval * 96) % 4294967296 ∧
    ((b.dispatch p e.pi).emit p (s.port p).run e).slotState c.slot = s.slotState c.slot := by
  have hdispatch := Device.dispatch_skips_rearming (by rw [h.withinGrace]; exact hgrace) (h.state hlocked) (h.cues hcues) hdue (by rw [h.planner]; exact hrun)
    hleft hmax (by rw [h.refPoint hrun hlocked]; exact hnext) hnext
  rw [h.markAt, ← hx] at hdispatch
  have hrearmed := h.rearmed hmem hdispatch ⟨rfl, h.idle⟩ (by rw [h.unlisted hcues])
  rw [show x.slot = c.slot by rw [hx]; rfl, show x.due = c.due + c.interval * 96 by rw [hx]] at hrearmed
  exact hrearmed

end

/-! ## Two cues at one reach (R101) -/

/-- The device as the second cue of a reach takes the place of the first: the first has ended SUPERSEDED, and both have left the list. -/
def Device.superseding (d : Device) (p : PortIx) (k : Nat) (x y : Cue) : Device :=
  ((d.acted p k x).unlisted p y.slot).endAttempts (x.afterFiring k d.time).superseded

section
variable {d : Device} {p : PortIx} {k : Nat} {x y : Cue}

theorem Device.superseding_port : (d.superseding p k x y).port p =
    { d.port p with
      cues := dropCue y.slot (dropCue x.slot (d.port p).cues), run := (x.body.act d k (d.port p)).run, mixer := (x.body.act d k (d.port p)).mixer } := by
  rw [Device.superseding, Device.endAttempts_port, Device.unlisted_port, Device.acted_port]

theorem dropCue_pair (hne : x.slot ≠ y.slot) : dropCue x.slot [x, y] = [y] := by
  simp [dropCue, hne.symm]

theorem Device.dispatch_pair (hquiet : d.arbiter = []) (hlocked : (d.port p).state = .locked) (hcues : (d.port p).cues = [x, y]) (hdue : x.due ≤ k) (hdue' : y.due ≤ k)
    (hne : x.slot ≠ y.slot) (hleft : x.left = some 1) (hleft' : y.left = some 1) (hbody : x.body.Acts) (hbody' : y.body.Acts)
    (hgrace : d.withinGrace x.grace (k - x.due) = true) (hgrace' : d.withinGrace y.grace (k - y.due) = true) :
    d.dispatch p k = ((d.superseding p k x y).modPort p (y.body.act (d.superseding p k x y) k)).endAttempts (y.afterFiring k d.time) := by
  have hspent : ∀ c : Cue, c.left = some 1 → (c.afterFiring k d.time).left = some 0 := fun c hc => by
    show c.left.map _ = _
    rw [hc]
    rfl
  have hfirst := Device.dispatchOne_acts_ending (p := p) hquiet hbody hgrace (.inl (hspent x hleft))
  have hrest : ((d.acted p k x).port p).cues = [y] := by rw [Device.acted_port, hcues, dropCue_pair hne]
  have hquiet' : (d.superseding p k x y).arbiter = [] := by
    have hkeeps : Keeps 0 ((d.acted p k x).unlisted p y.slot) (d.superseding p k x y) := Keeps.endAttempts _ _
    exact hkeeps.arbiter hquiet
  have hsecond : (d.acted p k x).dispatchOne p k (.ending (x.afterFiring k d.time)) y =
      ((d.superseding p k x y).modPort p (y.body.act (d.superseding p k x y) k), .ending (y.afterFiring k d.time)) := by
    have hgrace'' : (d.acted p k x).withinGrace y.grace (k - y.due) = true := (Device.withinGrace_congr (SameOutlook.acted d p k x).planner _ _).trans hgrace'
    have hmark : (LastFired.ending (x.afterFiring k d.time)).mark (y.firedAt k) = y.firedAt k := if_neg LastFired.noConfusion
    rw [Device.dispatchOne_fires hgrace'', Device.fireCue_acts (c := y.firedAt k) hbody' (by exact hquiet'), hmark]
    exact Device.noteFired_ends (Device.settled_ends _ _ (.inl (hspent y hleft')))
  have hempty : (((d.acted p k x).dispatchOne p k (.ending (x.afterFiring k d.time)) y).1.port p).cues = [] := by
    rw [hsecond]
    dsimp only
    rw [Device.port_modPort_same, CueBody.act_frame, Device.superseding_port, hcues, dropCue_pair hne, dropCue_single]
  rw [Device.dispatch_two hlocked hcues hdue hdue' hfirst hrest hempty, hsecond]
  rfl

end

end Sys2Proof.Machine
end

section
/-! PROOFS. The obligation on dispatch, from the outcomes of its cases. -/
namespace Sys2Proof.Machine

/-! ## The cue after its attempt -/

theorem Cue.afterFiring_spent {c : Cue} (h : c.left = some 1) (k : Nat) (t : Time) : (c.afterFiring k t).left = some 0 := by
  show c.left.map _ = _
  rw [h]
  rfl

theorem Cue.afterSkip_spent {c : Cue} (h : c.left = some 1) (r : Reason) : (c.afterSkip r).left = some 0 := by
  show c.left.map _ = _
  rw [h]
  rfl

theorem Option.map_pred_ne_zero {l : Option Nat} (hzero : l ≠ some 0) (hone : l ≠ some 1) : l.map (· - 1) ≠ some 0 := by
  cases l with
  | none => exact fun h => Option.noConfusion rfl (heq_of_eq h)
  | some n =>
    intro h
    have hn : n - 1 = 0 := Option.some.inj h
    rcases Nat.lt_or_ge 1 n with hlt | hge
    · omega
    · rcases (by omega : n = 0 ∨ n = 1) with rfl | rfl
      · exact hzero rfl
      · exact hone rfl

theorem Cue.afterFiring_revision {c : Cue} (h : c.interval = 0) (k : Nat) (t : Time) : (c.afterFiring k t).revision = c.revision :=
  if_neg (not_not_intro h)

theorem Cue.afterFiring_aux_once {c : Cue} (h : c.interval = 0) (hbody : c.body.Acts) (k : Nat) (t : Time) : (c.afterFiring k t).aux = 0 := by
  have haux : (c.afterFiring k t).aux = match c.body with | .send _ _ _ _ _ => c.bytes | _ => 0 := if_neg (not_not_intro h)
  rw [haux]
  rcases hbody with ⟨action, h⟩ | ⟨n, fade, m, first, last, h⟩ <;> rw [h]

theorem Cue.skipReason_code (c : Cue) : c.skipReason.code = match c.mark with | some j => if j ≤ c.due then 0x0D else 0x0B | none => 0x0B := by
  unfold Cue.skipReason
  cases c.mark with
  | none => rfl
  | some j =>
    dsimp only
    split <;> rfl

/-- Whatever becomes of the one cue, with its last attempt it leaves the list. -/
theorem State.Dispatching.leaves {s : State} {p : PortIx} {e : PlanEntry} {b : Device} {c : Cue} (h : s.Dispatching p e b) (hmem : s.MemOk)
    (hlocked : (s.port p).state = .locked) (hcues : (s.port p).cues = [c]) (hdue : c.due ≤ e.pi) (hslot : c.slot < 512) (hleft : c.left = some 1)
    (hlast : c.lastFired = none) : (((b.dispatch p e.pi).emit p (s.port p).run e).port p).cues = [] := by
  rw [h.emits.port]
  show ((b.dispatch p e.pi).port p).cues = []
  by_cases hgrace : s.withinGrace c.grace (e.pi - c.due) = true
  · have hgrace' : b.withinGrace c.grace (e.pi - c.due) = true := by rw [h.withinGrace]; exact hgrace
    have hother : (∀ last, (b.unlisted p c.slot).fireCue p e.pi last (c.firedAt e.pi) = (b.unlisted p c.slot, last)) → ((b.dispatch p e.pi).port p).cues = [] := fun hfire => by
      have hempty : ((b.unlisted p c.slot).port p).cues = [] := by rw [h.unlisted hcues]
      have hone : b.dispatchOne p e.pi .none c = (b.unlisted p c.slot, .none) := (Device.dispatchOne_fires hgrace' _).trans (hfire _)
      rw [Device.dispatch_one (h.state hlocked) (h.cues hcues) hdue (fun x hx => by rw [hone, hempty] at hx; cases hx), hone]
      exact hempty
    cases hbody : c.body with
    | send bulk offset len pacing chunk =>
      rcases Nat.lt_or_ge (s.port p).step.queue.length 8 with hroom | hfull
      · exact (h.sends hmem hlocked hcues hdue hbody hgrace hroom).1
      · exact (h.refuses hmem hlocked hcues hdue hslot hbody hgrace hfull hleft hlast).1
    | portRun action =>
      rw [(h.fires_ending hmem hlocked hcues hdue hslot (.inl ⟨action, hbody⟩) hgrace (.inl (Cue.afterFiring_spent hleft _ _))).1]
    | scene n fade m first last =>
      rw [(h.fires_ending hmem hlocked hcues hdue hslot (.inr ⟨n, fade, m, first, last, hbody⟩) hgrace (.inl (Cue.afterFiring_spent hleft _ _))).1]
    | _ =>
      refine hother fun last => ?_
      unfold Device.fireCue
      rw [show (c.firedAt e.pi).body = c.body from rfl, hbody]
  · rw [Bool.not_eq_true] at hgrace
    rw [(h.skips_ending hmem hlocked hcues hdue hslot hgrace (.inl (Cue.afterSkip_spent hleft _))).1]

/-! ## Of the emission after a PORT RUN -/

section
variable {s : State} {p : PortIx} {e : PlanEntry} {m : Device} {l : List Cue} {mixer : Mixer}
  (hport : m.port p = { (s.port p).reaching e with cues := l, run := .halt, mixer := mixer })
include hport

theorem halts_clock (hrun : (s.port p).run = .run) (hkind : (s.port p).settings.kind = .clock) :
    ((m.emit p (s.port p).run e).port p).clock.wireB = false ∧ ((m.emit p (s.port p).run e).port p).clock.waiting = [] :=
  Device.emit_halt_clock (by rw [hport]; exact hkind) hrun (by rw [hport])

variable (hkind : (s.port p).settings.kind = .step) (hline : (s.port p).step.line.isSome = true)
include hkind hline

theorem halting_step : (m.port p).settings.kind = .step ∧ (m.port p).run = .halt ∧ (m.port p).step.line.isSome = true ∧ (m.port p).resume = (s.port p).resume ∧
    (m.port p).step.timing = (s.port p).step.timing ∧ (m.port p).step.resumeQueued = (s.port p).step.resumeQueued := by
  have hrelease : ∀ x : StepLine, ∀ a b, (x.release a b).timing = x.timing ∧ (x.release a b).resumeQueued = x.resumeQueued := by
    intro x a b
    unfold StepLine.release
    split
    · split <;> exact ⟨rfl, rfl⟩
    · exact ⟨rfl, rfl⟩
  rw [hport]
  exact ⟨hkind, rfl, (congrArg Option.isSome (StepLine.release_line _ _ _)).trans hline, rfl, (hrelease _ _ _).1, (hrelease _ _ _).2⟩

variable (hrun : (s.port p).run = .run) (hroom : (s.port p).step.timing.length < 16)
include hrun hroom

theorem halts_step (h : (s.port p).resume = none ∨ ∃ b, (s.port p).resume = some b ∧ b ≤ e.pi ∧ (s.port p).step.resumeQueued = true) :
    ((m.emit p (s.port p).run e).port p).resume = none ∧
      ((m.emit p (s.port p).run e).port p).step.timing.map (·.code) = (s.port p).step.timing.map (·.code) ++ [0x111] := by
  obtain ⟨hkind', hhalt, hline', hresume, htiming, hqueued⟩ := halting_step hport hkind hline
  obtain ⟨hnone, hcodes⟩ := Device.endResume_keeps (d := m) (p := p) (k := e.pi) (by rw [hresume, hqueued]; exact h)
  have hlength := congrArg List.length hcodes
  rw [List.length_map, List.length_map, htiming] at hlength
  obtain ⟨hres, hend⟩ := Device.emit_halt_step hkind' hrun hhalt hline' (e := e) (by rw [hlength]; exact hroom)
  rw [hcodes, htiming] at hend
  exact ⟨hres.trans hnone, hend⟩

theorem halts_step_withdrawing {b : Nat} (hresume : (s.port p).resume = some b) (hb : e.pi < b)
    (hhead : ∀ x, (s.port p).step.timing.head? = some x → x.posData = false) :
    ((m.emit p (s.port p).run e).port p).resume = none ∧
      ((m.emit p (s.port p).run e).port p).step.timing.map (·.code) =
        ((s.port p).step.timing.filter (·.source != .resumeForm)).map (·.code) ++ [0x111] := by
  obtain ⟨hkind', hhalt, hline', hresume', htiming, -⟩ := halting_step hport hkind hline
  obtain ⟨hnone, hleft⟩ := Device.endResume_withdraws (d := m) (p := p) (k := e.pi) (hresume'.trans hresume) hb (by rw [htiming]; exact hhead)
  rw [htiming] at hleft
  obtain ⟨hres, hend⟩ := Device.emit_halt_step hkind' hrun hhalt hline' (e := e) (by rw [hleft]; exact Nat.lt_of_le_of_lt (List.length_filter_le _ _) hroom)
  rw [hleft] at hend
  exact ⟨hres.trans hnone, hend⟩

end

/-! ## Two cues -/

section
variable {s : State} {p : PortIx} {e : PlanEntry} {b : Device} {x y : Cue} (h : s.Dispatching p e b) (hmem : s.MemOk) (hlocked : (s.port p).state = .locked)
  (hcues : (s.port p).cues = [x, y]) (hdue : x.due ≤ e.pi) (hdue' : y.due ≤ e.pi) (hne : x.slot ≠ y.slot) (hslot : x.slot < 512) (hslot' : y.slot < 512)
  (hleft : x.left = some 1) (hleft' : y.left = some 1) (hbody : x.body.Acts) (hbody' : y.body.Acts)
  (hgrace : s.withinGrace x.grace (e.pi - x.due) = true) (hgrace' : s.withinGrace y.grace (e.pi - y.due) = true)
include h hlocked hcues hdue hdue' hne hleft hleft' hbody hbody' hgrace hgrace'

theorem State.Dispatching.pair : b.dispatch p e.pi =
    ((b.superseding p e.pi x y).modPort p (y.body.act (b.superseding p e.pi x y) e.pi)).endAttempts (y.afterFiring e.pi s.time) := by
  have hpair := Device.dispatch_pair h.idle (h.state hlocked) (h.cues hcues) hdue hdue' hne hleft hleft' hbody hbody' (by rw [h.withinGrace]; exact hgrace)
    (by rw [h.withinGrace]; exact hgrace')
  rw [h.time] at hpair
  exact hpair

include hslot

/-- The second of two cues acts on what the first has left. -/
theorem State.Dispatching.pair_port : ∃ g : Port, (b.dispatch p e.pi).port p =
    { (s.port p).reaching e with cues := [], run := (y.body.act s.toDevice e.pi g).run, mixer := (y.body.act s.toDevice e.pi g).mixer } ∧
    g.run = (x.body.act s.toDevice e.pi (s.port p)).run ∧ g.mixer = (x.body.act s.toDevice e.pi (s.port p)).mixer := by
  have hdispatch := h.pair hlocked hcues hdue hdue' hne hleft hleft' hbody hbody' hgrace hgrace'
  obtain ⟨hrun, hmixer⟩ := CueBody.act_congr h.mem (b := x.body) (x := s.port p) (y := (s.port p).reaching e) rfl rfl e.pi
  have hport := Device.superseding_port (d := b) (p := p) (k := e.pi) (x := x) (y := y)
  rw [h.cues hcues, dropCue_pair hne, dropCue_single, h.port, hrun, hmixer] at hport
  have hlevels : ∀ n, (b.superseding p e.pi x y).levelsAt (sceneBase n) = s.levelsAt (sceneBase n) := by
    have hbytes : b.SameBytes (b.superseding p e.pi x y) (endBytes x.slot) := by
      have hfired : b.superseding p e.pi x y = ((b.acted p e.pi x).unlisted p y.slot).endCue (x.afterFiring e.pi b.time).superseded stFired .none e.pi b.time :=
        Device.endAttempts_fired _ rfl
      rw [hfired]
      exact Device.finishSlot_bytes (d := (b.acted p e.pi x).unlisted p y.slot) h.idle _ _ _
    intro n
    refine Vector.ext fun i hi => ?_
    rw [Device.levelsAt_getElem _ _ hi, Device.levelsAt_getElem _ _ hi, hbytes _ (by unfold endBytes sceneBase slotBase mapBase; omega), h.mem]
  generalize b.superseding p e.pi x y = m at *
  refine ⟨m.port p, ?_, by rw [hport], by rw [hport]⟩
  rw [hdispatch, Device.endAttempts_port, Device.port_modPort_same]
  have hact : y.body.act m e.pi (m.port p) = y.body.act s.toDevice e.pi (m.port p) := by
    unfold CueBody.act
    split <;> simp only [hlevels]
  rw [hact, CueBody.act_frame]
  generalize y.body.act s.toDevice e.pi (m.port p) = g
  rw [hport]

include hmem hslot'

/-- The first of two cues is shown SUPERSEDED, the second is not. -/
theorem State.Dispatching.pair_shows : ((b.dispatch p e.pi).emit p (s.port p).run e).Shows x.slot stFired
      { reason := .none, flags := (x.afterFiring e.pi s.time).superseded.flags, revision := (x.afterFiring e.pi s.time).revision, firePI := e.pi,
        fireTime := timeLow32 s.time, fired := satInc x.fired, aux := (x.afterFiring e.pi s.time).aux } ∧
    ((b.dispatch p e.pi).emit p (s.port p).run e).Shows y.slot stFired
      { reason := .none, flags := (y.firedAt e.pi).flags, revision := (y.afterFiring e.pi s.time).revision, firePI := e.pi, fireTime := timeLow32 s.time,
        fired := satInc y.fired, aux := (y.afterFiring e.pi s.time).aux } := by
  have hdispatch := h.pair hlocked hcues hdue hdue' hne hleft hleft' hbody hbody' hgrace hgrace'
  have hidle : ((b.acted p e.pi x).unlisted p y.slot).arbiter = [] := h.idle
  have hok : ((b.acted p e.pi x).unlisted p y.slot).MemOk := h.memOk hmem
  have hfirst := Device.endAttempts_shows_fired (c := (x.afterFiring e.pi s.time).superseded) hidle hok hslot rfl
  have hkeeps : Keeps 0 ((b.acted p e.pi x).unlisted p y.slot) (((b.acted p e.pi x).unlisted p y.slot).endAttempts (x.afterFiring e.pi s.time).superseded) :=
    Keeps.endAttempts _ _
  have hemits := h.emits
  rw [hdispatch] at hemits ⊢
  unfold Device.superseding at hemits ⊢
  rw [h.time] at hemits ⊢
  generalize ((b.acted p e.pi x).unlisted p y.slot).endAttempts (x.afterFiring e.pi s.time).superseded = m at *
  have hidle' : (m.modPort p (y.body.act m e.pi)).arbiter = [] := hkeeps.arbiter hidle
  have hok' : (m.modPort p (y.body.act m e.pi)).MemOk := hkeeps.mem hok
  have hfirst' := Device.Shows.of_mem (d := m) (e := m.modPort p (y.body.act m e.pi)) rfl rfl hfirst
  generalize m.modPort p (y.body.act m e.pi) = g at *
  refine ⟨Device.Shows.of_mem hemits.mem hemits.prot ?_, Device.Shows.of_mem hemits.mem hemits.prot ?_⟩
  · have hend : g.endAttempts (y.afterFiring e.pi s.time) = g.endCue (y.afterFiring e.pi s.time) stFired .none e.pi s.time := Device.endAttempts_fired g rfl
    rw [hend]
    exact Device.Shows.finishSlot hidle' hok' hslot hslot' hne hfirst' _ _
  · exact Device.endAttempts_shows_fired (c := y.afterFiring e.pi s.time) hidle' hok' hslot' rfl

end

/-! ## The obligation -/

/-- Settles O45: the dispatch takes the head of the list while it is due, and each attempt fires or is skipped by its grace. -/
theorem dispatch : Obligations.Dispatch := by
  unfold Obligations.Dispatch
  refine ⟨?_, ?_, ?_⟩
  · intro s p e c hquiet hreach hlocked hcues hdue hslot hmem hstill hinterval hleft hlast within flags
    obtain ⟨b, h⟩ := State.dispatching hquiet hreach hlocked hstill
    have hfires := fun hbody hgrace => h.fires_ending hmem hlocked hcues hdue hslot hbody hgrace (.inl (Cue.afterFiring_spent hleft _ _))
    refine ⟨_, h.exec, h.leaves hmem hlocked hcues hdue hslot hleft hlast, h.cursor, fun n fade m first last hgrace hbody hkind => ?_, fun action hgrace hbody => ?_,
      fun bulk offset len pacing chunk hgrace hbody hroom => (h.sends hmem hlocked hcues hdue hbody hgrace hroom).2,
      fun bulk offset len pacing chunk hgrace hbody hfull => (h.refuses hmem hlocked hcues hdue hslot hbody hgrace hfull hleft hlast).2, fun hgrace => ?_⟩
    · have hacts : c.body.Acts := .inr ⟨n, fade, m, first, last, hbody⟩
      obtain ⟨hport, hshows⟩ := hfires hacts hgrace
      rw [Cue.afterFiring_revision hinterval, Cue.afterFiring_aux_once hinterval hacts] at hshows
      refine ⟨hshows, ?_⟩
      rw [Device.emit_level (by rw [hport]; exact hkind), Device.port_modPort_same, hport, hbody]
      exact Mixer.reach_fire _ _ _ _ _ _ _
    · have hacts : c.body.Acts := .inl ⟨action, hbody⟩
      obtain ⟨hport, hshows⟩ := hfires hacts hgrace
      rw [Cue.afterFiring_revision hinterval, Cue.afterFiring_aux_once hinterval hacts] at hshows
      rw [hbody] at hport
      have hrun : (((b.dispatch p e.pi).emit p (s.port p).run e).port p).run = action := by
        rw [h.emits.port, hport]
        rfl
      refine ⟨hshows, hrun, fun hkind hrunning hhalt => ?_, fun hkind hrunning hhalt hline hroom => ⟨fun hresume => ?_, fun b' hresume hb hhead => ?_⟩⟩
      · subst hhalt
        exact halts_clock hport hrunning hkind
      · subst hhalt
        exact halts_step hport hkind hline hrunning hroom hresume
      · subst hhalt
        exact halts_step_withdrawing hport hkind hline hrunning hroom hresume hb hhead
    · have hshows := (h.skips_ending hmem hlocked hcues hdue hslot hgrace (.inl (Cue.afterSkip_spent hleft _))).2.1 hlast
      exact ⟨hshows.state, hshows.firePI, hshows.reason.trans c.skipReason_code⟩
  · intro s p e c hquiet hreach hlocked hcues hdue hslot hmem hstill hinterval within fires next mark skip
    obtain ⟨b, h⟩ := State.dispatching hquiet hreach hlocked hstill
    have hrun : s.planner.transport ≠ .stopped := (Device.portReachDue_some hreach).1
    have hleft : c.left ≠ some 0 → c.left ≠ some 1 → c.left.map (· - 1) ≠ some 0 := Option.map_pred_ne_zero
    have hends : c.left = some 1 ∨ 4294967295 < next → c.left.map (· - 1) = some 0 ∨ maxPI < c.due + c.interval * 96 :=
      Or.imp_left fun hone => by rw [hone]; rfl
    refine ⟨_, h.exec, h.cursor, fun hzero hone hnext hmax hfires => ?_, fun hzero hone hnext hmax hgrace => ?_, fun hend hfires => ?_, fun k t hend hgrace hlast => ?_⟩
    · obtain ⟨hgrace, hscene⟩ := hfires
      refine h.fires_rearming hmem hlocked hcues hdue hrun hnext hmax (.inr hscene) hgrace (hleft hzero hone) ?_
      unfold Cue.afterFiring Cue.firedAt Cue.afterFire
      rw [if_pos (show c.interval ≠ 0 from hinterval)]
      rfl
    · refine h.skips_rearming hmem hlocked hcues hdue hrun hnext hmax hgrace (hleft hzero hone) ?_
      unfold Cue.afterSkip
      rw [if_pos hinterval]
      rfl
    · obtain ⟨hgrace, hscene⟩ := hfires
      obtain ⟨hport, hshows⟩ := h.fires_ending hmem hlocked hcues hdue hslot (.inr hscene) hgrace (hends hend)
      have haux : (c.afterFiring e.pi s.time).aux = c.skipped := if_pos hinterval
      rw [haux] at hshows
      refine ⟨?_, hshows.state, hshows.firePI, hshows.fired, hshows.aux⟩
      rw [h.emits.port, hport]
    · obtain ⟨hport, -, hshows⟩ := h.skips_ending hmem hlocked hcues hdue hslot hgrace (hends hend)
      have hshown := hshows k t hlast
      refine ⟨?_, hshown.state, hshown.firePI, hshown.fireTime.trans (Nat.mod_mod _ _)⟩
      rw [h.emits.port, hport]
  · intro s p e x y hquiet hreach hlocked hcues hdue hdue' hne hslot hslot' hmem hstill hinterval hinterval' hleft hleft' hgrace hgrace' flags
    obtain ⟨b, h⟩ := State.dispatching hquiet hreach hlocked hstill
    have hport := fun hbody hbody' => h.pair_port hlocked hcues hdue hdue' hne hslot hleft hleft' hbody hbody' hgrace hgrace'
    refine ⟨_, h.exec, fun hbodies => ?_, fun r r' hbody hbody' => ?_, fun n fade m first last n' fade' m' first' last' hkind hbody hbody' => ?_⟩
    · have hacts : x.body.Acts ∧ y.body.Acts := by
        rcases hbodies with ⟨r, r', hbody, hbody'⟩ | ⟨-, n, fade, m, first, last, n', fade', m', first', last', hbody, hbody'⟩
        · exact ⟨.inl ⟨r, hbody⟩, .inl ⟨r', hbody'⟩⟩
        · exact ⟨.inr ⟨n, fade, m, first, last, hbody⟩, .inr ⟨n', fade', m', first', last', hbody'⟩⟩
      obtain ⟨g, hg, -, -⟩ := hport hacts.1 hacts.2
      obtain ⟨hx, hy⟩ := h.pair_shows hmem hlocked hcues hdue hdue' hne hslot hslot' hleft hleft' hacts.1 hacts.2 hgrace hgrace'
      rw [Cue.afterFiring_revision hinterval, Cue.afterFiring_aux_once hinterval hacts.1] at hx
      rw [Cue.afterFiring_revision hinterval', Cue.afterFiring_aux_once hinterval' hacts.2] at hy
      refine ⟨?_, hx, hy⟩
      rw [h.emits.port, hg]
    · obtain ⟨g, hg, -, -⟩ := hport (.inl ⟨r, hbody⟩) (.inl ⟨r', hbody'⟩)
      rw [h.emits.port, hg, hbody']
      rfl
    · obtain ⟨g, hg, -, hmixer⟩ := hport (.inr ⟨n, fade, m, first, last, hbody⟩) (.inr ⟨n', fade', m', first', last', hbody'⟩)
      rw [Device.emit_level (by rw [hg]; exact hkind), Device.port_modPort_same, hg, hbody']
      refine (Mixer.reach_fire _ _ _ _ _ _ _).trans ?_
      rw [hmixer, hbody]
      rfl

end Sys2Proof.Machine
end

section
/-! PROOFS. Plans made again (R41 to R43): how each new entry is built, and that the cues of the global list take effect in them (R45, R13, R6). -/
namespace Sys2Proof.Machine

/-! ## The entries of a planning, one by one -/

/-- The planning has gone on from d: the global cues are the same but for their flags. -/
structure Device.Grown (d m : Device) : Prop where
  soft : m.firstSoft = d.firstSoft
  follower : m.follower = d.follower
  cues : ∀ y ∈ d.globals, ∃ f, { y with flags := f } ∈ m.globals

theorem Device.Grown.refl (d : Device) : d.Grown d := ⟨rfl, rfl, fun y hy => ⟨y.flags, hy⟩⟩

theorem Device.Grown.trans {d m n : Device} (a : d.Grown m) (b : m.Grown n) : d.Grown n := by
  refine ⟨b.soft.trans a.soft, b.follower.trans a.follower, fun y hy => ?_⟩
  obtain ⟨f, hf⟩ := a.cues y hy
  obtain ⟨g, hg⟩ := b.cues { y with flags := f } hf
  exact ⟨g, hg⟩

theorem Device.latchStop_globals (d : Device) (k : Nat) : (d.latchStop k).globals = d.globals := by
  unfold Device.latchStop Device.setTransport
  split
  · rfl
  · exact (congrArg Device.globals (HostOnly.requestStatus _) :)

theorem Device.Grown.appendEntry (d : Device) (e : PlanEntry) : d.Grown (d.appendEntry e) := by
  refine ⟨(Replans.appendEntry d e).firstSoft, ?_, fun y hy => ?_⟩
  · unfold Device.appendEntry
    split
    · exact (Keeps.latchStop _ _).follower (Nat.le_refl _)
    · rfl
  · have hglobals : (d.appendEntry e).globals = d.globals.map (·.meterMoved e) := by
      unfold Device.appendEntry
      split
      · exact Device.latchStop_globals _ _
      · rfl
    obtain ⟨f, hf⟩ : ∃ f, y.meterMoved e = { y with flags := f } := by
      unfold Cue.meterMoved
      split
      · exact ⟨_, rfl⟩
      · exact ⟨y.flags, rfl⟩
    refine ⟨f, ?_⟩
    rw [hglobals, ← hf]
    exact List.mem_map_of_mem hy

theorem Device.planPulse_of {d : Device} {b : PlanBase} (h : d.planBase = some b) : d.planPulse = d.appendEntry (d.buildEntry b) := by
  unfold Device.planPulse
  rw [h]

/-- Entry x was planned after the entries u had been appended to the plan of d. -/
def Device.Built (d : Device) (u : List PlanEntry) (x : PlanEntry) : Prop :=
  ∃ (m : Device) (b : PlanBase), d.Grown m ∧ m.planBase = some b ∧ m.planner.plan = d.planner.plan ++ u ∧ x = m.buildEntry b

/-- Each of the entries l was planned after those before it. -/
def Device.Builds (d : Device) (l : List PlanEntry) : Prop := ∀ u x v, l = u ++ x :: v → d.Built u x

theorem Device.Builds.nil (d : Device) : d.Builds [] := fun u x v h => by
  cases u <;> cases h

theorem Device.Builds.cons {d : Device} {b : PlanBase} (hb : d.planBase = some b) {l : List PlanEntry} (h : d.planPulse.Builds l) : d.Builds (d.buildEntry b :: l) := by
  intro u x v hl
  cases u with
  | nil =>
    cases hl
    exact ⟨d, b, .refl d, hb, (List.append_nil _).symm, rfl⟩
  | cons y u =>
    cases hl
    obtain ⟨m, b', hgrown, hbase, hplan, hx⟩ := h u x v rfl
    have hpulse : d.Grown d.planPulse := by
      rw [Device.planPulse_of hb]
      exact .appendEntry d _
    refine ⟨m, b', hpulse.trans hgrown, hbase, ?_, hx⟩
    rw [hplan, (Device.planPulse_some hb).1, List.append_assoc]
    rfl

/-- What planning the entries l from d on has made. -/
structure Device.Planned (d e : Device) (l : List PlanEntry) : Prop extends d.Appended e l where
  builds : d.Builds l

theorem Device.extendLoop_planned : ∀ (n : Nat) (d : Device), d.planBase.isSome = true → ∃ l, d.Planned (Device.extendLoop n d) l ∧
    ((Device.extendLoop n d).extendDue = false ∨ l.length = n)
  | 0, d, _ => ⟨[], ⟨.none d, .nil d⟩, .inr rfl⟩
  | n + 1, d, hbase => by
    obtain ⟨b, hb⟩ := Option.isSome_iff_exists.mp hbase
    rw [Device.extendLoop]
    split
    · cases hstop : (d.buildEntry b).stop with
      | true =>
        obtain ⟨happ, hended⟩ := Device.planPulse_stop hb hstop
        rw [Device.extendLoop_idle hended]
        exact ⟨_, ⟨happ, .cons hb (.nil _)⟩, .inl hended⟩
      | false =>
        obtain ⟨l, hl, hlen⟩ := Device.extendLoop_planned n d.planPulse (by rw [Device.planBase_of_concat (Device.planPulse_some hb).1]; rfl)
        exact ⟨_, ⟨hl.toAppended.cons hb hstop, hl.builds.cons hb⟩, hlen.imp id fun h => by rw [List.length_cons, h]⟩
    · next hdue => exact ⟨[], ⟨.none d, .nil d⟩, .inl (by simpa using hdue)⟩

/-- A pulse is planned, and the plan then extended. -/
theorem Device.pulses_planned {d : Device} (hbase : d.planBase.isSome = true) (n : Nat) : ∃ l, d.Planned (Device.extendLoop n d.planPulse) l ∧ l ≠ [] ∧
    ((Device.extendLoop n d.planPulse).extendDue = false ∨ l.length = n + 1) := by
  obtain ⟨b, hb⟩ := Option.isSome_iff_exists.mp hbase
  cases hstop : (d.buildEntry b).stop with
  | true =>
    obtain ⟨happ, hended⟩ := Device.planPulse_stop hb hstop
    rw [Device.extendLoop_idle hended]
    exact ⟨_, ⟨happ, .cons hb (.nil _)⟩, List.cons_ne_nil _ _, .inl hended⟩
  | false =>
    obtain ⟨l, hl, hlen⟩ := Device.extendLoop_planned n d.planPulse (by rw [Device.planBase_of_concat (Device.planPulse_some hb).1]; rfl)
    exact ⟨_, ⟨hl.toAppended.cons hb hstop, hl.builds.cons hb⟩, List.cons_ne_nil _ _, hlen.imp id fun h => by rw [List.length_cons, h]⟩

theorem Device.planBase_isSome_of_opening {d : Device} (h : d.planner.opening.isSome = true) : d.planBase.isSome = true := by
  unfold Device.planBase
  split
  · rfl
  · split
    · rfl
    · rw [Option.isSome_map]
      exact h

/-! ## The re-plan (R42) -/

/-- The device as a re-plan begins to plan: without its soft entries, and with no cue below the first soft pulse. -/
def Device.cleared (d : Device) : Device := d.discardSoft.moveGlobals

theorem Device.cleared_planner (d : Device) : d.cleared.planner = { d.planner with plan := d.planner.plan.filter fun e => decide (e.pi < d.firstSoft) } :=
  Device.moveGlobals_planner _

theorem Device.cleared_soft (d : Device) : d.cleared.firstSoft = d.firstSoft :=
  Device.firstSoft_congr (congrArg Planner.horizon d.cleared_planner :) (congrArg Planner.opening d.cleared_planner :)

theorem Device.Replanned.of_planner {d b e : Device} {l : List PlanEntry} (hplanner : b.planner = d.planner) (h : b.Replanned e l) : d.Replanned e l := by
  have hsoft : b.firstSoft = d.firstSoft := by simp only [Device.firstSoft, Device.runFirst, hplanner]
  refine ⟨?_, h.some, h.limit, ?_⟩
  · rw [h.plan, hplanner, hsoft]
  · have hchain := h.chain
    rw [hplanner, hsoft] at hchain
    exact hchain

/-- What a re-plan of a run with soft pulses left makes. -/
theorem Device.replan_planned {d : Device} (hrun : d.planner.transport ≠ .stopped) (hopening : d.planner.opening.isSome = true) (hsoft : d.allHard = false) :
    ∃ l, d.Replanned d.replan l ∧ d.cleared.Builds l ∧
      ∀ x ∈ l, x.stop = true → d.replan.planner.latched = some x.pi ∧ d.replan.planner.transport = .stopping := by
  have hreplan : d.replan = (Device.extendLoop 256 d.cleared.planPulse).afterPlan d.firstSoft := by
    unfold Device.replan
    rw [if_neg (by simp [Device.runUnderWay_iff.mpr hrun]), if_neg (by simp [hsoft])]
    rfl
  have hplanner := d.cleared_planner
  have hbase : d.cleared.planBase.isSome = true := Device.planBase_isSome_of_opening (by rw [hplanner]; exact hopening)
  obtain ⟨l, hl, hne, hlen⟩ := Device.pulses_planned hbase 256
  have hchain : ChainFrom (d.planner.plan.filter fun e => decide (e.pi < d.firstSoft)).length (Device.extendLoop 256 d.cleared.planPulse).planner.plan := by
    refine ChainFrom.extendLoop 256 (ChainFrom.planPulse ?_)
    rw [hplanner]
    exact chainFrom_length _
  generalize Device.extendLoop 256 d.cleared.planPulse = m at *
  have hafter := m.afterPlan_planner d.firstSoft
  have hended := (Replans.afterPlan m d.firstSoft).extendDue hafter (Keeps.afterPlan (n := 0) _ _).time
  rw [hreplan]
  refine ⟨l, ⟨?_, hne, by rw [hended]; exact hlen, fun l1 x y l2 hsplit hle => ?_⟩, hl.builds, fun x hx hstop => ?_⟩
  · rw [hafter, hl.plan, hplanner]
  · rw [hafter] at hsplit
    exact hchain l1 x y l2 hsplit hle
  · rw [hafter]
    exact hl.stops x hx hstop

/-! ## A cue takes effect (R45, R13, R6) -/

theorem Device.buildEntry_stops {d : Device} {b : PlanBase} {c : Cue} (hc : c ∈ d.globals) (hstop : c.body = .stop) (hdue : c.due = b.pi) :
    (d.buildEntry b).stop = true ∧ c.slot ∈ (d.buildEntry b).applied := by
  have hstopDue : c.stopDue b.pi = true := by
    rw [Cue.stopDue, hstop]
    exact beq_iff_eq.mpr hdue
  constructor
  · simp only [Device.buildEntry, PlanBase.withPending_pi, Device.endsRun, Bool.or_eq_true, List.any_eq_true]
    exact .inl (.inl ⟨c, hc, hstopDue⟩)
  · refine List.mem_map.mpr ⟨c, List.mem_filter.mpr ⟨hc, ?_⟩, rfl⟩
    simp only [PlanBase.withPending_pi, Bool.or_eq_true, List.contains_iff_mem]
    exact .inr (List.mem_filter.mpr ⟨hc, hstopDue⟩)

/-- In the entries that a re-plan makes, a cue of the list that is not below them takes effect. -/
theorem Device.takesEffect_of_builds {d e : Device} {l : List PlanEntry} {c : Cue} (hbuilds : d.Builds l) (hc : ∃ f, { c with flags := f } ∈ d.globals)
    (hplan : e.planner.plan = d.planner.plan ++ l) (hsoft : e.firstSoft = d.firstSoft) (hfollower : e.follower = d.follower)
    (hhard : ∀ x ∈ d.planner.plan, x.pi < d.firstSoft)
    (hstops : ∀ x ∈ l, x.stop = true → e.planner.latched = some x.pi ∧ e.planner.transport = .stopping) : e.TakesEffect c l := by
  have hbuilt : ∀ x ∈ l, ∃ (u : List PlanEntry) (m : Device) (b : PlanBase) (f : CueFlags),
      d.Grown m ∧ x = m.buildEntry b ∧ m.planner.plan = d.planner.plan ++ u ∧ m.planBase = some b ∧ { c with flags := f } ∈ m.globals := fun x hx => by
    obtain ⟨u, v, rfl⟩ := List.append_of_mem hx
    obtain ⟨m, b, hgrown, hbase, hp, hxb⟩ := hbuilds u x v rfl
    obtain ⟨f, hf⟩ := hc
    obtain ⟨f', hf'⟩ := hgrown.cues { c with flags := f } hf
    exact ⟨u, m, b, f', hgrown, hxb, hp, hbase, hf'⟩
  refine ⟨fun period ramp hbody x hx hdue => ?_, fun hbody x hx hdue => ?_, fun beats hbody l1 a x l2 hsplit hlow hdue horigin hbar hfresh => ?_⟩
  · obtain ⟨u, m, b, f, hgrown, rfl, -, -, hmem⟩ := hbuilt x hx
    rw [Device.buildEntry_pi] at hdue
    have htempo : { c with flags := f } ∈ m.globals.filter (·.tempoDue b.pi) := by
      refine List.mem_filter.mpr ⟨hmem, ?_⟩
      unfold Cue.tempoDue
      dsimp only
      rw [hbody]
      exact beq_iff_eq.mpr hdue.symm
    rw [hfollower, ← hgrown.follower]
    split
    · next hoff => exact m.mem_applied_of_tempoDue b (c := { c with flags := f }) hoff htempo
    · next hon =>
      rw [Device.buildEntry_passed, if_neg (fun h => hon (beq_iff_eq.mp h))]
      exact List.mem_map.mpr ⟨_, htempo, rfl⟩
  · obtain ⟨u, m, b, f, -, hxb, -, -, hmem⟩ := hbuilt x hx
    have hdue' : c.due = b.pi := by
      rw [hxb, Device.buildEntry_pi] at hdue
      exact hdue.symm
    obtain ⟨hstop, happlied⟩ := Device.buildEntry_stops hmem hbody hdue'
    rw [← hxb] at hstop happlied
    obtain ⟨hlatched, htransport⟩ := hstops x hx hstop
    exact ⟨hstop, happlied, by rw [← hdue]; exact hlatched, htransport⟩
  · have hdisjoint : x ∉ d.planner.plan := fun hx => absurd (hhard x hx) (by rw [← hsoft]; omega)
    obtain ⟨u, hu, hl⟩ : ∃ u, l1 ++ [a] = d.planner.plan ++ u ∧ l = u ++ x :: l2 := by
      rw [hplan, show l1 ++ a :: x :: l2 = (l1 ++ [a]) ++ x :: l2 by simp] at hsplit
      rcases List.append_eq_append_iff.mp hsplit with ⟨w, hw, hl⟩ | ⟨w, hw, hl⟩
      · exact ⟨w, hw, hl⟩
      · cases w with
        | nil => exact ⟨[], by simpa using hw.symm, by simpa using hl.symm⟩
        | cons z w =>
          cases hl
          exact absurd (by rw [hw]; simp) hdisjoint
    obtain ⟨m, b, hgrown, hbase, hp, hx⟩ := hbuilds u x l2 hl
    obtain ⟨f, hf⟩ := hc
    obtain ⟨f', hmem⟩ := hgrown.cues { c with flags := f } hf
    rw [← hu] at hp
    rw [Device.planBase_of_concat hp] at hbase
    obtain rfl := Option.some.inj hbase
    rw [hx, Device.buildEntry_pi] at hlow hdue horigin hbar
    have hmeter : { c with flags := f' } ∈ m.metersAt (PlanBase.after a) := by
      rw [Device.metersAt_of_bar (b := PlanBase.after a) ⟨horigin, hbar⟩]
      refine List.mem_filter.mpr ⟨hmem, ?_⟩
      have hnot : (m.softEntries.any fun y => y.applied.contains c.slot) = false := by
        rw [List.any_eq_false]
        intro y hy
        obtain ⟨hy, hysoft⟩ := List.mem_filter.mp hy
        rw [hp] at hy
        have hfree := hfresh y hy (by rw [hsoft, ← hgrown.soft]; exact of_decide_eq_true hysoft)
        simpa using hfree
      have hismeter : ({ c with flags := f' } : Cue).isMeter = true := by
        unfold Cue.isMeter
        dsimp only
        rw [hbody]
      dsimp only
      rw [hismeter, hnot, decide_eq_true hdue]
      rfl
    rw [hx]
    exact m.mem_applied_of_metersAt _ (c := { c with flags := f' }) hmeter

end Sys2Proof.Machine
end

section
/-! PROOFS. A global cue enters the list (R91, R92, R47): its place, its slot, and the cues moved with it; and the re-plan it may cause (R41). -/
namespace Sys2Proof.Machine

/-! ## Progress fields -/

/-- R80: the progress fields of a slot, as a cue's writes leave them. -/
structure Device.ShowsProgress (d : Device) (n revision firePI fired aux : Nat) : Prop where
  revision : d.field n 50 2 = revision % 65536
  firePI : d.field n 52 4 = firePI % 4294967296
  fired : d.field n 60 2 = fired % 65536
  aux : d.field n 62 2 = aux % 65536

theorem Device.ShowsProgress.kept {d e : Device} {n a b c k : Nat} (h : d.ShowsProgress n a b c k) (hkept : d.SlotKept e n) : e.ShowsProgress n a b c k :=
  ⟨(hkept.slot.field 50 2).trans h.revision, (hkept.slot.field 52 4).trans h.firePI, (hkept.slot.field 60 2).trans h.fired, (hkept.slot.field 62 2).trans h.aux⟩

theorem Device.writeProgress_shows {d : Device} (hquiet : d.arbiter = []) (hmem : d.MemOk) (c : Cue) (k : Nat) :
    (d.writeProgress c k).ShowsProgress c.slot c.revision k c.fired c.aux := by
  have w1 := Memory.wf_writeLE 2 (slotBase c.slot + 50) c.revision hmem
  have w2 := Memory.wf_writeLE 4 (slotBase c.slot + 52) k w1
  have w3 := Memory.wf_writeLE 2 (slotBase c.slot + 60) c.fired w2
  rw [Device.writeProgress_quiet hquiet]
  refine ⟨?_, ?_, ?_, ?_⟩ <;> simp only [Device.field, Device.peek, Device.write_mem]
  · repeat rw [Memory.readLE_writeLE_outside _ _ _ _ (by omega)]
    exact Memory.readLE_writeLE_same 2 _ _ hmem
  · repeat rw [Memory.readLE_writeLE_outside _ _ _ _ (by omega)]
    exact Memory.readLE_writeLE_same 4 _ _ w1
  · repeat rw [Memory.readLE_writeLE_outside _ _ _ _ (by omega)]
    exact Memory.readLE_writeLE_same 2 _ _ w2
  · exact Memory.readLE_writeLE_same 2 _ _ w3

/-- R80, R81: the writes that show a cue HELD, after its progress fields. -/
def Device.showing (d : Device) (c : Cue) : Device :=
  (((d.poke (slotBase c.slot + 48) 1 0).poke (slotBase c.slot + 49) 1 c.flags.toByte).poke (slotBase c.slot + 56) 4 0).poke (slotBase c.slot) 1 stHeld

theorem Device.showHeld_of {d : Device} {place : Place} {c : Cue} (h : d.heldAt c.slot = some (place, c)) : d.showHeld c.slot = d.showing c := by
  unfold Device.showHeld
  rw [h]
  rfl

theorem Device.holding_eq (d : Device) (c : Cue) : (d.writeProgress c c.due).showing c = d.holding c := rfl

theorem Wrote.showing {d : Device} (h : d.arbiter = []) (c : Cue) : Wrote d (d.showing c) := by
  simp only [Device.showing, Device.poke_quiet, Device.write_arbiter, h]
  exact (((Wrote.write d _ _ _).trans (.write _ _ _ _)).trans (.write _ _ _ _)).trans (.write _ _ _ _)

theorem Device.showing_prot {d : Device} (h : d.arbiter = []) (c : Cue) : (d.showing c).prot = d.prot := by
  simp only [Device.showing, Device.poke_quiet, Device.write_arbiter, h]
  rfl

theorem Device.showing_shows {d : Device} (h : d.arbiter = []) (hmem : d.MemOk) {c : Cue} (hprogress : d.ShowsProgress c.slot c.revision c.due c.fired c.aux) :
    (d.showing c).ShowsHeld c := by
  have w1 := Memory.wf_writeLE 1 (slotBase c.slot + 48) 0 hmem
  have w2 := Memory.wf_writeLE 1 (slotBase c.slot + 49) c.flags.toByte w1
  have w3 := Memory.wf_writeLE 4 (slotBase c.slot + 56) 0 w2
  obtain ⟨hrevision, hfirePI, hfired, haux⟩ := hprogress
  simp only [Device.showing, Device.poke_quiet, Device.write_arbiter, h]
  refine ⟨?_, ?_, ?_, ?_, ?_, ?_, ?_, ?_⟩ <;> simp only [Device.slotState, Device.field, Device.peek, Device.write_mem]
  · rw [Memory.readLE_writeLE_same 1 _ _ w3]
    rfl
  · repeat rw [Memory.readLE_writeLE_outside _ _ _ _ (by omega)]
    exact Memory.readLE_writeLE_same 1 _ _ hmem
  · repeat rw [Memory.readLE_writeLE_outside _ _ _ _ (by omega)]
    rw [Memory.readLE_writeLE_same 1 _ _ w1]
    exact Nat.mod_eq_of_lt (CueFlags.toByte_lt _)
  · repeat rw [Memory.readLE_writeLE_outside _ _ _ _ (by omega)]
    exact hrevision
  · repeat rw [Memory.readLE_writeLE_outside _ _ _ _ (by omega)]
    exact hfirePI
  · repeat rw [Memory.readLE_writeLE_outside _ _ _ _ (by omega)]
    exact Memory.readLE_writeLE_same 4 _ _ w2
  · repeat rw [Memory.readLE_writeLE_outside _ _ _ _ (by omega)]
    exact hfired
  · repeat rw [Memory.readLE_writeLE_outside _ _ _ _ (by omega)]
    exact haux

/-! ## Entering the global list -/

theorem Device.moveGlobals_port (d : Device) (p : PortIx) : d.moveGlobals.port p = d.port p := by
  have hfold : ∀ (l : List Cue) (e : Device), (l.foldl (fun d c => d.writeProgress c c.due) e).port p = e.port p := by
    intro l
    induction l with
    | nil => exact fun e => rfl
    | cons c l ih => exact fun e => (ih _).trans (Device.writeProgress_port e c _ p)
  unfold Device.moveGlobals
  dsimp only
  split
  · rfl
  · exact hfold _ _

theorem Device.moveGlobals_idle {d : Device} (h : ∀ x ∈ d.globals, d.firstSoft ≤ x.due) : d.moveGlobals = d := by
  unfold Device.moveGlobals
  refine if_pos (List.filter_eq_nil_iff.mpr fun x hx hlow => ?_)
  exact absurd (h x hx) (Nat.not_le.mpr (of_decide_eq_true hlow))

theorem Cue.movedTo_self {c : Cue} {k : Nat} (h : k ≤ c.due) : c.movedTo k = c := if_neg (Nat.not_lt.mpr h)

/-- The device with the cue c in the global list, and the cues below the first soft pulse moved there. -/
def Device.entered (d : Device) (c : Cue) : Device := (d.enterGlobal c).moveWaiting

/-- What entering the global list leaves. -/
structure Device.EntersGlobal (d : Device) (c : Cue) (e : Device) : Prop where
  idle : e.arbiter = []
  memOk : e.MemOk
  planner : e.planner = d.planner
  follower : e.follower = d.follower
  prot : e.prot = d.prot
  ports : ∀ p, e.port p = d.port p
  keeps : Keeps 0 d e
  mem : c ∈ e.globals
  only : ∀ y ∈ e.globals, y.slot = c.slot → y = c
  above : d.planner.transport ≠ .stopped → ∀ y ∈ e.globals, d.firstSoft ≤ y.due
  shows : e.ShowsProgress c.slot c.revision c.due c.fired c.aux
  state : e.slotState c.slot = d.slotState c.slot
  alone : d.planner.transport = .stopped ∨ (∀ x ∈ d.globals, d.firstSoft ≤ x.due) → e = ({ d with globals := insertCue c d.globals }).writeProgress c c.due

theorem Device.entersGlobal {d : Device} {c : Cue} (hquiet : d.arbiter = []) (hmem : d.MemOk) (hfree : ∀ x ∈ d.globals, x.slot ≠ c.slot)
    (hsoft : d.planner.transport ≠ .stopped → d.firstSoft ≤ c.due) : d.EntersGlobal c (d.entered c) := by
  have hshows := Device.writeProgress_shows (d := { d with globals := insertCue c d.globals }) hquiet hmem c c.due
  have hstate := (Device.writeProgress_reads (d := { d with globals := insertCue c d.globals }) hquiet hmem c c.due).2
  have hwrote := Wrote.writeProgress (d := { d with globals := insertCue c d.globals }) hquiet c c.due
  have hprot := Device.writeProgress_prot (d := { d with globals := insertCue c d.globals }) hquiet c c.due
  have hkeeps : Keeps 0 d (({ d with globals := insertCue c d.globals }).writeProgress c c.due) := Keeps.enterGlobal d c
  have hentered : d.entered c = (({ d with globals := insertCue c d.globals }).writeProgress c c.due).moveWaiting := rfl
  rw [hentered]
  generalize hb : ({ d with globals := insertCue c d.globals }).writeProgress c c.due = b at *
  have hplanner : b.planner = d.planner := (congrArg Device.planner hwrote :)
  have hglobals : b.globals = insertCue c d.globals := (congrArg Device.globals hwrote :)
  have hports : ∀ p, b.port p = d.port p := fun p => (congrArg (fun x : Device => x.port p) hwrote :)
  have hsoftEq : b.firstSoft = d.firstSoft := Device.firstSoft_congr (congrArg Planner.horizon hplanner) (congrArg Planner.opening hplanner)
  have hbidle : b.arbiter = [] := hkeeps.arbiter hquiet
  have hbmem : b.MemOk := hkeeps.mem hmem
  have hslot : ∀ y ∈ b.globals, y.slot = c.slot → y = c := fun y hy hs => by
    rw [hglobals, mem_insertCue] at hy
    exact hy.resolve_right fun hin => hfree y hin hs
  have hmoveKeeps : Keeps 0 b b.moveWaiting := Keeps.moveWaiting b
  have hplots := Plots.moveWaiting hbidle
  have habove := fun h => Device.moveWaiting_above (d := b) h
  by_cases hrun : d.planner.transport = .stopped
  · have hstill : b.moveWaiting = b := if_neg (by simp [Device.runUnderWay, hplanner, hrun])
    rw [hstill]
    exact ⟨hbidle, hbmem, hplanner, (congrArg Device.follower hwrote :), hprot, hports, hkeeps, by rw [hglobals]; exact mem_insertCue.mpr (.inl rfl), hslot,
      fun h => absurd hrun h, hshows, hstate, fun _ => hb.symm⟩
  · have hmoves : b.moveWaiting = b.moveGlobals := if_pos (Device.runUnderWay_iff.mpr (by rw [hplanner]; exact hrun))
    have hkept : b.SlotKept b.moveWaiting c.slot := hplots.slotKept fun x hx hlow hs => by
      rw [hslot x hx hs, hsoftEq] at hlow
      exact absurd (hsoft hrun) (Nat.not_le.mpr hlow)
    have hmember : ∀ y, y ∈ b.moveWaiting.globals ↔ ∃ x ∈ b.globals, x.movedTo d.firstSoft = y := fun y => by
      rw [hmoves, Device.moveGlobals_mem, hsoftEq]
    have hself : c.movedTo d.firstSoft = c := Cue.movedTo_self (hsoft hrun)
    refine ⟨hplots.arbiter, hmoveKeeps.mem hbmem, by rw [hmoves, Device.moveGlobals_planner, hplanner], ?_, hplots.prot.trans hprot,
      fun p => by rw [hmoves, Device.moveGlobals_port, hports], hkeeps.trans hmoveKeeps, (hmember c).mpr ⟨c, by rw [hglobals]; exact mem_insertCue.mpr (.inl rfl), hself⟩,
      fun y hy hs => ?_, fun _ => ?_, hshows.kept hkept, (SameSlot.slotState hkept.slot).trans hstate, fun halone => ?_⟩
    · rw [hmoves]
      exact ((Keeps.moveGlobals (n := 3) b).follower (by omega)).trans (congrArg Device.follower hwrote :)
    · obtain ⟨x, hx, rfl⟩ := (hmember y).mp hy
      rw [(Cue.Shifted.movedTo d.firstSoft x).slot] at hs
      rw [hslot x hx hs, hself]
    · rw [← hsoftEq]
      exact habove (by rw [hplanner]; exact hrun)
    · rw [hmoves, hb]
      refine Device.moveGlobals_idle fun x hx => ?_
      rw [hsoftEq]
      rw [hglobals, mem_insertCue] at hx
      rcases hx with rfl | hx
      · exact hsoft hrun
      · exact (halone.resolve_left hrun) x hx

/-! ## The re-plan that a global cue causes -/

/-- A global cue at or above the first soft pulse takes effect in a re-plan. -/
theorem Device.replan_takesEffect {d b : Device} {c : Cue} (hplanner : b.planner = d.planner) (hrun : d.planner.transport ≠ .stopped)
    (hopening : d.planner.opening.isSome = true) (hlatch : ∀ z h, d.planner.latched = some z → d.planner.horizon = some h → h < z)
    (hc : c ∈ b.globals) (hsoft : d.firstSoft ≤ c.due) : ∃ l, d.Replanned b.replan l ∧ b.replan.TakesEffect c l := by
  have hsoftEq : b.firstSoft = d.firstSoft := Device.firstSoft_congr (congrArg Planner.horizon hplanner) (congrArg Planner.opening hplanner)
  have hall : b.allHard = false := by
    unfold Device.allHard
    rw [hplanner]
    split
    · next z h hz hh => exact decide_eq_false (Nat.not_le.mpr (hlatch z h hz hh))
    · rfl
  obtain ⟨l, hreplanned, hbuilds, hstops⟩ := Device.replan_planned (d := b) (by rw [hplanner]; exact hrun) (by rw [hplanner]; exact hopening) hall
  refine ⟨l, hreplanned.of_planner hplanner, Device.takesEffect_of_builds hbuilds ⟨c.flags, ?_⟩ ?_ ?_ ?_ ?_ hstops⟩
  · refine Device.moveGlobals_mem.mpr ⟨c, hc, Cue.movedTo_self ?_⟩
    exact Nat.le_trans (Nat.le_of_eq hsoftEq) hsoft
  · rw [hreplanned.plan, Device.cleared_planner]
  · rw [(Replans.replan b).firstSoft, Device.cleared_soft]
  · have hreplan := (Keeps.replan b).follower (Nat.le_refl _)
    have hcleared := (Keeps.moveGlobals (n := 3) b.discardSoft).follower (by omega)
    exact hreplan.trans hcleared.symm
  · intro x hx
    rw [Device.cleared_planner] at hx
    rw [Device.cleared_soft]
    exact of_decide_eq_true (List.mem_filter.mp hx).2

end Sys2Proof.Machine
end

section
/-! PROOFS. The takes of the global cues TEMPO, METER and STOP that are held (R89, R94, R47, R80, R41 to R43). -/
namespace Sys2Proof.Machine

/-! ## The entry that intake makes -/

/-- The entry that intake makes of the global cue in slot n, at its place. -/
def Device.globalCue (d : Device) (n : Nat) (body : CueBody) (clamped : Bool) : Cue :=
  d.placeGlobal (d.newCue n d.seq (d.resolve (d.fireMode n) (d.fireValue n) d.globalRef) none body clamped)

theorem Device.placeGlobal_slot (d : Device) (c : Cue) : (d.placeGlobal c).slot = c.slot := by
  unfold Device.placeGlobal
  split
  · exact (Cue.Shifted.movedTo _ c).slot
  · rfl

theorem Device.placeGlobal_above {d : Device} (h : d.planner.transport ≠ .stopped) (c : Cue) : d.firstSoft ≤ (d.placeGlobal c).due := by
  unfold Device.placeGlobal
  rw [if_pos (Device.runUnderWay_iff.mpr h)]
  exact c.movedTo_due _

/-- R47: where a global cue is placed. -/
theorem Device.placeGlobal_eq (d : Device) (c : Cue) : d.placeGlobal c =
    { c with
      due := if decide (d.planner.transport ≠ .stopped) && decide (c.due < d.firstSoft) then d.firstSoft else c.due
      flags := { c.flags with moved := c.flags.moved || (decide (d.planner.transport ≠ .stopped) && decide (c.due < d.firstSoft)) } } := by
  have hrun : d.runUnderWay = decide (d.planner.transport ≠ .stopped) := by
    rw [Bool.eq_iff_iff, Device.runUnderWay_iff, decide_eq_true_eq]
  unfold Device.placeGlobal
  rw [hrun]
  by_cases hs : d.planner.transport = .stopped
  · rw [decide_eq_false (by simpa using hs), if_neg Bool.false_ne_true]
    simp
  · rw [decide_eq_true hs, if_pos rfl, Bool.true_and]
    unfold Cue.movedTo
    by_cases hlow : c.due < d.firstSoft
    · simp [hlow]
    · simp [hlow]

theorem Device.beginTake_globalCue (d : Device) (n : Nat) (body : CueBody) (clamped : Bool) :
    (d.beginTake n).placeGlobal ((d.beginTake n).newCue n d.seq ((d.beginTake n).resolve ((d.beginTake n).fireMode n) ((d.beginTake n).fireValue n) (d.beginTake n).globalRef)
      none body clamped) = d.globalCue n body clamped := by
  have hsame := SameChecked.beginTake d n n
  have hout := Device.SameOutlook.beginTake d n 0
  have hplanner := d.beginTake_planner n
  have hsoft : (d.beginTake n).firstSoft = d.firstSoft := Device.firstSoft_congr (congrArg Planner.horizon hplanner) (congrArg Planner.opening hplanner)
  have hnext : (d.beginTake n).nextFirst = d.nextFirst := by simp only [Device.nextFirst, hplanner]
  have href : (d.beginTake n).globalRef = d.globalRef := by simp only [Device.globalRef, hout.runUnderWay, hsoft, hnext]
  rw [hsame.fireMode, hsame.fireValue, href, hout.resolve, Device.beginTake_newCue, Device.globalCue, Device.placeGlobal, Device.placeGlobal, hout.runUnderWay, hsoft]

/-- What is left of the check of a global cue: its kind's body, clamped or not. -/
def TakeRow.HoldsGlobal (row : TakeRow) (s : Device) (n : Nat) (body : CueBody) (clamped : Bool) : Prop :=
  (row = .tempo ∧ ¬ (s.fireMode n = 0 ∧ s.planner.transport = .stopped) ∧
      body = .tempo (roundDiv 40960000000000 (if s.field n 16 4 < 40000 then 40000 else if 300000 < s.field n 16 4 then 300000 else s.field n 16 4)) (s.field n 20 2) ∧
      clamped = (decide (s.field n 16 4 < 40000) || decide (300000 < s.field n 16 4))) ∨
    (row = .meter ∧ body = .meter (if 15 < s.field n 16 1 then 15 else s.field n 16 1) ∧ clamped = decide (15 < s.field n 16 1)) ∨
    (row = .transportStop ∧ body = .stop ∧ clamped = false)

theorem State.NextTake.meter_positive {s : State} {n : Nat} (h : s.NextTake .meter n) (hv : s.validate n = none) : ¬ s.field n 16 1 < 1 := by
  have hkind : s.kindOf n = 0x02 := h.kind rfl
  have hpayload := (Device.passes_of_validate hv).payload
  rw [Device.badPayload, hkind] at hpayload
  have hne : s.field n 16 1 ≠ 0 := by simpa using hpayload
  omega

/-- The effect of the take: the cue enters its list, is shown, and re-plans if it reaches into the plan. -/
theorem State.NextTake.effect_global {s : State} {row : TakeRow} {n : Nat} {body : CueBody} {clamped : Bool} (h : s.NextTake row n) (hv : s.validate n = none)
    (hrow : row.HoldsGlobal s.toDevice n body clamped) : row.effect n s.seq (s.beginTake n) =
      (((s.beginTake n).entered (s.globalCue n body clamped)).showHeld n).replanFor (s.globalCue n body clamped).due := by
  have hsame := SameChecked.beginTake s.toDevice n n
  have hscheduled : ∀ body' clamped', Device.scheduleGlobal (s.beginTake n) n s.seq body' clamped' =
      (((s.beginTake n).entered (s.globalCue n body' clamped')).showHeld n).replanFor (s.globalCue n body' clamped').due := fun body' clamped' => by
    rw [Device.scheduleGlobal, Device.beginTake_globalCue]
    rfl
  rcases hrow with ⟨rfl, hnow, rfl, rfl⟩ | ⟨rfl, rfl, rfl⟩ | ⟨rfl, rfl, rfl⟩
  · rw [← hscheduled]
    show Device.takeTempo n s.seq (s.beginTake n) = _
    have hrun : (s.beginTake n).runUnderWay = s.runUnderWay := by simp only [Device.runUnderWay, Device.beginTake_planner]
    unfold Device.takeTempo
    rw [hsame.fireMode, hsame.field 16 4, hsame.field 20 2, hrun]
    refine if_neg fun hheld => hnow ⟨hheld.1, ?_⟩
    refine Classical.byContradiction fun hstopped => ?_
    rw [Device.runUnderWay_iff.mpr hstopped] at hheld
    exact absurd hheld.2 (by decide)
  · rw [← hscheduled]
    show Device.takeMeter n s.seq (s.beginTake n) = _
    have hpositive := h.meter_positive hv
    unfold Device.takeMeter clampTo clampNat
    rw [hsame.field 16 1, if_neg hpositive, decide_eq_false hpositive, Bool.false_or]
  · rw [← hscheduled]
    rfl

/-! ## The cue in its list -/

/-- A take that puts a global cue into the list: what the device is before the re-plan. -/
structure State.HeldGlobal (s : State) (n : Nat) (c : Cue) (m : Device) : Prop where
  idle : m.arbiter = []
  planner : m.planner = s.planner
  keeps : Keeps 0 (s.beginTake n) m
  prot : n ∈ m.prot
  shows : m.ShowsHeld c
  mem : c ∈ m.globals
  only : ∀ y ∈ m.globals, y.slot = n → y = c
  above : s.planner.transport ≠ .stopped → ∀ y ∈ m.globals, s.firstSoft ≤ y.due
  alone : s.planner.transport = .stopped ∨ (∀ x ∈ s.globals, s.firstSoft ≤ x.due) →
    s.SameBytes m (heldBytes n) ∧ m.globals = insertCue c s.globals ∧ m = { s.intakeOf m with globals := m.globals } ∧ m.attn = s.attn

theorem Wrote.intake_globals {d e : Device} {n : Nat} {g : List Cue} (h : Wrote { d.beginTake n with globals := g } e) : e = { d.intakeOf e with globals := g } := h

theorem State.NextTake.heldGlobal {s : State} {row : TakeRow} {n : Nat} {c : Cue} (h : s.NextTake row n) (hfree : s.heldAt n = none) (hslot : c.slot = n)
    (hsoft : s.planner.transport ≠ .stopped → s.firstSoft ≤ c.due) : s.HeldGlobal n c (((s.beginTake n).entered c).showHeld n) := by
  have hplanner := s.beginTake_planner n
  have hglobals := s.beginTake_globals n
  have hsoftEq : (s.beginTake n).firstSoft = s.firstSoft := Device.firstSoft_congr (congrArg Planner.horizon hplanner) (congrArg Planner.opening hplanner)
  have hnone := Device.heldAt_none_iff.mp hfree
  have henters := Device.entersGlobal (d := s.beginTake n) (c := c) h.begun_idle h.begun_mem
    (fun x hx hs => hnone .global x (by rw [hglobals] at hx; exact hx) (hs.trans hslot)) (by rw [hplanner, hsoftEq]; exact hsoft)
  have halone : s.planner.transport = .stopped ∨ (∀ x ∈ s.globals, s.firstSoft ≤ x.due) →
      (s.beginTake n).entered c = ({ s.beginTake n with globals := insertCue c s.globals }).writeProgress c c.due := fun ha => by
    have heq := henters.alone (by rw [hplanner, hglobals, hsoftEq]; exact ha)
    rw [hglobals] at heq
    exact heq
  have hport := fun p => (henters.ports p).trans (s.beginTake_port n p)
  have hprot : n ∈ ((s.beginTake n).entered c).prot := by
    rw [henters.prot, Device.beginTake_prot]
    exact mem_insertNat.mpr (.inl rfl)
  have hat : ((s.beginTake n).entered c).heldAt c.slot = some (.global, c) := by
    refine Device.heldAt_of_only henters.mem rfl fun place y hy hs => ?_
    cases place with
    | global => exact ⟨rfl, henters.only y hy hs⟩
    | list p =>
      rw [Device.Stands, hport] at hy
      exact absurd (hs.trans hslot) (hnone (.list p) y hy)
    | flight p =>
      rw [Device.Stands, hport] at hy
      exact absurd (hs.trans hslot) (hnone (.flight p) y hy)
  have hkeeps : Keeps 0 (s.beginTake n) (((s.beginTake n).entered c).showHeld n) := henters.keeps.trans (.showHeld _ n)
  have hshown := Device.showHeld_of hat
  rw [hslot] at hshown
  rw [hshown] at hkeeps ⊢
  have hwrote := Wrote.showing henters.idle c
  have hheld := Device.showing_shows henters.idle henters.memOk henters.shows
  have hprots := Device.showing_prot henters.idle c
  have honly : ∀ y ∈ ((s.beginTake n).entered c).globals, y.slot = n → y = c := fun y hy hs => henters.only y hy (hs.trans hslot.symm)
  have habove : s.planner.transport ≠ .stopped → ∀ y ∈ ((s.beginTake n).entered c).globals, s.firstSoft ≤ y.due := fun hrun => by
    rw [← hsoftEq]
    exact henters.above (by rw [hplanner]; exact hrun)
  have hgs : (((s.beginTake n).entered c).showing c).globals = ((s.beginTake n).entered c).globals := (congrArg Device.globals hwrote :)
  refine ⟨(congrArg Device.arbiter hwrote :).trans henters.idle, ((congrArg Device.planner hwrote :).trans henters.planner).trans hplanner, hkeeps, by rw [hprots]; exact hprot,
    hheld, by rw [hgs]; exact henters.mem, by rw [hgs]; exact honly, by rw [hgs]; exact habove, fun ha => ?_⟩
  rw [halone ha, Device.holding_eq]
  obtain ⟨b, hb, hmem, hattn, hidle, hlist, hwrites⟩ : ∃ b : Device, b = { s.beginTake n with globals := insertCue c s.globals } ∧ b.mem = s.mem ∧ b.attn = s.attn ∧
      b.arbiter = [] ∧ b.globals = insertCue c s.globals ∧ ∀ e, Wrote b e → e = { s.intakeOf e with globals := insertCue c s.globals } :=
    ⟨_, rfl, s.beginTake_mem n, s.beginTake_attn n, h.begun_idle, rfl, fun e he => Wrote.intake_globals he⟩
  rw [← hb]
  have hholds := Wrote.holding hidle c
  have hsame := hwrites _ hholds
  have hlist' : (b.holding c).globals = insertCue c s.globals := (congrArg Device.globals hholds :).trans hlist
  rw [← hlist'] at hsame
  refine ⟨fun a hout => ?_, hlist', hsame, (Device.holding_attn hidle c).trans hattn⟩
  rw [← hslot] at hout
  exact (Device.holding_bytes hidle c a hout).trans (by rw [hmem])

/-- Settles O23: the cue enters its list at its place, its slot shows it, and the re-plan that it may cause plans the soft pulses with it. -/
theorem globalCueHeld : Obligations.GlobalCueHeld := by
  unfold Obligations.GlobalCueHeld
  intro s n row body clamped h hv hfree hrow due low alone
  have hcue : s.globalCue n body clamped =
      { slot := n, tag := s.tagOf n, due := if low then s.firstSoft else due, mark := none, seq := s.seq, revision := 1, grace := Lateness.ofCode (s.latenessOf n),
        interval := s.intervalOf n, left := if s.intervalOf n = 0 then some 1 else if s.countOf n = 0 then none else some (s.countOf n),
        fired := 0, skipped := 0, lastSkip := .none, flags := { clamped := clamped, moved := low, late := false, superseded := false }, body := body,
        lastFired := none, bytes := 0 } := by
    rw [Device.globalCue, Device.placeGlobal_eq]
    simp only [Device.newCue, CueFlags.ofClamped, CueFlags.clear, Bool.false_or]
    rfl
  have hslot : (s.globalCue n body clamped).slot = n := by rw [Device.globalCue, Device.placeGlobal_slot]; rfl
  have hsoft : s.planner.transport ≠ .stopped → s.firstSoft ≤ (s.globalCue n body clamped).due := fun hrun => Device.placeGlobal_above hrun _
  have hheld := h.heldGlobal hfree hslot hsoft
  have hexec := h.exec_accepted hv
  rw [h.effect_global hv hrow] at hexec
  refine ⟨_, _, hexec, hcue, ?_⟩
  generalize s.globalCue n body clamped = c at *
  generalize ((s.beginTake n).entered c).showHeld n = m at *
  have hsoftEq : m.firstSoft = s.firstSoft := Device.firstSoft_congr (congrArg Planner.horizon hheld.planner) (congrArg Planner.opening hheld.planner)
  have hplots := Plots.replanFor hheld.idle c.due
  have hreplans := Replans.replanFor m c.due
  have hkeeps : Keeps 0 (s.beginTake n) (m.replanFor c.due) := hheld.keeps.trans ((Keeps.replanFor m c.due).mono (by omega))
  have hstopped : s.planner.transport = .stopped → m.replanFor c.due = m := fun hs => by
    unfold Device.replanFor
    rw [Device.replan_stopped (by rw [hheld.planner]; exact hs), ite_self]
  have hlow : ∀ x ∈ m.globals, x.due < m.firstSoft → s.planner.transport = .stopped := fun x hx hx' => by
    refine Classical.byContradiction fun hrun => ?_
    rw [hsoftEq] at hx'
    exact absurd (hheld.above hrun x hx) (Nat.not_le.mpr hx')
  have hbytes : ∀ a, Memory.read (m.replanFor c.due).mem a = Memory.read m.mem a := fun a => by
    by_cases hs : s.planner.transport = .stopped
    · rw [hstopped hs]
    · exact hplots.bytes a fun x hx hx' => absurd (hlow x hx hx') hs
  have hreaches : m.reachesTail c.due = s.reachesTail c.due := by simp only [Device.reachesTail, Device.tailPI, hheld.planner]
  refine ⟨?_, by rw [hplots.prot]; exact hheld.prot, Device.taken_of_keeps hkeeps h.idle (.refl _) rfl, ?_, fun hrun => ?_, hreplans.horizon.trans (congrArg Planner.horizon hheld.planner),
    fun k hk x hx hle => ?_, fun ha => ?_, fun ha hr => ?_, fun hr hrun hopening hlatch => ?_⟩
  · have hkept : m.SlotKept (m.replanFor c.due) c.slot := ⟨fun a _ _ => hbytes a, by rw [hplots.prot]; exact id⟩
    have hs := hheld.shows
    exact ⟨(SameSlot.slotState hkept.slot).trans hs.state, (hkept.slot.field 48 1).trans hs.reason, (hkept.slot.field 49 1).trans hs.flags,
      (hkept.slot.field 50 2).trans hs.revision, (hkept.slot.field 52 4).trans hs.firePI, (hkept.slot.field 56 4).trans hs.fireTime,
      (hkept.slot.field 60 2).trans hs.fired, (hkept.slot.field 62 2).trans hs.aux⟩
  · by_cases hs : s.planner.transport = .stopped
    · rw [hstopped hs]
      exact ⟨c.flags, hheld.mem⟩
    · obtain ⟨y, hy, hshift⟩ := hplots.stayed c hheld.mem
      have hsame := hshift.same
      rw [hshift.due (by rw [hsoftEq]; exact hsoft hs)] at hsame
      exact ⟨y.flags, by rw [← hsame]; exact hy⟩
  · have habove := (hplots.above (by rw [hsoftEq]; exact hheld.above hrun)).1
    rw [hsoftEq] at habove
    exact habove
  · rw [← hheld.planner] at hk hx
    exact hreplans.below hk x hx hle
  · intro a hout
    exact (hbytes a).trans ((hheld.alone ha).1 a hout)
  · have hstill : m.replanFor c.due = m := if_neg (by rw [hreaches, hr]; decide)
    rw [hstill]
    exact (hheld.alone ha).2
  · have hreplan : m.replanFor c.due = m.replan := if_pos (by rw [hreaches]; exact hr)
    rw [hreplan]
    exact Device.replan_takesEffect hheld.planner hrun hopening hlatch hheld.mem (hsoft hrun)

end Sys2Proof.Machine
end

section
/-! PROOFS. The take of an AMEND (R106, R107): its refusals, and what it makes of a port cue and of a global cue. -/
namespace Sys2Proof.Machine

/-! ## The checks (R106) -/

theorem Device.beginTake_amendRefusal (d : Device) (n : Nat) (target : Option (Place × Cue)) : (d.beginTake n).amendRefusal n target = d.amendRefusal n target := by
  have hsame := SameChecked.beginTake d n n
  have hrun : (d.beginTake n).runUnderWay = d.runUnderWay := by simp only [Device.runUnderWay, Device.beginTake_planner]
  unfold Device.amendRefusal
  rw [hsame.field 18 2, hsame.field 22 2, hsame.field 20 1, hrun]

/-- The effect of the take. -/
theorem State.NextTake.effect_amend {s : State} {n m : Nat} (hm : m = s.field n 16 2) : TakeRow.amend.effect n s.seq (s.beginTake n) =
    match s.amendRefusal n (s.heldAt m) with
    | some r => (s.beginTake n).refuse n r
    | none => ((s.beginTake n).amendTarget n).finishSlot n stDone (s.takeResult .none false 0) := by
  have hsame := SameChecked.beginTake s.toDevice n n
  show Device.takeAmend n s.seq (s.beginTake n) = _
  unfold Device.takeAmend
  rw [hsame.field 16 2, ← hm, Device.heldAt_beginTake, Device.beginTake_amendRefusal, Device.beginTake_takeResult]
  rfl

/-- R106: the target of an AMEND that is not refused. -/
def Device.Amends (d : Device) (n : Nat) (c : Cue) : Prop :=
  (d.field n 18 2 = 0 ∨ d.field n 18 2 = c.revision) ∧ (d.field n 22 2 = 0xFFFF ∨ c.interval ≠ 0 ∨ d.field n 22 2 = 0)

theorem Device.amendRefusal_fits {d : Device} {n : Nat} {place : Place} {c : Cue} (hplace : ∀ p, place ≠ .flight p) (h : d.Amends n c) :
    d.amendRefusal n (some (place, c)) = if place ≠ .global ∧ d.field n 20 1 = 0 ∧ d.runUnderWay = false then some .wrongTransport else none := by
  obtain ⟨hrevision, hcount⟩ := h
  have hstale : ¬ (d.field n 18 2 ≠ 0 ∧ d.field n 18 2 ≠ c.revision) := fun h => hrevision.elim h.1 h.2
  have hfield : ¬ (d.field n 22 2 ≠ 0xFFFF ∧ c.interval = 0 ∧ d.field n 22 2 ≠ 0) := fun ⟨hkept, honce, hmore⟩ =>
    hcount.elim hkept fun h => h.elim (fun hrepeats => hrepeats honce) hmore
  unfold Device.amendRefusal
  cases place with
  | flight p => exact absurd rfl (hplace p)
  | global => simp only [if_neg hstale, if_neg hfield]
  | list p => simp only [if_neg hstale, if_neg hfield]

theorem Device.amendRefusal_stale {d : Device} {n : Nat} {place : Place} {c : Cue} (hplace : ∀ p, place ≠ .flight p) (h : d.field n 18 2 ≠ 0 ∧ d.field n 18 2 ≠ c.revision) :
    d.amendRefusal n (some (place, c)) = some .stale := by
  unfold Device.amendRefusal
  cases place with
  | flight p => exact absurd rfl (hplace p)
  | global => exact if_pos h
  | list p => exact if_pos h

theorem Device.amendRefusal_badField {d : Device} {n : Nat} {place : Place} {c : Cue} (hplace : ∀ p, place ≠ .flight p)
    (hrevision : d.field n 18 2 = 0 ∨ d.field n 18 2 = c.revision) (h : d.field n 22 2 ≠ 0xFFFF ∧ c.interval = 0 ∧ d.field n 22 2 ≠ 0) :
    d.amendRefusal n (some (place, c)) = some .badField := by
  have hstale : ¬ (d.field n 18 2 ≠ 0 ∧ d.field n 18 2 ≠ c.revision) := fun h => hrevision.elim h.1 h.2
  unfold Device.amendRefusal
  cases place with
  | flight p => exact absurd rfl (hplace p)
  | global => exact (if_neg hstale).trans (if_pos h)
  | list p => exact (if_neg hstale).trans (if_pos h)

theorem Device.runUnderWay_false_iff {d : Device} : d.runUnderWay = false ↔ d.planner.transport = .stopped := by
  rw [← Bool.not_eq_true, Device.runUnderWay_iff, Classical.not_not]

/-! ## A port cue (R107) -/

section
variable {s : State} {n : Nat} {p : PortIx} {c x : Cue}

theorem Device.beginTake_amendPort {d : Device} (hx : x = c.amended (d.resolve (d.field n 20 1) (d.field n 24 4) (d.refPoint p)) (d.markAt p) (d.field n 22 2)) :
    (d.beginTake n).amendPort n p c = ((d.beginTake n).unlisted p c.slot).judge p x := by
  have hsame := SameChecked.beginTake d n n
  have hout := Device.SameOutlook.beginTake d n p
  unfold Device.amendPort
  rw [hsame.field 20 1, hsame.field 24 4, hsame.field 22 2, hout.resolve, hout.refPoint, hout.markAt, ← hx]
  rfl

theorem Device.beginTake_unlisted_outlook (d : Device) (n m : Nat) (p : PortIx) : d.SameOutlook ((d.beginTake n).unlisted p m) p := by
  have a := Device.SameOutlook.beginTake d n p
  have b := Device.SameOutlook.unlisted (d.beginTake n) p m
  exact ⟨b.planner.trans a.planner, b.state.trans a.state, b.cursor.trans a.cursor, b.join.trans a.join⟩

end

/-- Two endings in one take raise cause FINISHED once. -/
theorem or_finished_twice (a : BitVec 6) : a ||| 1 ||| 1 = a ||| 1 := by
  rw [BitVec.or_assoc, BitVec.or_self]

/-- The record of one port has changed since a take began, and then slots have been written: the rest is as intake leaves it. -/
theorem Wrote.intake_ports {d b e : Device} {n : Nat} {v : Vector Port 24} (hb : b = { d.beginTake n with ports := v }) (h : Wrote b e) :
    e = { d.intakeOf e with ports := e.ports } := by
  have hports : e.ports = b.ports := (congrArg Device.ports h :)
  have hframe : e = { d.intakeOf e with ports := v } := by
    rw [hb] at h
    exact h
  rw [hports, hb]
  exact hframe

/-! ## What the amended port cue becomes -/

section
variable {s : State} {n m : Nat} {p : PortIx} {c x : Cue} (h : s.NextTake .amend n) (hv : s.validate n = none) (hm : m = s.field n 16 2)
  (hat : s.heldAt m = some (.list p, c)) (hne : m ≠ n) (hfits : s.Amends n c)
  (hx : x = c.amended (s.resolve (s.field n 20 1) (s.field n 24 4) (s.refPoint p)) (s.markAt p) (s.field n 22 2))

section
include hm hat hfits hx

theorem State.NextTake.effect_amendPort (hnow : s.planner.transport = .stopped → s.field n 20 1 ≠ 0) :
    TakeRow.amend.effect n s.seq (s.beginTake n) = (((s.beginTake n).unlisted p m).judge p x).finishSlot n stDone (s.takeResult .none false 0) := by
  have hslot : c.slot = m := (Device.heldAt_stands hat).2
  have hnone : s.amendRefusal n (s.heldAt m) = none := by
    rw [hat, Device.amendRefusal_fits (fun q => Place.noConfusion) hfits]
    exact if_neg fun ⟨_, hzero, hstopped⟩ => hnow (Device.runUnderWay_false_iff.mp hstopped) hzero
  rw [State.NextTake.effect_amend hm, hnone, ← hslot, ← Device.beginTake_amendPort hx]
  dsimp only
  unfold Device.amendTarget
  rw [(SameChecked.beginTake s.toDevice n n).field 16 2, ← hm, Device.heldAt_beginTake, hat]

end

theorem Device.unlisted_frame (d : Device) (n : Nat) (p : PortIx) (m : Nat) :
    (d.beginTake n).unlisted p m = { d.beginTake n with ports := ((d.beginTake n).unlisted p m).ports } := rfl

include h hv hm hat hne hfits hx

/-- The cue stands at its new place. -/
theorem State.NextTake.amends_list (hnow : s.planner.transport = .stopped → s.field n 20 1 ≠ 0) (hstays : s.planner.transport = .stopped ∨ s.verdict p x = none) :
    ∃ d : Device, exec .amend s = .next { s with toDevice := d } ∧ d.Shows n stDone (s.takeResult .none false 0) ∧ s.Taken d ∧
      (d.port p).cues = insertCue x (dropCue m (s.port p).cues) ∧ d.ShowsProgress m x.revision x.due x.fired x.aux ∧ d.slotState m = s.slotState m ∧
      d.attn = s.attn ||| 1 ∧ d = { s.intakeOf d with ports := d.ports } ∧ ∀ q, q ≠ p → d.port q = s.port q := by
  have hslot : x.slot = m := by rw [hx]; exact (Device.heldAt_stands hat).2
  have hout := s.beginTake_unlisted_outlook n m p
  have hjudge : ((s.beginTake n).unlisted p m).judge p x = (((s.beginTake n).unlisted p m).listed p x).writeProgress x x.due :=
    Device.judge_enters (hstays.imp (fun hs => (congrArg Planner.transport hout.planner).trans hs) fun hs => (hout.verdict x).trans hs)
  have heffect := State.NextTake.effect_amendPort hm hat hfits hx hnow
  rw [hjudge] at heffect
  obtain ⟨b, hb, hbidle, hbmem, hbattn, hbport, hbother, hbframe, hbkeeps⟩ : ∃ b : Device, b = ((s.beginTake n).unlisted p m).listed p x ∧ b.arbiter = [] ∧ b.mem = s.mem ∧
      b.attn = s.attn ∧ (b.port p).cues = insertCue x (dropCue m (s.port p).cues) ∧ (∀ q, q ≠ p → b.port q = s.port q) ∧ b = { s.beginTake n with ports := b.ports } ∧
      Keeps 0 (s.beginTake n) b := by
    refine ⟨_, rfl, h.begun_idle, s.beginTake_mem n, s.beginTake_attn n, ?_, fun q hq => ?_, rfl, (Keeps.modPort _ p _).trans (Keeps.modPort _ p _)⟩
    · rw [Device.listed_port, if_pos rfl, Device.unlisted_port, Device.beginTake_port]
    · rw [Device.listed_port, if_neg hq, Device.unlisted, Device.port_modPort_ne _ _ hq, Device.beginTake_port]
  rw [← hb] at heffect
  have hwrote := Wrote.writeProgress hbidle x x.due
  have hshows := Device.writeProgress_shows hbidle (by rw [Device.MemOk, hbmem]; exact h.mem) x x.due
  have hstate := (Device.writeProgress_reads hbidle (by rw [Device.MemOk, hbmem]; exact h.mem) x x.due).2
  rw [hslot] at hshows hstate
  obtain ⟨d, hexec, hdone, htaken, hwrote', hattn, hbytes, hprot⟩ := h.shown hv heffect (by decide) (hbkeeps.trans (Keeps.writeProgress b x x.due))
  have hall := hwrote.trans hwrote'
  have hkept := Device.SlotKept.of_ended hbytes hprot h.slot hne
  have hslotState : b.slotState m = s.slotState m := by simp only [Device.slotState, Device.peek, hbmem]
  have hports : ∀ q, d.port q = b.port q := fun q => (congrArg (fun y : Device => y.port q) hall :)
  have hattn' : (b.writeProgress x x.due).attn = b.attn := by
    rw [Device.writeProgress_quiet hbidle]
    rfl
  refine ⟨d, hexec, hdone, htaken, by rw [hports]; exact hbport, hshows.kept hkept, (SameSlot.slotState hkept.slot).trans (hstate.trans hslotState),
    by rw [hattn, hattn', hbattn], Wrote.intake_ports hbframe hall, fun q hq => (hports q).trans (hbother q hq)⟩

/-- The cue is late on its only attempt, and ends. -/
theorem State.NextTake.amends_missed (hrun : s.planner.transport ≠ .stopped) {r : Reason} (hverdict : s.verdict p x = some r)
    (hleft : x.left = some 1) (hlast : c.lastFired = none) :
    ∃ d : Device, exec .amend s = .next { s with toDevice := d } ∧ d.Shows n stDone (s.takeResult .none false 0) ∧ s.Taken d ∧
      (d.port p).cues = dropCue m (s.port p).cues ∧ d.slotState m = stMissed ∧ d.field m 48 1 = r.code ∧ d.field m 52 4 = x.due % 4294967296 ∧ m ∉ d.prot ∧
      d.attn = s.attn ||| 1 ∧ d = { s.intakeOf d with ports := d.ports } ∧ ∀ q, q ≠ p → d.port q = s.port q := by
  have hslot : x.slot = m := by rw [hx]; exact (Device.heldAt_stands hat).2
  have hlast' : (x.afterSkip r).lastFired = none := by rw [hx]; exact hlast
  have hmslot : m < 512 := by
    have hkind : s.kindOf n = 0x21 := h.kind rfl
    have hpayload := (Device.passes_of_validate hv).payload
    rw [Device.badPayload, hkind] at hpayload
    have hbad : s.badAmend n = false := hpayload
    simp only [Device.badAmend, Bool.or_eq_false_iff, decide_eq_false_iff_not] at hbad
    omega
  have hout := s.beginTake_unlisted_outlook n m p
  have hjudge : ((s.beginTake n).unlisted p m).judge p x = ((s.beginTake n).unlisted p m).endAttempts (x.afterSkip r) := by
    rw [Device.judge_skips (by rw [hout.planner]; exact hrun) ((hout.verdict x).trans hverdict), Device.settleAttempt_spent _ _ (Cue.afterSkip_spent hleft r)]
  have heffect := State.NextTake.effect_amendPort hm hat hfits hx (fun hs => absurd hs hrun)
  rw [hjudge] at heffect
  obtain ⟨b, hb, hbidle, hbmem, hbattn, hbport, hbother, hbframe, hbkeeps⟩ : ∃ b : Device, b = (s.beginTake n).unlisted p m ∧ b.arbiter = [] ∧ b.MemOk ∧
      b.attn = s.attn ∧ (b.port p).cues = dropCue m (s.port p).cues ∧ (∀ q, q ≠ p → b.port q = s.port q) ∧ b = { s.beginTake n with ports := b.ports } ∧
      Keeps 0 (s.beginTake n) b := by
    refine ⟨_, rfl, h.begun_idle, h.begun_mem, s.beginTake_attn n, ?_, fun q hq => ?_, rfl, Keeps.modPort _ p _⟩
    · rw [Device.unlisted_port, Device.beginTake_port]
    · rw [Device.unlisted, Device.port_modPort_ne _ _ hq, Device.beginTake_port]
  rw [← hb] at heffect
  have hshows := Device.endAttempts_shows_missed (c := x.afterSkip r) hbidle hbmem (by rw [show (x.afterSkip r).slot = m from hslot]; exact hmslot) hlast'
  have hwrote : Wrote b (b.endAttempts (x.afterSkip r)) := by
    rw [Device.endAttempts_missed _ hlast']
    exact Wrote.finishSlot hbidle _ _ _
  have hfinished : (b.endAttempts (x.afterSkip r)).attn = b.attn ||| 1 := by
    rw [Device.endAttempts_missed _ hlast']
    exact Device.finishSlot_attn hbidle _ _ _
  rw [show (x.afterSkip r).slot = m from hslot] at hshows
  obtain ⟨d, hexec, hdone, htaken, hwrote', hattn, hbytes, hprot⟩ := h.shown hv heffect (by decide) (hbkeeps.trans (Keeps.endAttempts b (x.afterSkip r)))
  have hall := hwrote.trans hwrote'
  have hkept := Device.SlotKept.of_ended hbytes hprot h.slot hne
  have hports : ∀ q, d.port q = b.port q := fun q => (congrArg (fun y : Device => y.port q) hall :)
  exact ⟨d, hexec, hdone, htaken, by rw [hports]; exact hbport, (SameSlot.slotState hkept.slot).trans hshows.state, (hkept.slot.field 48 1).trans hshows.reason,
    (hkept.slot.field 52 4).trans hshows.firePI, fun hin => hshows.unprotected (hkept.prot hin), by rw [hattn, hfinished, hbattn, or_finished_twice],
    Wrote.intake_ports hbframe hall, fun q hq => (hports q).trans (hbother q hq)⟩

end

end Sys2Proof.Machine
end

section
/-! PROOFS. What an AMEND makes of a global cue (R107, R47, R41), and the obligation on AMEND. -/
namespace Sys2Proof.Machine

/-! ## After the re-plan the take's own result is written -/

theorem Device.Replanned.finishSlot {d e : Device} {l : List PlanEntry} (h : d.Replanned e l) (n st : Nat) (r : Result) : d.Replanned (e.finishSlot n st r) l := by
  have hplanner : (e.finishSlot n st r).planner = e.planner := Device.finishSlot_planner _ _ _ _
  have hdue : (e.finishSlot n st r).extendDue = e.extendDue := Device.extendDue_congr hplanner (Device.finishSlot_time _ _ _ _)
    (fun p => by rw [Device.finishSlot_port]) (fun p => by rw [Device.finishSlot_port])
  refine ⟨by rw [hplanner]; exact h.plan, h.some, by rw [hdue]; exact h.limit, ?_⟩
  rw [hplanner]
  exact h.chain

theorem Device.TakesEffect.finishSlot {e : Device} {c : Cue} {l : List PlanEntry} (h : e.TakesEffect c l) (n st : Nat) (r : Result) :
    (e.finishSlot n st r).TakesEffect c l := by
  have hplanner : (e.finishSlot n st r).planner = e.planner := Device.finishSlot_planner _ _ _ _
  have hfollower : (e.finishSlot n st r).follower = e.follower := Device.finishSlot_follower _ _ _ _
  have hsoft : (e.finishSlot n st r).firstSoft = e.firstSoft := Device.firstSoft_congr (congrArg Planner.horizon hplanner) (congrArg Planner.opening hplanner)
  refine ⟨?_, ?_, ?_⟩
  · rw [hfollower]
    exact h.tempo
  · rw [hplanner]
    exact h.stop
  · rw [hplanner, hsoft]
    exact h.meter

/-! ## The amended global cue -/

/-- The device of a take with the target of an AMEND out of the global list. -/
def Device.withoutTarget (d : Device) (n m : Nat) : Device := { d.beginTake n with globals := dropCue m d.globals }

section
variable {s : State} {n m : Nat} {c x : Cue} (h : s.NextTake .amend n) (hm : m = s.field n 16 2)
  (hat : s.heldAt m = some (.global, c)) (hfits : s.Amends n c)
  (hx : x = s.placeGlobal (c.amended (s.resolve (s.field n 20 1) (s.field n 24 4) s.globalRef) none (s.field n 22 2)))

theorem Device.withoutTarget_soft (d : Device) (n m : Nat) : (d.withoutTarget n m).firstSoft = d.firstSoft := by
  have hplanner : (d.withoutTarget n m).planner = d.planner := d.beginTake_planner n
  exact Device.firstSoft_congr (congrArg Planner.horizon hplanner) (congrArg Planner.opening hplanner)

section
include hm hat hfits hx

/-- The effect of the take: the cue is placed anew, with a re-plan if its old or new fire PI reaches into the plan. -/
theorem State.NextTake.effect_amendGlobal : TakeRow.amend.effect n s.seq (s.beginTake n) =
    (if s.reachesTail c.due || s.reachesTail x.due then ((s.withoutTarget n m).entered x).replan else (s.withoutTarget n m).entered x).finishSlot n stDone
      (s.takeResult .none false 0) := by
  have hslot : c.slot = m := (Device.heldAt_stands hat).2
  have hsame := SameChecked.beginTake s.toDevice n n
  have hout := Device.SameOutlook.beginTake s.toDevice n 0
  have hplanner := s.beginTake_planner n
  have hsoft : (s.beginTake n).firstSoft = s.firstSoft := Device.firstSoft_congr (congrArg Planner.horizon hplanner) (congrArg Planner.opening hplanner)
  have hnext : (s.beginTake n).nextFirst = s.nextFirst := by simp only [Device.nextFirst, hplanner]
  have href : (s.beginTake n).globalRef = s.globalRef := by simp only [Device.globalRef, hout.runUnderWay, hsoft, hnext]
  have hplace : ∀ y, (s.beginTake n).placeGlobal y = s.placeGlobal y := fun y => by rw [Device.placeGlobal, Device.placeGlobal, hout.runUnderWay, hsoft]
  have hreaches : ∀ k, (s.beginTake n).reachesTail k = s.reachesTail k := fun k => by simp only [Device.reachesTail, Device.tailPI, hplanner]
  have hnone : s.amendRefusal n (s.heldAt m) = none := by
    rw [hat, Device.amendRefusal_fits (fun q => Place.noConfusion) hfits]
    exact if_neg fun hplaceNe => hplaceNe.1 rfl
  have htarget : (s.beginTake n).amendTarget n = (s.beginTake n).amendGlobal n c := by
    unfold Device.amendTarget
    rw [hsame.field 16 2, ← hm, Device.heldAt_beginTake, hat]
  rw [State.NextTake.effect_amend hm, hnone, htarget]
  unfold Device.amendGlobal
  dsimp only
  rw [hsame.field 20 1, hsame.field 24 4, hsame.field 22 2, hout.resolve, href, hplace, ← hx, hreaches, hreaches, hslot, s.beginTake_globals]
  rfl

end

include h hat hx

/-- The cue in its new place, before the re-plan. -/
theorem State.NextTake.amends_global : (s.withoutTarget n m).EntersGlobal x ((s.withoutTarget n m).entered x) ∧ Keeps 0 (s.beginTake n) ((s.withoutTarget n m).entered x) ∧
    ((s.withoutTarget n m).entered x).slotState m = s.slotState m ∧ ((s.withoutTarget n m).entered x).planner = s.planner ∧ x.slot = m := by
  have hslot : x.slot = m := by
    rw [hx, Device.placeGlobal_slot]
    exact (Device.heldAt_stands hat).2
  have hmem : (s.withoutTarget n m).MemOk := h.begun_mem
  have hplanner : (s.withoutTarget n m).planner = s.planner := s.beginTake_planner n
  have henters := Device.entersGlobal (d := s.withoutTarget n m) (c := x) h.begun_idle hmem
    (fun y hy => by rw [hslot]; exact (mem_dropCue.mp hy).2)
    (fun hrun => by
      rw [Device.withoutTarget_soft, hx]
      rw [hplanner] at hrun
      exact Device.placeGlobal_above hrun _)
  have hkeeps : Keeps 0 (s.beginTake n) (s.withoutTarget n m) := Keeps.ofGlobals
  refine ⟨henters, hkeeps.trans henters.keeps, ?_, henters.planner.trans hplanner, hslot⟩
  have hstate := henters.state
  rw [hslot] at hstate
  refine hstate.trans ?_
  simp only [Device.slotState, Device.peek, show (s.withoutTarget n m).mem = s.mem from s.beginTake_mem n]

end

theorem Device.withoutTarget_attn (d : Device) (n m : Nat) : (d.withoutTarget n m).attn = d.attn := d.beginTake_attn n

/-- What the amended global cue leaves, read before the take's own result is written: a re-plan, if there was one, has moved nothing. -/
structure Device.PlacedAnew (s : Device) (m : Nat) (x : Cue) (b : Device) : Prop where
  mem : ∃ flags, { x with flags := flags } ∈ b.globals
  above : s.planner.transport ≠ .stopped → ∀ y ∈ b.globals, s.firstSoft ≤ y.due
  shows : b.ShowsProgress m x.revision x.due x.fired x.aux
  state : b.slotState m = s.slotState m
  hard : ∀ k, s.planner.horizon = some k → ∀ e ∈ s.planner.plan, e.pi ≤ k → e ∈ b.planner.plan

theorem State.NextTake.placedAnew {s : State} {n m : Nat} {c x : Cue} (h : s.NextTake .amend n) (hat : s.heldAt m = some (.global, c))
    (hx : x = s.placeGlobal (c.amended (s.resolve (s.field n 20 1) (s.field n 24 4) s.globalRef) none (s.field n 22 2))) :
    s.PlacedAnew m x ((s.withoutTarget n m).entered x) ∧ s.PlacedAnew m x ((s.withoutTarget n m).entered x).replan := by
  obtain ⟨henters, -, hstate, hplanner, hslot⟩ := h.amends_global hat hx
  have hsoftEq : (s.withoutTarget n m).firstSoft = s.firstSoft := s.withoutTarget_soft n m
  have habove : s.planner.transport ≠ .stopped → ∀ y ∈ ((s.withoutTarget n m).entered x).globals, s.firstSoft ≤ y.due := fun hrun => by
    rw [← hsoftEq]
    exact henters.above (by rw [show (s.withoutTarget n m).planner = s.planner from s.beginTake_planner n]; exact hrun)
  have hshows := henters.shows
  rw [hslot] at hshows
  have hmember := henters.mem
  have hidle := henters.idle
  generalize (s.withoutTarget n m).entered x = b at *
  have hplaced : s.PlacedAnew m x b := ⟨⟨x.flags, hmember⟩, habove, hshows, hstate, fun k _ e he _ => by rw [hplanner]; exact he⟩
  refine ⟨hplaced, ?_⟩
  by_cases hs : s.planner.transport = .stopped
  · rw [Device.replan_stopped (by rw [hplanner]; exact hs)]
    exact hplaced
  · have hbsoft : b.firstSoft = s.firstSoft := Device.firstSoft_congr (congrArg Planner.horizon hplanner) (congrArg Planner.opening hplanner)
    have hplots := Plots.replan hidle
    obtain ⟨hstill, hbytes⟩ := hplots.above (by rw [hbsoft]; exact habove hs)
    have hkept : b.SlotKept b.replan m := ⟨fun a _ _ => hbytes a, by rw [hplots.prot]; exact id⟩
    refine ⟨?_, fun _ => by rw [← hbsoft]; exact hstill, hshows.kept hkept, (SameSlot.slotState hkept.slot).trans hstate, fun k hk e he hle => ?_⟩
    · obtain ⟨y, hy, hshift⟩ := hplots.stayed x hmember
      have hsame := hshift.same
      rw [hshift.due (by rw [hbsoft]; exact habove hs x hmember)] at hsame
      exact ⟨y.flags, by rw [← hsame]; exact hy⟩
    · rw [← hplanner] at hk he
      exact (Replans.replan b).below hk e he hle

/-- What a take that ends its slot leaves, of the device as it was before its result was written. -/
structure State.EndsTake (s : State) (n st : Nat) (r : Result) (b d : Device) : Prop where
  shows : d.Shows n st r
  taken : s.Taken d
  wrote : Wrote b d
  globals : d.globals = b.globals
  planner : d.planner = b.planner
  attn : d.attn = b.attn ||| 1
  kept : ∀ m, m ≠ n → b.SlotKept d m
  eq : d = b.finishSlot n st r

theorem State.NextTake.endsTake {s : State} {row : TakeRow} {n : Nat} (h : s.NextTake row n) (hv : s.validate n = none) {b : Device} {st : Nat} {r : Result}
    (heffect : row.effect n s.seq (s.beginTake n) = b.finishSlot n st r) (hst : st < 256) (hk : Keeps 0 (s.beginTake n) b) :
    ∃ d : Device, exec row.command s = .next { s with toDevice := d } ∧ s.EndsTake n st r b d := by
  have hidle : b.arbiter = [] := hk.arbiter h.begun_idle
  have hwrote := Wrote.finishSlot hidle n st r
  refine ⟨b.finishSlot n st r, by rw [h.exec_accepted hv, heffect], Device.finishSlot_shows hidle r (hk.mem h.begun_mem) h.slot hst,
    Device.taken_of_keeps hk h.idle hwrote (Device.finishSlot_seq b n st r), hwrote, (congrArg Device.globals hwrote :), Device.finishSlot_planner _ _ _ _,
    Device.finishSlot_attn hidle n st r, fun m hne => Device.SlotKept.finishSlot hidle h.slot hne st r, rfl⟩

/-! ## The obligation -/

theorem Device.writeProgress_attn {d : Device} (h : d.arbiter = []) (c : Cue) (k : Nat) : (d.writeProgress c k).attn = d.attn := by
  rw [Device.writeProgress_quiet h]
  rfl

/-- With nothing to move, the amended cue is all that has changed. -/
theorem Device.enteredAlone {d e : Device} {n m : Nat} {x : Cue} (hidle : (d.beginTake n).arbiter = [])
    (he : e = ({ d.withoutTarget n m with globals := insertCue x (d.withoutTarget n m).globals }).writeProgress x x.due) :
    e.attn = d.attn ∧ Wrote { d.beginTake n with globals := insertCue x (dropCue m d.globals) } e := by
  obtain ⟨b, hb, hbidle, hbattn⟩ : ∃ b : Device, b = { d.beginTake n with globals := insertCue x (dropCue m d.globals) } ∧ b.arbiter = [] ∧ b.attn = d.attn :=
    ⟨_, rfl, hidle, d.beginTake_attn n⟩
  have hsame : ({ d.withoutTarget n m with globals := insertCue x (d.withoutTarget n m).globals } : Device) = b := hb.symm
  rw [hsame] at he
  rw [← hb, he]
  exact ⟨(Device.writeProgress_attn hbidle _ _).trans hbattn, Wrote.writeProgress hbidle _ _⟩

theorem Device.verdict_of_not_late {d : Device} {p : PortIx} {x : Cue} (hrun : d.planner.transport ≠ .stopped)
    (h : ¬ (d.planner.transport ≠ .stopped ∧ x.due < d.refPoint p ∧ ((d.port p).state.joined = true → d.withinGrace x.grace (d.refPoint p - x.due) = false))) :
    d.verdict p x = none := by
  refine Device.verdict_none_iff.mpr ?_
  refine Classical.byContradiction fun hnot => ?_
  rw [not_or, Nat.not_le] at hnot
  refine h ⟨hrun, hnot.1, fun hjoined => ?_⟩
  rw [← Bool.not_eq_true]
  exact fun hgrace => hnot.2 ⟨hjoined, hgrace⟩

/-- Why an AMEND is refused, as the checks find it. -/
theorem Device.amendRefusal_of {d : Device} {n m : Nat} {r : Reason}
    (h : (r = .notHeld ∧ (d.heldAt m = none ∨ ∃ p c, d.heldAt m = some (.flight p, c))) ∨
      (∃ place c, d.heldAt m = some (place, c) ∧ (∀ p, place ≠ .flight p) ∧
        ((r = .stale ∧ d.field n 18 2 ≠ 0 ∧ d.field n 18 2 ≠ c.revision) ∨
          ((d.field n 18 2 = 0 ∨ d.field n 18 2 = c.revision) ∧
            ((r = .badField ∧ d.field n 22 2 ≠ 0xFFFF ∧ c.interval = 0 ∧ d.field n 22 2 ≠ 0) ∨
              ((d.field n 22 2 = 0xFFFF ∨ c.interval ≠ 0 ∨ d.field n 22 2 = 0) ∧ r = .wrongTransport ∧ place ≠ .global ∧ d.field n 20 1 = 0 ∧
                d.planner.transport = .stopped)))))) : d.amendRefusal n (d.heldAt m) = some r := by
  rcases h with ⟨rfl, hnone | ⟨p, c, hflight⟩⟩ | ⟨place, c, hat, hplace, hcheck⟩
  · rw [hnone]
    rfl
  · rw [hflight]
    rfl
  · rw [hat]
    rcases hcheck with ⟨rfl, hstale⟩ | ⟨hrevision, ⟨rfl, hbad⟩ | ⟨hcount, rfl, hnotGlobal, hzero, hstopped⟩⟩
    · exact Device.amendRefusal_stale hplace hstale
    · exact Device.amendRefusal_badField hplace hrevision hbad
    · rw [Device.amendRefusal_fits hplace ⟨hrevision, hcount⟩]
      exact if_pos ⟨hnotGlobal, hzero, Device.runUnderWay_false_iff.mpr hstopped⟩

/-- Settles O31: the checks in their order, the judgment of a port cue, the new place of a global one. -/
theorem amend : Obligations.Amend := by
  unfold Obligations.Amend
  intro s n m h hv hm left revision fits done
  refine ⟨fun r hr => ?_, fun p c hat hne hfits => ?_, fun c hat hne hfits => ?_⟩
  · have hexec := h.exec_accepted hv
    rw [State.NextTake.effect_amend hm, Device.amendRefusal_of hr] at hexec
    exact ⟨_, hexec, h.refused r⟩
  · intro x late
    have hx : x = c.amended (s.resolve (s.field n 20 1) (s.field n 24 4) (s.refPoint p)) (s.markAt p) (s.field n 22 2) := rfl
    refine ⟨fun hnot hnow => ?_, fun hlate hinterval hleft hlast => ?_⟩
    · have hstays : s.planner.transport = .stopped ∨ s.verdict p x = none := by
        by_cases hs : s.planner.transport = .stopped
        · exact .inl hs
        · exact .inr (Device.verdict_of_not_late hs hnot)
      obtain ⟨d, hexec, hdone, htaken, hcues, hshows, hstate, hattn, hframe, hothers⟩ := h.amends_list hv hm hat hne hfits hx hnow hstays
      exact ⟨d, hexec, ⟨hdone, htaken⟩, hcues, hshows.revision, hshows.firePI, hstate, hattn, hframe, hothers⟩
    · obtain ⟨hrun, hbelow, hgrace⟩ := hlate
      have hverdict := Device.verdict_late (c := x) hbelow hgrace
      obtain ⟨d, hexec, hdone, htaken, hcues, hstate, hreason, hfire, hfree, hattn, hframe, hothers⟩ :=
        h.amends_missed hv hm hat hne hfits hx hrun hverdict hleft hlast
      refine ⟨d, hexec, ⟨hdone, htaken⟩, hcues, hstate, ?_, hfire, hfree, hattn, hframe, hothers⟩
      rw [hreason]
      split <;> rfl
  · intro due low x alone
    have hx : x = s.placeGlobal (c.amended (s.resolve (s.field n 20 1) (s.field n 24 4) s.globalRef) none (s.field n 22 2)) :=
      (Device.placeGlobal_eq s.toDevice (c.amended (s.resolve (s.field n 20 1) (s.field n 24 4) s.globalRef) none (s.field n 22 2))).symm
    clear_value x
    obtain ⟨henters, hkeeps, -, hplanner, hslot⟩ := h.amends_global hat hx
    obtain ⟨hplaced, hreplaced⟩ := h.placedAnew hat hx
    have heffect := State.NextTake.effect_amendGlobal hm hat hfits hx
    have halone := henters.alone
    have hbidle := henters.idle
    have hbmem := henters.mem
    have habove := hplaced.above
    have hplaced' : s.PlacedAnew m x (if s.reachesTail c.due || s.reachesTail x.due then ((s.withoutTarget n m).entered x).replan else (s.withoutTarget n m).entered x) := by
      split
      · exact hreplaced
      · exact hplaced
    have hkeeps' : Keeps 0 (s.beginTake n) (if s.reachesTail c.due || s.reachesTail x.due then ((s.withoutTarget n m).entered x).replan
        else (s.withoutTarget n m).entered x) := .ite (hkeeps.trans ((Keeps.replan _).mono (by omega))) hkeeps
    generalize he : (s.withoutTarget n m).entered x = e at *
    generalize hb : (if s.reachesTail c.due || s.reachesTail x.due then e.replan else e) = b at *
    obtain ⟨d, hexec, hends⟩ := h.endsTake hv heffect (by decide) hkeeps'
    have hkept := hends.kept m hne
    obtain ⟨hmember, hsoft, hshows, hstate, hhard⟩ := hplaced'
    have hshown := hshows.kept hkept
    refine ⟨d, hexec, ⟨hends.shows, hends.taken⟩, by rw [hends.globals]; exact hmember, by rw [hends.globals]; exact hsoft, hshown.revision, hshown.firePI,
      (SameSlot.slotState hkept.slot).trans hstate, by rw [hends.planner]; exact hhard, fun ha hold hnew => ?_, fun hreach hrun hopening hlatch => ?_⟩
    · have hstill : e = b := by
        rw [← hb, hold, hnew]
        rfl
      rw [← hstill] at hends
      have heq := halone (by rw [show (s.withoutTarget n m).planner = s.planner from s.beginTake_planner n, Device.withoutTarget_soft]; exact ha)
      have hentered := Device.enteredAlone h.begun_idle heq
      have hall := hentered.2.trans hends.wrote
      have hlist : d.globals = insertCue x (dropCue m s.globals) := (congrArg Device.globals hall :)
      refine ⟨hlist, ?_, by rw [hends.attn, hentered.1]⟩
      rw [hlist]
      exact Wrote.intake_globals hall
    · have hreplans : e.replan = b := by
        rw [← hb, if_pos ((Bool.or_eq_true _ _).mpr hreach)]
      rw [← hreplans] at hends
      obtain ⟨l, hreplanned, heffects⟩ := Device.replan_takesEffect hplanner hrun hopening hlatch hbmem (habove hrun x hbmem)
      rw [hends.eq]
      exact ⟨l, hreplanned.finishSlot _ _ _, heffects.finishSlot _ _ _⟩

end Sys2Proof.Machine
end

section
/-! PROOFS. The beginning of a run (R10 to R12, R38, R96, R122): its first entry, the planner, and every port's cursor; and the takes START and CONTINUE. -/
namespace Sys2Proof.Machine

/-! ## The ports -/

section
variable (p : PortIx)

theorem Reforms.reform (d : Device) (o : Opening) : Reforms p d (d.reform p o) := by
  unfold Device.reform
  split
  · exact .ite (.ite .modPort (.refl d)) (.takeForm p d _)
  · exact .takeForm p d _
  · exact .refl d

/-- R122: what beginning a run leaves of a port's record. -/
theorem Device.beginPort_begins (o : Opening) (d : Device) : ∃ (b : Device) (meter origin : Nat), b = d.modPort p (·.begins o meter origin) ∧ Reforms p b (Device.beginPort o d p) := by
  unfold Device.beginPort
  dsimp only
  generalize (match d.entryAt o.first with | some e => (e.snap.meter, e.snap.origin) | none => (o.meter, o.origin)) = found
  split
  · exact ⟨_, _, _, rfl, .takeForm p _ _⟩
  · exact ⟨_, _, _, rfl, .reform p _ _⟩
  · exact ⟨_, _, _, rfl, .reform p _ _⟩
  · exact ⟨_, _, _, rfl, .refl _⟩

theorem Local.beginPort (o : Opening) (d : Device) : Local p d (Device.beginPort o d p) := by
  obtain ⟨b, meter, origin, hb, hreforms⟩ := Device.beginPort_begins p o d
  rw [hb] at hreforms
  exact (Local.modPort p d _).trans hreforms.toLocal

theorem Device.beginPort_port (o : Opening) (d : Device) : ((Device.beginPort o d p).port p).cursor = o.first ∧ ((Device.beginPort o d p).port p).state = (d.port p).state ∧
    ((d.port p).state.counts = true → ((Device.beginPort o d p).port p).join = some o.first) := by
  obtain ⟨b, meter, origin, hb, hreforms⟩ := Device.beginPort_begins p o d
  have hport : b.port p = (d.port p).begins o meter origin := by rw [hb, Device.port_modPort_same]
  rw [hreforms.form, hport]
  exact ⟨rfl, rfl, fun h => if_pos h⟩

end

/-- R96: the judgment of the waiting cues leaves the timeline, and of each port all but its list. -/
theorem Device.judgeAll_frame (d : Device) (k : Nat) : (d.judgeAll k).planner = d.planner ∧
    ∀ p, (d.judgeAll k).port p = { d.port p with cues := ((d.judgeAll k).port p).cues } := by
  refine foldl_invariant (P := fun e => e.planner = d.planner ∧ ∀ p, e.port p = { d.port p with cues := (e.port p).cues }) (fun e n he => ?_) _ d ⟨rfl, fun _ => rfl⟩
  refine foldl_invariant (P := fun e => e.planner = d.planner ∧ ∀ p, e.port p = { d.port p with cues := (e.port p).cues }) (fun e q he => ?_) _ e he
  obtain ⟨hplanner, hports⟩ := he
  have hrecues := Recues.judgeAtStart (p := q) e k n
  refine ⟨hrecues.planner.trans hplanner, fun p => ?_⟩
  by_cases hp : p = q
  · subst hp
    have hat := hrecues.port
    rw [hports p] at hat
    exact hat
  · rw [hrecues.ports p hp]
    exact hports p

/-! ## The run -/

/-- What beginning a run with the opening o leaves; its first entry e is built on the device g. -/
structure Device.RunBegun (d f : Device) (o : Opening) (e : PlanEntry) (g : Device) : Prop where
  head : f.planner.plan.head? = some e
  entry : e = g.buildEntry (PlanBase.opened o)
  pending : g.planner.pendPeriod = none ∧ g.planner.pendSpread = none ∧ g.planner.pendBalance = none
  cues : ∀ y ∈ g.globals, ∃ x ∈ d.globals, y.body = x.body
  runs : f.planner.transport ≠ .stopped
  planner : f.planner = { d.planner.opened o with transport := f.planner.transport, latched := f.planner.latched, plan := f.planner.plan }
  cause : f.attn.getLsbD 5 = true
  writer : f.writer.isSome = true
  port : ∀ p, (f.port p).cursor = o.first ∧ (f.port p).state = (d.port p).state ∧ ((d.port p).state.counts = true → (f.port p).join = some o.first)

theorem Device.setTransport_globals (d : Device) (t : Transport) : (d.setTransport t).globals = d.globals := (congrArg Device.globals (d.setTransport_eq t) :)

theorem Device.setTransport_port (d : Device) (t : Transport) (p : PortIx) : (d.setTransport t).port p = d.port p :=
  (congrArg (fun x : Device => x.port p) (d.setTransport_eq t) :)

theorem Device.extend_head {d : Device} {e : PlanEntry} (h : d.planner.plan = [e]) : d.extend.planner.plan.head? = some e := by
  by_cases hdue : d.extendDue = true
  · obtain ⟨l, happ, -, -⟩ := Device.extend_appended hdue
    rw [happ.plan, h]
    rfl
  · rw [Device.extend_idle (by simpa using hdue), h]
    rfl

/-- The device with the timeline opened. -/
def Device.opening (d : Device) (o : Opening) : Device := ({ d with planner := d.planner.opened o }).setTransport .running

/-- The device as the first pulse of a run is planned. -/
def Device.beginning (d : Device) (o : Opening) : Device := (d.opening o).moveGlobals

theorem Device.beginRun_eq (d : Device) (o : Opening) : d.beginRun o = (((d.beginning o).planPulse.extend).eachPort (Device.beginPort o)).judgeAll o.first := rfl

theorem Device.beginRun_begun {d : Device} (hstopped : d.planner.transport = .stopped) (o : Opening) :
    d.RunBegun (d.beginRun o) o ((d.beginning o).buildEntry (PlanBase.opened o)) (d.beginning o) := by
  obtain ⟨hcause, hwriter⟩ := Device.setTransport_changed (d := { d with planner := d.planner.opened o }) (t := .running)
    (by rw [show ({ d with planner := d.planner.opened o } : Device).planner.transport = .stopped from hstopped]; exact Transport.noConfusion)
  have hopenedPlanner : (d.opening o).planner = { d.planner.opened o with transport := .running } := Device.setTransport_planner _ _
  have hopenedPort : ∀ p, (d.opening o).port p = d.port p := Device.setTransport_port _ _
  have hopenedGlobals : (d.opening o).globals = d.globals := Device.setTransport_globals _ _
  have hbeginKeeps : Keeps 0 (d.opening o) (d.beginning o) := Keeps.moveGlobals _
  have hbeginSteady : Steady (d.opening o) (d.beginning o) := (Replans.moveGlobals _).toSteady
  have hplanner : (d.beginning o).planner = { d.planner.opened o with transport := .running } := (Device.moveGlobals_planner _).trans hopenedPlanner
  have hport : ∀ p, (d.beginning o).port p = d.port p := fun p => (Device.moveGlobals_port _ p).trans (hopenedPort p)
  have hcues : ∀ y ∈ (d.beginning o).globals, ∃ x ∈ d.globals, y.body = x.body := fun y hy => by
    obtain ⟨x, hx, rfl⟩ := Device.moveGlobals_mem.mp hy
    rw [hopenedGlobals] at hx
    exact ⟨x, hx, (congrArg Cue.body (Cue.Shifted.movedTo _ x).same :)⟩
  have hcause' := Device.getLsbD_attn_of_keeps hbeginKeeps hcause
  have hwriter' := hbeginSteady.writer hwriter
  rw [Device.beginRun_eq]
  generalize d.beginning o = g at *
  have hbase : g.planBase = some (PlanBase.opened o) := by
    unfold Device.planBase
    rw [hplanner]
    rfl
  have hplan : g.planPulse.planner.plan = [g.buildEntry (PlanBase.opened o)] := by
    rw [(Device.planPulse_some hbase).1, hplanner]
    rfl
  have hreplans : Replans g g.planPulse.extend := (Replans.planPulse g).trans (.extend _)
  have hkeeps : Keeps 0 g g.planPulse.extend := ((Keeps.planPulse g).mono (by omega)).trans ((Keeps.extend _).mono (by omega))
  have hhead := Device.extend_head hplan
  generalize g.planPulse.extend = m at *
  have hported := Ported.eachPort (fun p d => Local.beginPort p o d) m
  have hportKeeps : Keeps 0 m (m.eachPort (Device.beginPort o)) := .eachPort (Keeps.beginPort o) m
  have hat := Device.eachPort_at (fun p d => Local.beginPort p o d) m
  generalize m.eachPort (Device.beginPort o) = w at *
  obtain ⟨hjudgedPlanner, hjudgedPort⟩ := w.judgeAll_frame o.first
  have hjudgedKeeps : Keeps 0 w (w.judgeAll o.first) := Keeps.judgeAll w _
  have hjudgedSteady := Steady.judgeAll w o.first
  generalize w.judgeAll o.first = f at *
  have hfinal : f.planner = m.planner := hjudgedPlanner.trans hported.planner
  refine ⟨by rw [hfinal]; exact hhead, rfl, by rw [hplanner]; exact ⟨rfl, rfl, rfl⟩, hcues, ?_, ?_, ?_, ?_, fun p => ?_⟩
  · rw [hfinal]
    exact hreplans.runs (by rw [hplanner]; exact Transport.noConfusion)
  · have hm := hreplans.planner
    rw [hplanner] at hm
    rw [hfinal]
    exact hm
  · exact Device.getLsbD_attn_of_keeps ((hkeeps.trans hportKeeps).trans hjudgedKeeps) hcause'
  · exact hjudgedSteady.writer (hported.writer (hreplans.toSteady.writer hwriter'))
  · obtain ⟨before, after, hbefore, -, hafter⟩ := hat p
    obtain ⟨hcursor, hstate, hjoin⟩ := Device.beginPort_port p o (before.foldl (Device.beginPort o) m)
    have hmstate : (m.port p).state = (d.port p).state := by rw [hreplans.ports p, hport p]
    rw [hbefore, hmstate] at hstate hjoin
    rw [hjudgedPort p, hafter]
    exact ⟨hcursor, hstate, hjoin⟩

/-! ## The first entry -/

theorem PlanBase.withPending_none {b : PlanBase} {pl : Planner} (h : pl.pendPeriod = none ∧ pl.pendSpread = none ∧ pl.pendBalance = none) (k : Nat) :
    b.withPending pl k = b := by
  obtain ⟨hperiod, hspread, hbalance⟩ := h
  unfold PlanBase.withPending
  simp only [hperiod, hspread, hbalance, ite_self]

section
variable {d f g : Device} {o : Opening} {e : PlanEntry} (h : d.RunBegun f o e g)
include h

theorem Device.RunBegun.instant : e.instant = o.instant ∧ e.period = o.period := by
  rw [h.entry]
  simp only [Device.buildEntry, PlanBase.withPending_none h.pending]
  exact ⟨rfl, rfl⟩

theorem Device.RunBegun.pi : e.pi = o.first := by
  rw [h.entry, Device.buildEntry_pi]
  rfl

theorem Device.RunBegun.beatStart : e.beatStart = isBeatStart o.first := by
  rw [h.entry, Device.buildEntry_beatStart]
  rfl

/-- Without a METER cue the entry keeps the meter and the grid origin of the opening. -/
theorem Device.RunBegun.meter (hnone : ∀ c ∈ d.globals, c.isMeter = false) : e.snap.meter = o.meter ∧ e.snap.origin = o.origin := by
  have hmeters : g.metersAt (PlanBase.opened o) = [] := by
    refine Device.metersAt_nil (.inr (List.filter_eq_nil_iff.mpr fun y hy => ?_))
    obtain ⟨x, hx, hbody⟩ := h.cues y hy
    have hy' : y.isMeter = false := by
      have hx' := hnone x hx
      unfold Cue.isMeter at hx' ⊢
      rw [hbody]
      exact hx'
    rw [hy']
    simp
  rw [h.entry, Device.buildEntry_meter, Device.buildEntry_origin, hmeters]
  exact ⟨rfl, rfl⟩

end

end Sys2Proof.Machine
end

section
/-! PROOFS. START and CONTINUE (R10 to R12, R3, R36, R38, R122): the take that begins a run. -/
namespace Sys2Proof.Machine

/-- The action of a take that begins a run (Table 5-3). -/
def TakeRow.action : TakeRow → Option Nat
  | .transportStart => some 0
  | .transportContinue => some 1
  | _ => none

theorem Device.takeRow_action {d : Device} {n a : Nat} (h : (d.takeRow n).action = some a) : d.field n 16 1 = a := by
  unfold Device.takeRow at h
  split at h
  case h_3 =>
    split at h
    · next hfield => exact hfield.trans (Option.some.inj h)
    · next hfield => exact hfield.trans (Option.some.inj h)
    · exact absurd h nofun
  case h_6 => split at h <;> exact absurd h nofun
  case h_7 => split at h <;> exact absurd h nofun
  all_goals exact absurd h nofun

/-- R15: the action of a TRANSPORT cue that passes the checks is allowed. -/
theorem State.NextTake.allowed {s : State} {row : TakeRow} {n a : Nat} (h : s.NextTake row n) (hv : s.validate n = none) (hkind : row.kindCode = some 0x03)
    (haction : row.action = some a) : ¬ s.wrongAction a = true := fun hwrong => by
  have hfield : s.field n 16 1 = a := Device.takeRow_action ((congrArg TakeRow.action h.row).trans haction)
  have htransport := (Device.passes_of_validate hv).transport
  rw [Device.wrongTransport_iff.mpr (.inl ⟨h.kind hkind, hfield ▸ hwrong⟩)] at htransport
  exact absurd htransport (by decide)

theorem Device.RunBegun.finishSlot {d f g : Device} {o : Opening} {e : PlanEntry} (h : d.RunBegun f o e g) (hidle : f.arbiter = []) (n st : Nat) (r : Result) :
    d.RunBegun (f.finishSlot n st r) o e g where
  head := by rw [Device.finishSlot_planner]; exact h.head
  entry := h.entry
  pending := h.pending
  cues := h.cues
  runs := by rw [Device.finishSlot_planner]; exact h.runs
  planner := by rw [Device.finishSlot_planner]; exact h.planner
  cause := by rw [Device.finishSlot_attn hidle, BitVec.getLsbD_or, h.cause]; rfl
  writer := (Steady.finishSlot f n st r).writer h.writer
  port p := by rw [Device.finishSlot_port]; exact h.port p

/-- What the take in slot n leaves when it begins a run with the opening o and ends FIRED at k. -/
structure State.BeginsRun (s : State) (n : Nat) (o : Opening) (k : Nat) (e : PlanEntry) (g d : Device) : Prop where
  begun : (s.beginTake n).RunBegun d o e g
  shows : d.Shows n stFired { reason := .none, flags := CueFlags.clear, revision := 1, firePI := k, fireTime := timeLow32 s.time, fired := 1, aux := 0 }
  attn : d.attn.getLsbD 0 = true
  frame : d.time = s.time ∧ d.follower = s.follower ∧ d.mode = s.mode ∧ d.service = s.service ∧ d.house = s.house ∧ s.Taken d

theorem State.NextTake.beginsRun {s : State} {row : TakeRow} {n k : Nat} {o : Opening} (h : s.NextTake row n) (hv : s.validate n = none)
    (hstopped : s.planner.transport = .stopped) (heffect : row.effect n s.seq (s.beginTake n) = ((s.beginTake n).beginRun o).firedAtOnce n k false) :
    ∃ (d : Device) (e : PlanEntry) (g : Device), exec row.command s = .next { s with toDevice := d } ∧ s.BeginsRun n o k e g d := by
  have hbegun := Device.beginRun_begun ((congrArg Planner.transport (s.beginTake_planner n)).trans hstopped) o
  have hkeeps : Keeps 1 (s.beginTake n) ((s.beginTake n).beginRun o) := Keeps.beginRun _ o
  generalize (s.beginTake n).beginning o = g at *
  generalize g.buildEntry (PlanBase.opened o) = e at *
  generalize (s.beginTake n).beginRun o = f at *
  obtain ⟨d, hexec, hends⟩ := h.endsTake hv heffect (by decide) (hkeeps.mono (by omega))
  have htime : f.time = s.time := hkeeps.time.trans (s.beginTake_time n)
  have hwrote := hends.wrote
  have hshows := hends.shows
  rw [htime] at hshows
  refine ⟨d, e, g, hexec, by rw [hends.eq]; exact hbegun.finishSlot (hkeeps.arbiter h.begun_idle) _ _ _, hshows, ?_, ?_⟩
  · rw [hends.attn, BitVec.getLsbD_or]
    simp
  · have hsame : d.time = f.time ∧ d.follower = f.follower ∧ d.mode = f.mode ∧ d.service = f.service ∧ d.house = f.house :=
      ⟨(congrArg Device.time hwrote :), (congrArg Device.follower hwrote :), (congrArg Device.mode hwrote :), (congrArg Device.service hwrote :),
        (congrArg Device.house hwrote :)⟩
    rw [hsame.1, hsame.2.1, hsame.2.2.1, hsame.2.2.2.1, hsame.2.2.2.2, hkeeps.follower (by omega), hkeeps.mode (by omega), hkeeps.service (by omega),
      hkeeps.house (by omega)]
    exact ⟨htime, s.beginTake_follower n, s.beginTake_mode n, s.beginTake_service n, s.beginTake_house n, hends.taken⟩

theorem Device.beginTake_plainStart (d : Device) (n : Nat) : (d.beginTake n).plainStart = d.plainStart := by
  rw [Device.plainStart, Device.plainStart, Device.beginTake_time,
    Device.lmax_congr (fun p => congrArg Port.state (d.beginTake_port n p)) (fun p => congrArg Port.settings (d.beginTake_port n p))]

theorem Device.beginTake_startOpening (d : Device) (n : Nat) : (d.beginTake n).startOpening = d.startOpening := by
  rw [Device.startOpening, Device.startOpening, Device.startInstant, Device.startInstant, Device.startPeriod, Device.startPeriod, Device.beginTake_plainStart,
    Device.beginTake_follower, Device.beginTake_planner]

theorem Device.beginTake_continueOpening (d : Device) (n : Nat) (r : StoppedRun) : (d.beginTake n).continueOpening r = d.continueOpening r := by
  rw [Device.continueOpening, Device.continueOpening, Device.beginTake_plainStart, Device.beginTake_planner]

/-! ## The start instant (R11) -/

theorem Device.startOpening_plain {d : Device} (h : d.follower.state ≠ .locked) :
    d.startOpening.instant = d.plainStart ∧ d.startOpening.period = d.planner.heldPeriod := by
  constructor
  · show d.startInstant = d.plainStart
    unfold Device.startInstant
    split
    · next hlocked _ _ => exact absurd hlocked h
    · rfl
  · show d.startPeriod = d.planner.heldPeriod
    unfold Device.startPeriod
    split
    · next hlocked _ => exact absurd hlocked h
    · rfl

theorem Device.startOpening_locked {d : Device} {m : Time} {q : Nat} (hstate : d.follower.state = .locked) (hmark : d.follower.lastMark = some m)
    (hperiod : d.follower.period = some q) :
    d.startOpening.instant = predictedMark m q (beatsUntil m q d.plainStart) ∧ d.startOpening.period = q := by
  simp only [Device.startOpening, Device.startInstant, Device.startPeriod, hstate, hmark, hperiod, and_self]

/-- Rounding up gives the least multiple that reaches a number. -/
theorem roundUp_least {step : Nat} (hpos : 0 < step) (a : Nat) : a ≤ (a + (step - 1)) / step * step ∧ ∀ j : Nat, a ≤ j * step → (a + (step - 1)) / step ≤ j := by
  refine ⟨?_, fun j hj => ?_⟩
  · have hlow := Nat.lt_div_mul_add hpos (a := a + (step - 1))
    omega
  · refine Nat.le_of_lt_succ ((Nat.div_lt_iff_lt_mul hpos).mpr ?_)
    rw [Nat.succ_mul]
    omega

/-- R11: the number of beats is the least that reaches the limit. -/
theorem beatsUntil_least {m : Time} {q : Nat} (hq : 0 < q) (limit : Instant) :
    (instDiff limit (timeInstant m)).toNat ≤ beatsUntil m q limit * (96 * q) ∧
      ∀ j : Nat, (instDiff limit (timeInstant m)).toNat ≤ j * (96 * q) → beatsUntil m q limit ≤ j :=
  roundUp_least (Nat.mul_pos (by decide) hq) _

/-! ## START -/

/-- The first entry of a run that START begins (R10, R3). -/
theorem Device.RunBegun.first {d f g c : Device} {e : PlanEntry} (h : d.RunBegun f c.startOpening e g) :
    e.pi = 0 ∧ e.beatStart = true ∧ e.barStart = true ∧ e.bar = 1 ∧ e.beat = 1 ∧ e.snap.origin = 0 := by
  have hcounts : e.bar = 1 ∧ e.beat = 1 := by
    rw [h.entry]
    simp only [Device.buildEntry, PlanBase.withPending_none h.pending]
    exact ⟨rfl, rfl⟩
  have horigin : e.snap.origin = 0 := by
    rw [h.entry, Device.buildEntry_origin]
    exact ite_self _
  have hbar : e.barStart = isBarStart 0 e.snap.meter e.snap.origin := by
    rw [h.entry]
    exact g.buildEntry_barStart _
  refine ⟨h.pi, h.beatStart, ?_, hcounts.1, hcounts.2, horigin⟩
  rw [hbar, horigin, isBarStart_iff]
  exact ⟨Nat.le_refl 0, Nat.zero_mod _⟩

/-- Settles O26: the take begins a run with the opening of START. -/
theorem start : Obligations.Start := by
  intro s n h hv plain
  have hstopped : s.planner.transport = .stopped :=
    Classical.not_not.mp fun hruns => h.allowed hv rfl rfl ((Device.wrongAction_iff 0).mpr (.inl ⟨rfl, hruns⟩))
  obtain ⟨d, e, g, hexec, hbegins⟩ := h.beginsRun hv hstopped (o := s.startOpening) (k := 0) (by
    rw [← s.beginTake_startOpening n]
    rfl)
  obtain ⟨hbegun, hshows, hattn, hframe⟩ := hbegins
  obtain ⟨hpi, hbeatStart, hbarStart, hbar, hbeat, horigin⟩ := hbegun.first
  obtain ⟨hinstant, hperiod⟩ := hbegun.instant
  have hplanner := hbegun.planner
  have hport := hbegun.port
  simp only [Device.beginTake_port] at hport
  refine ⟨d, e, hexec, hshows, hstopped, hbegun.runs, (congrArg Planner.stopped hplanner :), (congrArg Planner.horizon hplanner :),
    (congrArg Planner.anchor hplanner :), (congrArg Planner.history hplanner :), (congrArg Planner.cursor hplanner :), hbegun.cause, hattn, hbegun.writer,
    hbegun.head, hpi, hbeatStart, hbarStart, hbar, hbeat, horigin, fun hfree => ?_, fun m q hlocked hmark hq hpos => ?_, hport, hframe⟩
  · rw [hinstant, hperiod]
    exact Device.startOpening_plain hfree
  · obtain ⟨hat, hof⟩ := Device.startOpening_locked hlocked hmark hq
    exact ⟨hperiod.trans hof, beatsUntil m q plain, hinstant.trans hat, beatsUntil_least hpos plain⟩

/-! ## CONTINUE -/

/-- The counts of the first entry of a run that CONTINUE begins go on from those of the stop (R3, R12). -/
theorem Device.RunBegun.counts {d f g c : Device} {r : StoppedRun} {e : PlanEntry} (h : d.RunBegun f (c.continueOpening r) e g) :
    (e.barStart = true → e.bar = r.bar + 1 ∧ e.beat = 1) ∧ (e.barStart = false → (r.pi + 1) % 96 = 0 → e.bar = r.bar ∧ e.beat = r.beat + 1) ∧
      (e.barStart = false → (r.pi + 1) % 96 ≠ 0 → e.bar = r.bar ∧ e.beat = r.beat) := by
  have hcounts : (e.bar, e.beat) = nextCounts e.beatStart e.barStart r.bar r.beat := by
    rw [h.entry]
    exact g.buildEntry_counts rfl
  have hbeatStart : e.beatStart = isBeatStart (r.pi + 1) := h.beatStart
  obtain ⟨hbar, hbeat, hnone⟩ := nextCounts_cases hcounts
  refine ⟨hbar, fun hb hk => hbeat hb ?_, fun hb hk => hnone hb ?_⟩
  · rw [hbeatStart, isBeatStart_iff]
    exact hk
  · rw [hbeatStart, Bool.eq_false_iff, Ne, isBeatStart_iff]
    exact hk

/-- Settles O27: the take begins a run with the opening of CONTINUE. -/
theorem continueRun : Obligations.Continue := by
  intro s n h hv
  obtain ⟨hstopped, r, hr, hpi⟩ : s.planner.transport = .stopped ∧ ∃ r, s.planner.stopped = some r ∧ r.pi < 4294967295 :=
    Classical.not_not.mp fun hnone => h.allowed hv rfl rfl ((Device.wrongAction_iff 1).mpr (.inr (.inl ⟨rfl, hnone⟩)))
  obtain ⟨d, e, g, hexec, hbegins⟩ := h.beginsRun hv hstopped (o := s.continueOpening r) (k := r.pi + 1) (by
    show Device.takeContinue n s.seq (s.beginTake n) = _
    rw [Device.takeContinue, Device.beginTake_planner, hr, ← s.beginTake_continueOpening n])
  obtain ⟨hbegun, hshows, hattn, hframe⟩ := hbegins
  obtain ⟨hinstant, hperiod⟩ := hbegun.instant
  obtain ⟨hbar, hbeat, hnone⟩ := hbegun.counts
  have hplanner := hbegun.planner
  have hport := hbegun.port
  have hmeter := hbegun.meter
  rw [Device.beginTake_globals] at hmeter
  rw [Device.beginTake_planner] at hplanner
  simp only [Device.beginTake_port] at hport
  exact ⟨d, e, r, hexec, hr, hpi, hshows, hbegun.runs, (congrArg Planner.stopped hplanner :), (congrArg Planner.horizon hplanner :),
    (congrArg Planner.history hplanner :), (congrArg Planner.cursor hplanner :), hbegun.cause, hbegun.head, hbegun.pi, hinstant, hperiod, hmeter,
    hbar, hbeat, hnone, fun p => ⟨(hport p).1, (hport p).2.1⟩, hframe⟩

end Sys2Proof.Machine
end

section
/-! PROOFS. PORT SETUP outside INIT (R110, Table 7-2, R112, R119): what each row leaves. -/
namespace Sys2Proof.Machine

/-! ## What an operation of one port leaves of the rest -/

/-- An operation of port p: the other ports keep state, settings and presence, and no cause goes. -/
structure Beside (p : PortIx) (d e : Device) : Prop where
  attn : ∀ i, d.attn.getLsbD i = true → e.attn.getLsbD i = true
  others : ∀ q, q ≠ p → (e.port q).state = (d.port q).state ∧ (e.port q).settings = (d.port q).settings ∧ (e.port q).presence = (d.port q).presence
  frame : e.time = d.time ∧ e.follower = d.follower ∧ e.mode = d.mode ∧ e.service = d.service ∧ e.house = d.house

theorem Beside.trans {p : PortIx} {d e f : Device} (a : Beside p d e) (b : Beside p e f) : Beside p d f := by
  refine ⟨fun i => b.attn i ∘ a.attn i, fun q hq => ?_, ?_⟩
  · obtain ⟨hstate, hsettings, hpresence⟩ := b.others q hq
    rw [hstate, hsettings, hpresence]
    exact a.others q hq
  · obtain ⟨htime, hfollower, hmode, hservice, hhouse⟩ := b.frame
    rw [htime, hfollower, hmode, hservice, hhouse]
    exact a.frame

theorem Beside.of_keeps {p : PortIx} {d e : Device} (h : Keeps 1 d e)
    (hothers : ∀ q, q ≠ p → (e.port q).state = (d.port q).state ∧ (e.port q).presence = (d.port q).presence) : Beside p d e :=
  ⟨fun _ => Device.getLsbD_attn_of_keeps h, fun q hq => ⟨(hothers q hq).1, h.cfg (Nat.le_refl _) q, (hothers q hq).2⟩,
    h.time, h.follower (Nat.le_refl _), h.mode (Nat.le_refl _), h.service (Nat.le_refl _), h.house (Nat.le_refl _)⟩

theorem Enters.beside {p : PortIx} {d e : Device} (h : Enters p d e) : Beside p d e :=
  .of_keeps h.keeps fun q hq => ⟨h.states q hq, h.presence q⟩

theorem Enters.settings {p : PortIx} {d e : Device} (h : Enters p d e) : (e.port p).settings = (d.port p).settings := h.keeps.cfg (Nat.le_refl _) p

theorem Local.beside {p : PortIx} {d e : Device} (h : Local p d e) (hk : Keeps 1 d e) : Beside p d e :=
  .of_keeps hk fun q hq => by
    rw [h.ports q hq]
    exact ⟨rfl, rfl⟩

theorem Beside.modPort (p : PortIx) (d : Device) (f : Port → Port) : Beside p d (d.modPort p f) :=
  ⟨fun _ h => h, fun q hq => by
    rw [Device.port_modPort_ne d f hq]
    exact ⟨rfl, rfl, rfl⟩, rfl, rfl, rfl, rfl, rfl⟩

theorem Cancels.beside {p : PortIx} {d e : Device} (h : Cancels d e) (hk : Keeps 1 d e) : Beside p d e :=
  .of_keeps hk fun q _ => by
    rw [h.ports q]
    exact ⟨rfl, rfl⟩

/-! ## The fresh join (R123) -/

theorem Recues.enters {p : PortIx} {d e : Device} (h : Recues p d e) (hk : Keeps 1 d e) : Enters p d e := by
  refine h.toLocal.enters hk ?_ fun _ => ?_
  · rw [h.port]
  · rw [h.port]
    exact ⟨rfl, id⟩

theorem Reforms.enters {p : PortIx} {d e : Device} (h : Reforms p d e) (hk : Keeps 1 d e) : Enters p d e := by
  refine h.toLocal.enters hk ?_ fun _ => ?_
  · rw [h.form]
  · rw [h.form]
    exact ⟨rfl, id⟩

theorem Enters.unjoined (p : PortIx) (d : Device) : Enters p d (d.modPort p Port.unjoined) := by
  refine (Local.modPort p d _).enters (.modPort d p Port.unjoined rfl Port.unjoined_links) ?_ fun _ => ?_
  · rw [Device.port_modPort_same]
    rfl
  · rw [Device.port_modPort_same]
    exact ⟨rfl, fun _ => rfl⟩

/-- R134: the STOP of a fresh join, where one is due. -/
def Device.freshStop (d : Device) (p : PortIx) (due : Bool) : Device := if due then (d.queueChar p (TimingChar.plain chStop)).pump p else d

theorem Device.freshAcquire_eq (d : Device) (p : PortIx) : d.freshAcquire p =
    (((((d.modPort p Port.unjoined).setState p .acquiring).skipFlights p (d.port p).step.queue).freshStop p (d.freshStopDue p)).extend).chooseFirst p := rfl

theorem Reforms.freshStop (p : PortIx) (d : Device) (due : Bool) : Reforms p d (d.freshStop p due) := .ite ((Reforms.queueChar p d _).trans (.pump p _)) (.refl d)

theorem Keeps.freshStop {n : Nat} (d : Device) (p : PortIx) (due : Bool) : Keeps n d (d.freshStop p due) := .ite ((Keeps.queueChar d p _).trans (.pump _ p)) (.refl d)

theorem Enters.freshAcquire (p : PortIx) (d : Device) : Enters p d (d.freshAcquire p) := by
  rw [Device.freshAcquire_eq]
  exact (((((Enters.unjoined p d).trans (.setState p _ _)).trans ((Recues.skipFlights p _ _).enters (.skipFlights _ _ _))).trans
    ((Reforms.freshStop p _ _).enters (.freshStop _ _ _))).trans (.extend p _)).trans (.chooseFirst p _)

theorem Device.freshAcquire_state (d : Device) (p : PortIx) : ((d.freshAcquire p).port p).state = .acquiring := by
  rw [Device.freshAcquire_eq, (Rejoins.chooseFirst p _).port]
  show ((((((d.modPort p Port.unjoined).setState p .acquiring).skipFlights p (d.port p).step.queue).freshStop p (d.freshStopDue p)).extend).port p).state = _
  rw [Device.extend_state, (Reforms.freshStop p _ _).form]
  show ((((d.modPort p Port.unjoined).setState p .acquiring).skipFlights p (d.port p).step.queue).port p).state = _
  rw [(Recues.skipFlights p _ _).port]
  show (((d.modPort p Port.unjoined).setState p .acquiring).port p).state = _
  rw [Device.setState_port]

theorem Enters.freshLevel (p : PortIx) (d : Device) : Enters p d (d.freshLevel p) := by
  have hlatch : Enters p d (d.latch .port).requestStatus := by
    have hrecues : Recues p d (d.latch .port).requestStatus :=
      .of_ports ((Local.latch p d _).trans (.requestStatus p _)) ((Device.requestStatus_port _ _).trans (Device.latch_port _ _ _))
    exact hrecues.enters ((Keeps.latch d _).trans (.requestStatus _))
  exact (hlatch.trans (.extend p _)).trans (.levelJoin p _)

theorem Device.freshLevel_state (d : Device) (p : PortIx) : ((d.freshLevel p).port p).state = (d.port p).state := by
  rw [Device.freshLevel, (Device.levelJoin_kept _ p).1, Device.extend_state, Device.requestStatus_port, Device.latch_port]

theorem Device.latch_port_bit (d : Device) : (d.latch .port).attn.getLsbD 1 = true := by simp [Device.latch, Cause.bit]

theorem Device.freshLevel_cause (d : Device) (p : PortIx) : (d.freshLevel p).attn.getLsbD 1 = true :=
  Device.getLsbD_attn_of_keeps (((Keeps.requestStatus (n := 1) _).trans (.extend _)).trans (.levelJoin _ p)) d.latch_port_bit

theorem Enters.freshJoin (p : PortIx) (d : Device) : Enters p d (d.freshJoin p) := by
  unfold Device.freshJoin
  split
  · exact .freshLevel p d
  · exact .freshAcquire p d

/-! ## The rows of Table 7-2 -/

theorem Device.chooseAgain_beside (d : Device) (p : PortIx) : Beside p d (d.extend.chooseAgain p) :=
  (Enters.extend p d).beside.trans ((Local.chooseAgain p _).beside (.chooseAgain _ p))

section
variable {p : PortIx} {new : Settings}

/-- The device with the new settings of port p, where the kind stays. -/
def Device.withNew (d : Device) (p : PortIx) (new : Settings) : Device := d.modPort p fun x => (x.clearedFlaps new).withSettings new

theorem Device.withNew_port (d : Device) : (d.withNew p new).port p = { d.port p with
    settings := new, clock := ((d.withNew p new).port p).clock, flaps := ((d.withNew p new).port p).flaps } := by
  rw [Device.withNew, Device.port_modPort_same, Port.clearedFlaps]
  split <;> rfl

/-- The device with port p of another kind, before it goes to its new state. -/
def Device.rekinded (d : Device) (p : PortIx) (new : Settings) : Device :=
  ((d.cancelSlots .portSetup (d.heldOfPort p)).modPort p fun x => (((x.stopped true d.time).clearedFlaps new).newKind new)).pump p

theorem Device.rekinded_beside {d : Device} (hquiet : d.arbiter = []) : Beside p d (d.rekinded p new) :=
  (((Cancels.cancelSlots hquiet .portSetup (d.heldOfPort p)).beside (.cancelSlots d _ _)).trans (.modPort p _ _)).trans ((Local.pump p _).beside (.pump _ p))

theorem Device.rekinded_port {d : Device} (hquiet : d.arbiter = []) : ((d.rekinded p new).port p).settings = new ∧
    ((d.rekinded p new).port p).state = (d.port p).state ∧ ((d.rekinded p new).port p).presence = (d.port p).presence := by
  have hcancels := (Cancels.cancelSlots hquiet .portSetup (d.heldOfPort p)).ports p
  unfold Device.rekinded
  rw [(Reforms.pump p _).form, Device.port_modPort_same, hcancels]
  unfold Port.newKind Port.clearedFlaps
  split <;> exact ⟨rfl, rfl, rfl⟩

section
variable {d : Device} (hmode : d.mode ≠ .init)
include hmode

theorem Device.enter_entryOf : ((d.enter p).port p).state = entryOf (d.port p).settings (d.port p).presence :=
  (d.enter_state p).trans (Device.entryState_eq hmode p)

theorem Device.applySetup_kind (hkind : (d.port p).settings.kind ≠ new.kind) : d.applySetup p new = d.changeKind p new := by
  unfold Device.applySetup
  dsimp only
  rw [if_neg hmode, if_pos hkind]

/-- Row 2, first part: the port stays FAULTED under its mask. -/
theorem Device.applySetup_faulted (hkind : (d.port p).settings.kind ≠ new.kind) (hstate : (d.port p).state = .faulted) (hmask : new.mask = true) :
    d.applySetup p new = d.rekinded p new := by
  rw [Device.applySetup_kind hmode hkind, Device.changeKind, if_pos ⟨hstate, hmask⟩]
  rfl

/-- Row 2, second part: by DETACHED to the entry state. -/
theorem Device.applySetup_detached (hkind : (d.port p).settings.kind ≠ new.kind) (h : ¬ ((d.port p).state = .faulted ∧ new.mask = true)) :
    d.applySetup p new = (((d.rekinded p new).setState p .detached).latch .port).enter p := by
  rw [Device.applySetup_kind hmode hkind, Device.changeKind, if_neg h]
  rfl

section
variable (hkind : (d.port p).settings.kind = new.kind)
include hkind

theorem Device.applySetup_rows : d.applySetup p new =
    if (d.port p).settings.mask = true ∧ new.mask = false then (d.withNew p new).enter p
    else if (d.port p).settings.mask = false ∧ new.mask = true ∧ (d.port p).state ≠ .faulted then (d.withNew p new).dropTo p .idle
    else if (d.port p).settings.latency ≠ new.latency ∧ (d.port p).state.joined = true then (d.withNew p new).freshJoin p
    else if ((d.port p).settings.latency ≠ new.latency ∨ (d.port p).settings.join ≠ new.join) ∧ (d.port p).state = .acquiring then
      (d.withNew p new).extend.chooseAgain p
    else d.withNew p new := by
  unfold Device.applySetup
  dsimp only
  rw [if_neg hmode, if_neg (not_not_intro hkind)]
  rfl

/-- Where the mask stays, the first two rows of Table 7-2 do not hold. -/
theorem Device.applySetup_sameMask (hmask : (d.port p).settings.mask = new.mask) : d.applySetup p new =
    if (d.port p).settings.latency ≠ new.latency ∧ (d.port p).state.joined = true then (d.withNew p new).freshJoin p
    else if ((d.port p).settings.latency ≠ new.latency ∨ (d.port p).settings.join ≠ new.join) ∧ (d.port p).state = .acquiring then
      (d.withNew p new).extend.chooseAgain p
    else d.withNew p new := by
  rw [Device.applySetup_rows hmode hkind, if_neg, if_neg]
  · rw [hmask]
    rintro ⟨hfalse, htrue, -⟩
    exact absurd (hfalse.symm.trans htrue) (by decide)
  · rw [hmask]
    rintro ⟨htrue, hfalse⟩
    exact absurd (hfalse.symm.trans htrue) (by decide)

end
end
end

/-- Outside INIT a PORT SETUP gives the port its new settings, and leaves the other ports' states and settings. -/
theorem Device.applySetup_sets {d : Device} (hmode : d.mode ≠ .init) (hquiet : d.arbiter = []) (p : PortIx) (new : Settings) :
    Beside p d (d.applySetup p new) ∧ ((d.applySetup p new).port p).settings = new := by
  by_cases hkind : (d.port p).settings.kind = new.kind
  · rw [Device.applySetup_rows hmode hkind]
    have hbeside : Beside p d (d.withNew p new) := .modPort p d _
    have hsettings : ((d.withNew p new).port p).settings = new := by rw [Device.withNew_port]
    generalize d.withNew p new = b at *
    have henters : ∀ e, Enters p b e → Beside p d e ∧ (e.port p).settings = new := fun e h => ⟨hbeside.trans h.beside, h.settings.trans hsettings⟩
    split
    · exact henters _ (.enter p b)
    split
    · exact henters _ (.dropTo p b _)
    split
    · exact henters _ (.freshJoin p b)
    split
    · exact ⟨hbeside.trans (b.chooseAgain_beside p), (((Keeps.extend b).trans (.chooseAgain _ p)).cfg (Nat.le_refl _) p).trans hsettings⟩
    · exact henters _ (.refl p b)
  · have hbeside : Beside p d (d.rekinded p new) := Device.rekinded_beside hquiet
    have hsettings := (Device.rekinded_port hquiet (p := p) (new := new)).1
    by_cases hfault : (d.port p).state = .faulted ∧ new.mask = true
    · rw [Device.applySetup_faulted hmode hkind hfault.1 hfault.2]
      exact ⟨hbeside, hsettings⟩
    · rw [Device.applySetup_detached hmode hkind hfault]
      generalize d.rekinded p new = b at *
      have hdetached := Enters.setState p b .detached
      have hlatch : Beside p (b.setState p .detached) ((b.setState p .detached).latch .port) := (Local.latch p _ _).beside (.latch _ _)
      have henter := Enters.enter p ((b.setState p .detached).latch .port)
      refine ⟨((hbeside.trans hdetached.beside).trans hlatch).trans henter.beside, henter.settings.trans ?_⟩
      rw [Device.latch_port]
      exact hdetached.settings.trans hsettings

end Sys2Proof.Machine
end

section
/-! PROOFS. The choice of a join pulse (R7, R118, R119, R121). -/
namespace Sys2Proof.Machine

/-! ## Join boundaries (R7) -/

/-- The lowest k at or above lo that lies a multiple of step above the base. -/
theorem nextMultiple_least {base step lo : Nat} (hstep : 0 < step) (hbase : base ≤ lo) :
    lo ≤ nextMultiple base step lo ∧ (nextMultiple base step lo - base) % step = 0 ∧
      ∀ k, lo ≤ k → (k - base) % step = 0 → nextMultiple base step lo ≤ k := by
  obtain ⟨hreach, hleast⟩ := roundUp_least hstep (lo - base)
  unfold nextMultiple
  refine ⟨by omega, by rw [Nat.add_sub_cancel_left, Nat.mul_mod_left], fun k hk hmultiple => ?_⟩
  obtain ⟨j, hj⟩ := Nat.dvd_of_mod_eq_zero hmultiple
  rw [Nat.mul_comm] at hj
  have hle := Nat.mul_le_mul_right step (hleast j (by omega))
  omega

/-- The boundaries of a join setting, in bars. -/
theorem onJoinBoundary_iff {j : JoinSetting} {k meter origin : Nat} :
    onJoinBoundary j k meter origin ↔ if j = .beat then k % 96 = 0 else origin ≤ k ∧ (k - origin) % (j.bars * meter * 96) = 0 := by
  cases j <;> simp [onJoinBoundary, JoinSetting.bars]

theorem isBoundary_iff {j : JoinSetting} {k meter origin : Nat} : isBoundary j k meter origin = true ↔ onJoinBoundary j k meter origin := by
  rw [onJoinBoundary_iff]
  unfold isBoundary
  split
  · exact isBeatStart_iff k
  · next hj =>
    rw [if_neg hj]
    simp only [isBarMultiple, Bool.and_eq_true, decide_eq_true_eq, beq_iff_eq]

theorem JoinSetting.bars_pos {j : JoinSetting} (h : j ≠ .beat) : 0 < j.bars := by
  cases j
  case beat => exact absurd rfl h
  all_goals decide

theorem nextBoundary_least {j : JoinSetting} {lo meter origin : Nat} (hmeter : 0 < meter) :
    lo ≤ nextBoundary j lo meter origin ∧ onJoinBoundary j (nextBoundary j lo meter origin) meter origin ∧
      ∀ k, lo ≤ k → onJoinBoundary j k meter origin → nextBoundary j lo meter origin ≤ k := by
  simp only [onJoinBoundary_iff]
  unfold nextBoundary
  split
  · exact nextMultiple_least (by decide) (Nat.zero_le lo)
  · next hj =>
    simp only [if_neg hj]
    have hstep : 0 < j.bars * meter * 96 := Nat.mul_pos (Nat.mul_pos (JoinSetting.bars_pos hj) hmeter) (by decide)
    obtain ⟨hreach, hmultiple, hleast⟩ := nextMultiple_least hstep (Nat.le_max_right lo origin)
    exact ⟨Nat.le_trans (Nat.le_max_left lo origin) hreach, ⟨Nat.le_trans (Nat.le_max_right lo origin) hreach, hmultiple⟩,
      fun k hk hon => hleast k (Nat.max_le.mpr ⟨hk, hon.1⟩) hon.2⟩

/-! ## The first candidate of the plan -/

theorem FirstOf.find? {P : PlanEntry → Prop} {f : PlanEntry → Bool} {l : List PlanEntry} {e : PlanEntry} (h : FirstOf P l e) (hf : ∀ x, f x = true ↔ P x) :
    l.find? f = some e := by
  obtain ⟨before, after, hl, he, hbefore⟩ := h
  exact List.find?_eq_some_iff_append.mpr ⟨(hf e).mpr he, before, after, hl, fun x hx => by simpa [← hf x] using hbefore x hx⟩

theorem find?_eq_none_of_prop {P : PlanEntry → Prop} {f : PlanEntry → Bool} {l : List PlanEntry} (h : ∀ e ∈ l, ¬ P e) (hf : ∀ x, f x = true ↔ P x) : l.find? f = none :=
  List.find?_eq_none.mpr fun x hx hfx => h x hx ((hf x).mp hfx)

section
variable {d : Device} {p : PortIx}

theorem Device.stillAhead_iff (latency : Nat) (x : PlanEntry) : d.stillAhead x latency = true ↔ x.StillAhead latency d.time := decide_eq_true_iff

theorem Device.candidate_iff (g : Settings) (lo : Nat) (x : PlanEntry) :
    (decide (lo ≤ x.pi) && isBoundary g.join x.pi x.snap.meter x.snap.origin && d.stillAhead x g.latency) = true ↔ g.Candidate d.time lo x := by
  rw [Bool.and_eq_true, Bool.and_eq_true, decide_eq_true_iff, isBoundary_iff, Device.stillAhead_iff, and_assoc]
  rfl

/-- R118: the choice where the plan has a candidate. -/
theorem Device.chooseJoin_planned {lo : Nat} {e : PlanEntry} (h : FirstOf ((d.port p).settings.Candidate d.time lo) d.planner.plan e) :
    d.chooseJoin p lo = some { pulse := e.pi, meter := e.snap.meter, origin := e.snap.origin } := by
  unfold Device.chooseJoin
  dsimp only
  rw [h.find? (Device.candidate_iff _ lo)]

theorem Device.tailBase_some {t : PlanEntry} (h : d.planner.plan.getLast? = some t) : d.tailBase = { pulse := t.pi, meter := t.snap.meter, origin := t.snap.origin } := by
  unfold Device.tailBase
  rw [h]

/-- R118: the choice where it has none. -/
theorem Device.chooseJoin_beyond {lo : Nat} {t : PlanEntry} (h : ∀ e ∈ d.planner.plan, ¬ (d.port p).settings.Candidate d.time lo e)
    (htail : d.planner.plan.getLast? = some t) : d.chooseJoin p lo =
      if d.mayJoin (nextBoundary (d.port p).settings.join (Nat.max lo (t.pi + 1)) t.snap.meter t.snap.origin) then
        some { pulse := nextBoundary (d.port p).settings.join (Nat.max lo (t.pi + 1)) t.snap.meter t.snap.origin, meter := t.snap.meter, origin := t.snap.origin }
      else none := by
  unfold Device.chooseJoin
  dsimp only
  rw [find?_eq_none_of_prop h (Device.candidate_iff _ lo)]
  dsimp only
  rw [Device.tailBase_some htail]

theorem Device.mayJoin_iff (k : Nat) : d.mayJoin k = true ↔ k ≤ 4294967295 ∧ ∀ z, d.planner.latched = some z → k ≤ z := by
  unfold Device.mayJoin
  rw [Bool.and_eq_true, decide_eq_true_iff]
  refine and_congr Iff.rfl ?_
  split
  · next z hz => simp [hz]
  · next hz => simp [hz]

theorem Device.takeJoin_port (c : JoinChoice) : ((d.takeJoin p c).port p).join = some c.pulse ∧ ((d.takeJoin p c).port p).cursor = c.pulse := by
  unfold Device.takeJoin
  split
  · rw [Device.port_modPort_same]
    exact ⟨rfl, rfl⟩
  · rw [(Reforms.takeForm p _ _).form, Device.port_modPort_same]
    exact ⟨rfl, rfl⟩

theorem Device.chooseFirst_some {c : JoinChoice} (hrun : d.planner.transport ≠ .stopped) (h : d.chooseJoin p (d.joinFloor p) = some c) :
    d.chooseFirst p = d.takeJoin p c := by
  unfold Device.chooseFirst
  rw [if_neg (by simp [Device.runUnderWay_iff.mpr hrun]), h]

theorem Device.chooseFirst_none (h : d.chooseJoin p (d.joinFloor p) = none) : d.chooseFirst p = d := by
  unfold Device.chooseFirst
  rw [h]
  exact ite_self _

theorem Device.chooseAgain_some {c : JoinChoice} {j : Nat} (hstate : (d.port p).state = .acquiring) (hjoin : (d.port p).join = some j)
    (h : d.chooseJoin p (Nat.max j (d.joinFloor p)) = some c) : d.chooseAgain p = d.takeJoin p c := by
  unfold Device.chooseAgain
  rw [hstate, hjoin]
  dsimp only
  rw [h]

theorem Device.joinFloor_some {r : Nat} (h : d.planner.cursor = some r) : d.joinFloor p = Nat.max (d.port p).cursor r := by
  unfold Device.joinFloor
  rw [h]

/-- R121: the lowest pulse of the plan that a LEVEL port can join at. -/
theorem Device.levelJoinPulse_planned {e : PlanEntry}
    (h : FirstOf (fun x => d.joinFloor p ≤ x.pi ∧ x.StillAhead (d.port p).settings.latency d.time) d.planner.plan e) : d.levelJoinPulse p = e.pi := by
  unfold Device.levelJoinPulse
  rw [h.find? fun x => by rw [Bool.and_eq_true, decide_eq_true_iff, Device.stillAhead_iff]]

theorem Device.levelJoinPulse_beyond {t : PlanEntry} (h : ∀ e ∈ d.planner.plan, ¬ (d.joinFloor p ≤ e.pi ∧ e.StillAhead (d.port p).settings.latency d.time))
    (htail : d.planner.plan.getLast? = some t) : d.levelJoinPulse p = Nat.max (d.joinFloor p) (t.pi + 1) := by
  unfold Device.levelJoinPulse
  rw [find?_eq_none_of_prop h fun x => by rw [Bool.and_eq_true, decide_eq_true_iff, Device.stillAhead_iff], Device.tailBase_some htail]

end

end Sys2Proof.Machine
end

section
/-! PROOFS. The take of a PORT SETUP outside INIT (R110, Table 7-2, R112, R119). -/
namespace Sys2Proof.Machine

theorem Device.lmax_of_latency {d e : Device} (hstate : ∀ p, (e.port p).state = (d.port p).state)
    (hlatency : ∀ p, (e.port p).settings.latency = (d.port p).settings.latency) : e.lmax = d.lmax := by
  simp only [Device.lmax, hstate, hlatency]

section
variable {d : Device} {p : PortIx} {new : Settings} (hmode : d.mode ≠ .init)

/-- R112: a port that passes through DETACHED latches PORT, and goes to its entry state. -/
theorem Device.viaDetached (hmode : d.mode ≠ .init) (p : PortIx) : (((d.setState p .detached).latch .port).enter p).attn.getLsbD 1 = true ∧
    ((((d.setState p .detached).latch .port).enter p).port p).state = entryOf (d.port p).settings (d.port p).presence := by
  have henters := Enters.setState p d .detached
  refine ⟨Device.getLsbD_attn_of_keeps (Keeps.enter _ p) (Device.latch_port_bit _), ?_⟩
  rw [Device.enter_entryOf (by exact (henters.keeps.mode (Nat.le_refl _)).symm ▸ hmode), Device.latch_port, henters.settings, henters.presence]

theorem Device.withNew_setup (d : Device) (p : PortIx) (new : Settings) :
    ((d.withNew p new).port p).settings = new ∧ ((d.withNew p new).port p).presence = (d.port p).presence ∧
      ((d.withNew p new).port p).state = (d.port p).state ∧ ((d.withNew p new).port p).join = (d.port p).join ∧
      ((d.withNew p new).port p).cursor = (d.port p).cursor := by
  rw [Device.withNew_port]
  exact ⟨rfl, rfl, rfl, rfl, rfl⟩

include hmode

/-- Row 2: a change of kind. -/
theorem Device.applySetup_changesKind (hquiet : d.arbiter = []) (hkind : (d.port p).settings.kind ≠ new.kind) :
    ((d.port p).state = .faulted → new.mask = true → ((d.applySetup p new).port p).state = .faulted) ∧
      (¬ ((d.port p).state = .faulted ∧ new.mask = true) →
        ((d.applySetup p new).port p).state = entryOf new (d.port p).presence ∧ (d.applySetup p new).attn.getLsbD 1 = true) := by
  obtain ⟨hsettings, hstate, hpresence⟩ := Device.rekinded_port hquiet (p := p) (new := new)
  refine ⟨fun hfault hmask => ?_, fun hfault => ?_⟩
  · rw [Device.applySetup_faulted hmode hkind hfault hmask, hstate, hfault]
  · obtain ⟨-, -, hbmode, -, -⟩ := (Device.rekinded_beside hquiet (p := p) (new := new)).frame
    rw [Device.applySetup_detached hmode hkind hfault]
    obtain ⟨hcause, hentry⟩ := Device.viaDetached (d := d.rekinded p new) (by rw [hbmode]; exact hmode) p
    rw [hsettings, hpresence] at hentry
    exact ⟨hentry, hcause⟩

variable (hkind : (d.port p).settings.kind = new.kind)
include hkind

/-- Row 3: the mask is cleared. -/
theorem Device.applySetup_unmasks (hold : (d.port p).settings.mask = true) (hnew : new.mask = false) :
    ((d.applySetup p new).port p).state = entryOf new (d.port p).presence := by
  obtain ⟨hsettings, hpresence, -, -, -⟩ := d.withNew_setup p new
  rw [Device.applySetup_rows hmode hkind, if_pos ⟨hold, hnew⟩, Device.enter_entryOf (show (d.withNew p new).mode ≠ .init from hmode), hsettings, hpresence]

/-- Row 4: the mask is set. -/
theorem Device.applySetup_masks (hold : (d.port p).settings.mask = false) (hnew : new.mask = true) (hstate : (d.port p).state ≠ .faulted) :
    ((d.applySetup p new).port p).state = .idle := by
  rw [Device.applySetup_rows hmode hkind, if_neg (by rw [hold]; exact fun h => absurd h.1 (by decide)), if_pos ⟨hold, hnew, hstate⟩, Device.dropTo_port]

variable (hmask : (d.port p).settings.mask = new.mask)
include hmask

/-- Row 5: the latency of a joined port changes. -/
theorem Device.applySetup_latency (hlatency : (d.port p).settings.latency ≠ new.latency) (hjoined : (d.port p).state.joined = true) :
    if new.kind = .level then ((d.applySetup p new).port p).state = (d.port p).state ∧ (d.applySetup p new).attn.getLsbD 1 = true
    else ((d.applySetup p new).port p).state = .acquiring := by
  obtain ⟨hsettings, -, hstate, -, -⟩ := d.withNew_setup p new
  have hfresh : d.applySetup p new = (d.withNew p new).freshJoin p := by
    rw [Device.applySetup_sameMask hmode hkind hmask, if_pos ⟨hlatency, hjoined⟩]
  unfold Device.freshJoin at hfresh
  rw [hsettings] at hfresh
  by_cases hlevel : new.kind = .level
  · rw [hlevel] at hfresh
    rw [if_pos hlevel, hfresh, Device.freshLevel_state, hstate]
    exact ⟨rfl, Device.freshLevel_cause _ p⟩
  · split at hfresh
    · next h => exact absurd h hlevel
    · rw [if_neg hlevel, hfresh, Device.freshAcquire_state]

/-- No row: the state stays. -/
theorem Device.applySetup_stays (h : (d.port p).settings.latency = new.latency ∨ (d.port p).state.joined = false) :
    ((d.applySetup p new).port p).state = (d.port p).state := by
  obtain ⟨-, -, hstate, -, -⟩ := d.withNew_setup p new
  have hnot : ¬ ((d.port p).settings.latency ≠ new.latency ∧ (d.port p).state.joined = true) := by
    rintro ⟨hlatency, hjoined⟩
    rcases h with h | h
    · exact hlatency h
    · rw [h] at hjoined
      exact absurd hjoined (by decide)
  rw [Device.applySetup_sameMask hmode hkind hmask, if_neg hnot]
  split
  · rw [(Rejoins.chooseAgain p _).port]
    exact (Device.extend_state _ p).trans hstate
  · exact hstate

/-- Row 6: the join setting of an ACQUIRING port changes (R119). -/
theorem Device.applySetup_rejoins {j r : Nat} {e : PlanEntry} (hlatency : (d.port p).settings.latency = new.latency) (hjoin : (d.port p).settings.join ≠ new.join)
    (hstate : (d.port p).state = .acquiring) (hj : (d.port p).join = some j) (hcursor : d.planner.cursor = some r) (hdue : d.extendDue = false)
    (hfirst : FirstOf (new.Candidate d.time (Nat.max j (Nat.max (d.port p).cursor r))) d.planner.plan e) :
    ((d.applySetup p new).port p).join = some e.pi ∧ ((d.applySetup p new).port p).cursor = e.pi := by
  obtain ⟨hsettings, -, hstate', hjoin', hcursor'⟩ := d.withNew_setup p new
  have hbeside : Beside p d (d.withNew p new) := .modPort p d _
  rw [Device.applySetup_sameMask hmode hkind hmask, if_neg fun h => h.1 hlatency, if_pos ⟨.inr hjoin, hstate⟩]
  have hplanner : (d.withNew p new).planner = d.planner := rfl
  have htime : (d.withNew p new).time = d.time := rfl
  generalize d.withNew p new = b at *
  have hlmax : b.lmax = d.lmax := by
    refine Device.lmax_of_latency (fun q => ?_) (fun q => ?_)
    · by_cases hq : q = p
      · rw [hq, hstate']
      · exact (hbeside.others q hq).1
    · by_cases hq : q = p
      · rw [hq, hsettings, hlatency]
      · rw [(hbeside.others q hq).2.1]
  have hnotDue : b.extendDue = false := by
    rw [← hdue, Bool.eq_iff_iff, Device.extendDue_iff, Device.extendDue_iff, Device.limit, Device.limit, hplanner, htime, hlmax]
  rw [Device.extend_idle hnotDue]
  have hchosen : b.chooseJoin p (Nat.max j (b.joinFloor p)) = some { pulse := e.pi, meter := e.snap.meter, origin := e.snap.origin } := by
    refine Device.chooseJoin_planned ?_
    rw [Device.joinFloor_some (by rw [hplanner]; exact hcursor), hsettings, hcursor', hplanner, htime]
    exact hfirst
  rw [Device.chooseAgain_some (hstate'.trans hstate) (hjoin'.trans hj) hchosen]
  exact Device.takeJoin_port _

end

/-- Settles O34: the rows of Table 7-2 one by one, on the device that the take begins on. -/
theorem portSetupActsOnState : Obligations.PortSetupActsOnState := by
  intro s n p h hv hp hmode old new
  have hchecked := SameChecked.beginTake s.toDevice n n
  have heffect := takePortSetup_eq (q := s.seq) (hchecked.portByte.trans hp)
  have hport := s.beginTake_port n
  have hsetNew : (s.beginTake n).newSettings n ((s.beginTake n).port p).settings = new := by rw [hport, hchecked.newSettings]
  have hkeeps : Keeps 0 (s.beginTake n) ((s.beginTake n).applySetup p new) := hsetNew ▸ Keeps.applySetup _ p _ Device.newSettings_ok
  rw [hsetNew, hchecked.setupClamped, Device.beginTake_takeResult] at heffect
  obtain ⟨d, hexec, hends⟩ := h.endsTake hv heffect (by decide) hkeeps
  have hquiet := h.begun_idle
  have hmodeBegun : (s.beginTake n).mode ≠ .init := by rw [Device.beginTake_mode]; exact hmode
  have hframeBegun := And.intro (s.beginTake_time n) (And.intro (s.beginTake_follower n) (And.intro (s.beginTake_mode n)
    (And.intro (s.beginTake_service n) (s.beginTake_house n))))
  have hplannerBegun := s.beginTake_planner n
  have hdueBegun : (s.beginTake n).extendDue = s.extendDue :=
    Device.extendDue_congr hplannerBegun (s.beginTake_time n) (fun q => by rw [hport]) (fun q => by rw [hport])
  generalize s.beginTake n = c at *
  have hkind := Device.applySetup_changesKind (p := p) (new := new) hmodeBegun hquiet
  have hunmasks := Device.applySetup_unmasks (p := p) (new := new) hmodeBegun
  have hmasks := Device.applySetup_masks (p := p) (new := new) hmodeBegun
  have hlatency := Device.applySetup_latency (p := p) (new := new) hmodeBegun
  have hstays := Device.applySetup_stays (p := p) (new := new) hmodeBegun
  have hrejoins := @Device.applySetup_rejoins c p new hmodeBegun
  obtain ⟨hbeside, hsettings⟩ := Device.applySetup_sets hmodeBegun hquiet p new
  have hothers := hbeside.others
  have hframe := hbeside.frame
  simp only [hport, hplannerBegun, hframeBegun, hdueBegun] at hkind hunmasks hmasks hlatency hstays hrejoins hothers hframe
  clear heffect hkeeps hbeside
  generalize c.applySetup p new = b at *
  have hwrote := hends.wrote
  have hsame : ∀ q, d.port q = b.port q := fun q => (congrArg (fun e : Device => e.port q) hwrote :)
  have hattn : ∀ i, b.attn.getLsbD i = true → d.attn.getLsbD i = true := fun i hi => by rw [hends.attn, BitVec.getLsbD_or, hi, Bool.true_or]
  have hrest : d.time = b.time ∧ d.follower = b.follower ∧ d.mode = b.mode ∧ d.service = b.service ∧ d.house = b.house :=
    ⟨(congrArg Device.time hwrote :), (congrArg Device.follower hwrote :), (congrArg Device.mode hwrote :), (congrArg Device.service hwrote :),
      (congrArg Device.house hwrote :)⟩
  rw [hframe.1, hframe.2.1, hframe.2.2.1, hframe.2.2.2.1, hframe.2.2.2.2] at hrest
  refine ⟨d, hexec, hends.shows, ?_⟩
  rw [hsame p]
  refine ⟨hsettings, fun hne hfault hmask => (hkind hne).1 hfault hmask, fun hne hfault => ?_, hunmasks, hmasks, fun hk hm hl hjoined => ?_, hstays,
    fun j r e hk hm hl hne hstate hj hr _ hdue hfirst => hrejoins hk hm hl hne hstate hj hr hdue hfirst, fun q hq => ?_, hrest⟩
  · obtain ⟨hstate, hcause⟩ := (hkind hne).2 hfault
    exact ⟨hstate, hattn 1 hcause⟩
  · have hrow := hlatency hk hm hl hjoined
    split
    · next hlevel =>
      rw [if_pos hlevel] at hrow
      exact ⟨hrow.1, hattn 1 hrow.2⟩
    · next hlevel =>
      rw [if_neg hlevel] at hrow
      exact hrow
  · rw [hsame q]
    exact ⟨(hothers q hq).1, (hothers q hq).2.1⟩

end Sys2Proof.Machine
end

section
/-! PROOFS. Presence (R113 to R116, R118, R121): recognition, entry, and loss. -/
namespace Sys2Proof.Machine

/-! ## Entry in a run (R118, R121) -/

section
variable {d : Device} {p : PortIx} {r : Nat}

/-- Where a port without a join pulse stands as the plan has been extended for its new state. -/
theorem Device.enters_extended {st : PortState} (hrun : d.planner.transport ≠ .stopped) (hcursor : d.planner.cursor = some r) (hjoin : (d.port p).join = none)
    {x : Device} (hx : x = (d.setState p st).extend) : x.planner.transport ≠ .stopped ∧ x.planner.cursor = some r ∧ x.time = d.time ∧
      x.port p = { d.port p with state := st } ∧ x.joinFloor p = Nat.max (d.port p).cursor r := by
  have hstill := (Replans.extend (d.setState p st)).still p (.inr (by rw [Device.setState_port]; exact hjoin))
  have hplanner : (d.setState p st).planner = d.planner := (Local.setState p d st).planner
  have hport : x.port p = { d.port p with state := st } := by rw [hx, hstill, Device.setState_port]
  have hcursor' : x.planner.cursor = some r := by rw [hx, (Replans.extend _).cursor, hplanner, hcursor]
  refine ⟨?_, hcursor', ?_, hport, ?_⟩
  · rw [hx]
    exact (Replans.extend _).runs (by rw [hplanner]; exact hrun)
  · rw [hx]
    exact ((Keeps.setState (n := 1) d p st).trans (.extend _)).time
  · rw [Device.joinFloor_some hcursor', hport]

/-- R118: the join pulse of a CLOCK or STEP port that enters ACQUIRING in a run. -/
theorem Device.enterAcquiring_joins (hrun : d.planner.transport ≠ .stopped) (hcursor : d.planner.cursor = some r) (hjoin : (d.port p).join = none)
    {f : Device} (hf : f = d.enterAcquiring p) {g : Settings} (hg : (d.port p).settings = g) :
    (∀ e, FirstOf (g.Candidate d.time (Nat.max (d.port p).cursor r)) f.planner.plan e → (f.port p).join = some e.pi ∧ (f.port p).cursor = e.pi) ∧
      ∀ t, (∀ e ∈ f.planner.plan, ¬ g.Candidate d.time (Nat.max (d.port p).cursor r) e) → f.planner.plan.getLast? = some t → 0 < t.snap.meter →
        ∃ j, t.pi < j ∧ Nat.max (d.port p).cursor r ≤ j ∧ onJoinBoundary g.join j t.snap.meter t.snap.origin ∧
          (∀ k, t.pi < k → Nat.max (d.port p).cursor r ≤ k → onJoinBoundary g.join k t.snap.meter t.snap.origin → j ≤ k) ∧
          (j ≤ 4294967295 → (∀ z, f.planner.latched = some z → j ≤ z) → (f.port p).join = some j ∧ (f.port p).cursor = j) ∧
          (4294967295 < j ∨ (∃ z, f.planner.latched = some z ∧ z < j) → (f.port p).join = none ∧ (f.port p).cursor = (d.port p).cursor) := by
  obtain ⟨x, hx⟩ : ∃ x, x = (d.setState p .acquiring).extend := ⟨_, rfl⟩
  obtain ⟨hrun', -, htime, hport, hfloor⟩ := Device.enters_extended hrun hcursor hjoin hx
  have hchoice : f = x.chooseFirst p := by rw [hf, hx]; rfl
  have hplanner : f.planner = x.planner := by rw [hchoice]; exact (Rejoins.chooseFirst p x).toLocal.planner
  have hsettings : (x.port p).settings = g := by rw [hport]; exact hg
  generalize Nat.max (d.port p).cursor r = lo at *
  rw [hplanner]
  refine ⟨fun e hfirst => ?_, fun t hnone htail hmeter => ?_⟩
  · rw [hchoice, Device.chooseFirst_some hrun' (Device.chooseJoin_planned (by rw [hfloor, hsettings, htime]; exact hfirst))]
    exact Device.takeJoin_port _
  · have hchosen := Device.chooseJoin_beyond (d := x) (p := p) (lo := lo) (by rw [hsettings, htime]; exact hnone) htail
    rw [hsettings, ← hfloor] at hchosen
    obtain ⟨hreach, hon, hleast⟩ := nextBoundary_least (j := g.join) (lo := Nat.max (x.joinFloor p) (t.pi + 1)) (origin := t.snap.origin) hmeter
    rw [hfloor] at hchosen hreach hon hleast
    generalize nextBoundary g.join (Nat.max lo (t.pi + 1)) t.snap.meter t.snap.origin = j at *
    refine ⟨j, Nat.le_trans (Nat.le_max_right _ _) hreach, Nat.le_trans (Nat.le_max_left _ _) hreach, hon, fun k hk hlo => hleast k (Nat.max_le.mpr ⟨hlo, hk⟩),
      fun hmax hlatched => ?_, fun hbeyond => ?_⟩
    · rw [if_pos ((Device.mayJoin_iff j).mpr ⟨hmax, hlatched⟩)] at hchosen
      rw [hchoice, Device.chooseFirst_some hrun' (by rw [hfloor]; exact hchosen)]
      exact Device.takeJoin_port _
    · have hnot : ¬ x.mayJoin j = true := by
        rw [Device.mayJoin_iff]
        rintro ⟨hmax, hlatched⟩
        rcases hbeyond with hlarge | ⟨z, hz, hlt⟩
        · omega
        · exact absurd (hlatched z hz) (Nat.not_le.mpr hlt)
      rw [if_neg hnot] at hchosen
      rw [hchoice, Device.chooseFirst_none (by rw [hfloor]; exact hchosen), hport]
      exact ⟨hjoin, rfl⟩

/-- R121: the pulse at which a LEVEL port joins as it enters LOCKED in a run. -/
theorem Device.enterLevel_joins (hrun : d.planner.transport ≠ .stopped) (hcursor : d.planner.cursor = some r) (hjoin : (d.port p).join = none)
    {f : Device} (hf : f = d.enterLevel p) {g : Settings} (hg : (d.port p).settings = g) {ahead : PlanEntry → Prop}
    (hahead : ahead = fun e => Nat.max (d.port p).cursor r ≤ e.pi ∧ e.StillAhead g.latency d.time) :
    (∀ e, FirstOf ahead f.planner.plan e → (f.port p).join = some e.pi ∧ (f.port p).cursor = e.pi) ∧
      ∀ t, (∀ e ∈ f.planner.plan, ¬ ahead e) → f.planner.plan.getLast? = some t →
        (f.port p).join = some (Nat.max (Nat.max (d.port p).cursor r) (t.pi + 1)) ∧ (f.port p).cursor = Nat.max (Nat.max (d.port p).cursor r) (t.pi + 1) := by
  obtain ⟨x, hx⟩ : ∃ x, x = (d.setState p .locked).extend := ⟨_, rfl⟩
  obtain ⟨hrun', -, htime, hport, hfloor⟩ := Device.enters_extended hrun hcursor hjoin hx
  have hlevel : f = (x.levelJoin p).firstFrame p := by rw [hf, hx]; rfl
  have hplanner : f.planner = x.planner := by rw [hlevel, (Local.firstFrame p _).planner, (Local.levelJoin p x).planner]
  have hsettings : (x.port p).settings = g := by rw [hport]; exact hg
  have hjoined : (f.port p).join = some (x.levelJoinPulse p) ∧ (f.port p).cursor = x.levelJoinPulse p := by
    rw [hlevel, Device.firstFrame_port, Device.levelJoin_running hrun']
    exact ⟨rfl, rfl⟩
  rw [hjoined.1, hjoined.2, hplanner, hahead, ← hfloor, ← hsettings, ← htime]
  refine ⟨fun e hfirst => ?_, fun t hnone htail => ?_⟩
  · rw [Device.levelJoinPulse_planned hfirst]
    exact ⟨rfl, rfl⟩
  · rw [Device.levelJoinPulse_beyond hnone htail]
    exact ⟨rfl, rfl⟩

end

/-! ## Loss (R115, R116) -/

theorem Device.dropTo_cause {d : Device} {p : PortIx} {st : PortState} (h : (d.port p).state ≠ st) (hst : st = .detached ∨ st = .faulted ∨ st = .locked) :
    (d.dropTo p st).attn.getLsbD 1 = true :=
  Device.getLsbD_attn_of_keeps (n := 1) (.skipFlights _ _ _) (Device.setState_cause (by rw [Device.port_modPort_same]; exact h) hst)

/-- What the loss of port p leaves. -/
structure Device.Loses (p : PortIx) (d e : Device) : Prop extends Beside p d e where
  flaps : (e.port p).flaps = d.heldFlaps p ++ [d.time]
  join : (e.port p).join = none
  presence : (e.port p).presence = (d.port p).presence
  third : 2 ≤ (d.heldFlaps p).length → (e.port p).state = .faulted ∧ (e.port p).settings.mask = true ∧ e.attn.getLsbD 1 = true ∧ e.attn.getLsbD 4 = true
  host : (d.heldFlaps p).length < 2 → (d.port p).settings.rejoinHost = true → (e.port p).state = .idle ∧ (e.port p).settings.mask = true
  detached : (d.heldFlaps p).length < 2 → (d.port p).settings.rejoinHost = false →
    (e.port p).state = .detached ∧ e.attn.getLsbD 1 = true ∧ (e.port p).settings = (d.port p).settings

/-- The port's flap history with one more loss. -/
def Device.recordFlap (d : Device) (p : PortIx) : Device := d.modPort p fun x => { x with flaps := d.heldFlaps p ++ [d.time] }

/-- The port under its mask. -/
def Device.masked (d : Device) (p : PortIx) : Device := d.modPort p fun x => { x with settings := { x.settings with mask := true } }

theorem Device.losePresence_rows (d : Device) (p : PortIx) : d.losePresence p =
    if 2 ≤ (d.heldFlaps p).length then (((d.recordFlap p).masked p).dropTo p .faulted).captureFault .portFlap (some p.val) none
    else if (d.port p).settings.rejoinHost = true then ((d.recordFlap p).masked p).dropTo p .idle
    else (d.recordFlap p).dropTo p .detached := by
  have hport : (d.recordFlap p).port p = { d.port p with flaps := d.heldFlaps p ++ [d.time] } := Device.port_modPort_same _ _ _
  have hlength : 3 ≤ ((d.recordFlap p).port p).flaps.length ↔ 2 ≤ (d.heldFlaps p).length := by
    rw [hport, List.length_append]
    exact Nat.succ_le_succ_iff
  have hhost : ((d.recordFlap p).port p).settings.rejoinHost = (d.port p).settings.rejoinHost := by rw [hport]
  rw [← hhost]
  exact ite_congr (propext hlength) (fun _ => rfl) fun _ => rfl

theorem Device.dropTo_kept (d : Device) (p : PortIx) (st : PortState) : ((d.dropTo p st).port p).state = st ∧ ((d.dropTo p st).port p).join = none ∧
    ((d.dropTo p st).port p).flaps = (d.port p).flaps ∧ ((d.dropTo p st).port p).presence = (d.port p).presence ∧
    ((d.dropTo p st).port p).settings = (d.port p).settings := by
  rw [Device.dropTo_port]
  exact ⟨rfl, rfl, rfl, rfl, rfl⟩

theorem Device.losePresence_loses {d : Device} {p : PortIx} (hcounts : (d.port p).state.counts = true) : d.Loses p (d.losePresence p) := by
  have hrecorded : (d.recordFlap p).port p = { d.port p with flaps := d.heldFlaps p ++ [d.time] } := Device.port_modPort_same _ _ _
  have hmasked : ((d.recordFlap p).masked p).port p =
      { d.port p with flaps := d.heldFlaps p ++ [d.time], settings := { (d.port p).settings with mask := true } } := by
    rw [Device.masked, Device.port_modPort_same, hrecorded]
  have hbeside : Beside p d (d.recordFlap p) := .modPort p d _
  have hbesideMasked : Beside p d ((d.recordFlap p).masked p) := hbeside.trans (.modPort p _ _)
  have hstate : (d.port p).state ≠ .faulted ∧ (d.port p).state ≠ .detached := by
    constructor <;> intro h <;> rw [h] at hcounts <;> exact absurd hcounts (by decide)
  rw [Device.losePresence_rows]
  split
  · next hthird =>
    generalize (d.recordFlap p).masked p = b at *
    have hcause : (b.dropTo p .faulted).attn.getLsbD 1 = true := Device.dropTo_cause (by rw [hmasked]; exact hstate.1) (.inr (.inl rfl))
    obtain ⟨hfaulted, hjoin, hflaps, hpresence, hsettings⟩ := b.dropTo_kept p .faulted
    rw [hmasked] at hflaps hpresence hsettings
    have hdropped := hbesideMasked.trans (Enters.dropTo p b .faulted).beside
    generalize b.dropTo p .faulted = e at *
    have hcapture : Beside p e (e.captureFault .portFlap (some p.val) none) := (Local.captureFault p _ _ _ _).beside (.captureFault _ _ _ _)
    have hport := Device.captureFault_port e .portFlap (some p.val) none p
    have hbit : (e.captureFault .portFlap (some p.val) none).attn.getLsbD 4 = true := by
      rw [Device.captureFault_attn_or, BitVec.getLsbD_or]
      simp
    have hfew : ¬ (d.heldFlaps p).length < 2 := Nat.not_lt.mpr hthird
    refine ⟨hdropped.trans hcapture, ?_, ?_, ?_, fun _ => ⟨?_, ?_, hcapture.attn 1 hcause, hbit⟩, fun h => absurd h hfew, fun h => absurd h hfew⟩
    · rw [hport, hflaps]
    · rw [hport, hjoin]
    · rw [hport, hpresence]
    · rw [hport, hfaulted]
    · rw [hport, hsettings]
  · next hfew =>
    split
    · next hhost =>
      generalize (d.recordFlap p).masked p = b at *
      obtain ⟨hidle, hjoin, hflaps, hpresence, hsettings⟩ := b.dropTo_kept p .idle
      rw [hmasked] at hflaps hpresence hsettings
      exact ⟨hbesideMasked.trans (Enters.dropTo p b _).beside, hflaps, hjoin, hpresence, fun h => absurd h hfew,
        fun _ _ => ⟨hidle, congrArg Settings.mask hsettings⟩, fun _ h => absurd (hhost.symm.trans h) (by decide)⟩
    · next hhost =>
      generalize d.recordFlap p = b at *
      have hcause : (b.dropTo p .detached).attn.getLsbD 1 = true := Device.dropTo_cause (by rw [hrecorded]; exact hstate.2) (.inl rfl)
      obtain ⟨hdetached, hjoin, hflaps, hpresence, hsettings⟩ := b.dropTo_kept p .detached
      rw [hrecorded] at hflaps hpresence hsettings
      exact ⟨hbeside.trans (Enters.dropTo p b _).beside, hflaps, hjoin, hpresence, fun h => absurd h hfew, fun _ h => absurd h hhost,
        fun _ _ => ⟨hdetached, hcause, hsettings⟩⟩

end Sys2Proof.Machine
end

section
/-! PROOFS. The presence of a port (R113 to R116): its three commands. -/
namespace Sys2Proof.Machine

section
variable (s : State) (p : PortIx)

theorem exec_rawPresenceChange (level : Bool) : exec (.rawPresenceChange p level) s = .next { s with toDevice := s.rawChange p level } :=
  NoAccess.exec (c := .rawPresenceChange p level) (NoAccess.ite (c := fun d => (d.port p).raw = level) .id
    (NoAccess.modPort p fun d x => { x with raw := level, rawSince := d.time })) rfl s

theorem exec_flapEntryAged : exec (.flapEntryAged p) s = .next { s with toDevice := if s.flapDue p = true then s.ageFlaps p else s.toDevice } :=
  NoAccess.exec (c := .flapEntryAged p) (NoAccess.ite (c := fun d => d.flapDue p = true) (NoAccess.modPort p fun d x => { x with flaps := d.heldFlaps p }) .id) rfl s

/-- R116: with no aged entry the history is as it was. -/
theorem Device.ageFlaps_noneDue {d : Device} {p : PortIx} (h : (d.port p).flaps.any (flapAged d.time) = false) : d.ageFlaps p = d := by
  refine Device.modPort_eq_self ?_
  have hheld : d.heldFlaps p = (d.port p).flaps := List.filter_eq_self.mpr fun t ht => by simp [List.any_eq_false.mp h t ht]
  rw [hheld]

theorem Device.flapEntryAged_eq {d : Device} {p : PortIx} (h : (d.port p).state ≠ .faulted) : (if d.flapDue p = true then d.ageFlaps p else d) = d.ageFlaps p := by
  by_cases haged : (d.port p).flaps.any (flapAged d.time) = true
  · rw [if_pos (by simp [Device.flapDue, h, haged])]
  · rw [Device.ageFlaps_noneDue (by simpa using haged), ite_self]

theorem Device.presenceDue_iff {d : Device} {p : PortIx} :
    d.presenceDue p = true ↔ (d.port p).raw ≠ (d.port p).presence ∧ 0 ≤ timeDiff d.time (timePlus (d.port p).rawSince 20000) := by
  rw [Device.presenceDue, Bool.and_eq_true, bne_iff_ne, timeReached_iff]

/-- The port with the raw level as its filtered presence. -/
def Device.perceived (d : Device) (p : PortIx) : Device := d.modPort p fun x => { x with presence := x.raw }

theorem Device.perceived_port (d : Device) (p : PortIx) : (d.perceived p).port p = { d.port p with presence := (d.port p).raw } := Device.port_modPort_same _ _ _

theorem Device.recognize_rows (d : Device) (p : PortIx) : d.recognize p =
    if (d.port p).raw = true then (if (d.port p).state = .detached then (d.perceived p).enter p else d.perceived p)
    else if (d.port p).state.counts = true then (d.perceived p).losePresence p else d.perceived p := rfl

/-- The device a recognition leaves where the port's state is not acted on. -/
theorem State.noted_perceived : s.noted (s.presenting.perceived p) = s.setPort p { s.port p with presence := (s.port p).raw } :=
  (State.noted_of_same rfl).trans rfl

end

/-- What a recognition leaves. -/
structure Device.Recognized (p : PortIx) (d e : Device) : Prop extends Beside p d e where
  presence : (e.port p).presence = (d.port p).raw
  gain : (d.port p).raw = true → (d.port p).state = .detached → e = (d.perceived p).enter p
  loss : (d.port p).raw = false → (d.port p).state.counts = true → (d.perceived p).Loses p e

theorem Device.recognize_recognized (d : Device) (p : PortIx) : d.Recognized p (d.recognize p) := by
  have hport := d.perceived_port p
  have hbeside : Beside p d (d.perceived p) := .modPort p d _
  have hpresence : ((d.perceived p).port p).presence = (d.port p).raw := by rw [hport]
  rw [Device.recognize_rows]
  generalize hb : d.perceived p = b at *
  split
  · next hraw =>
    have hlost : (d.port p).raw = false → (d.port p).state.counts = true → ∀ e, (d.perceived p).Loses p e := fun h => absurd (hraw.symm.trans h) (by decide)
    split
    · exact ⟨hbeside.trans (Enters.enter p b).beside, ((Enters.enter p b).presence p).trans hpresence, fun _ _ => by rw [hb], fun h hc => hlost h hc _⟩
    · next hstate => exact ⟨hbeside, hpresence, fun _ h => absurd h hstate, fun h hc => hlost h hc _⟩
  · next hraw =>
    split
    · next hcounts =>
      have hloses := Device.losePresence_loses (d := b) (p := p) (by rw [hport]; exact hcounts)
      exact ⟨hbeside.trans hloses.toBeside, hloses.presence.trans hpresence, fun h => absurd h hraw, fun _ _ => by rw [hb]; exact hloses⟩
    · next hcounts => exact ⟨hbeside, hpresence, fun h => absurd h hraw, fun _ h => absurd h hcounts⟩

theorem Device.enter_acquiring {d : Device} {p : PortIx} (h : d.entryState p = .acquiring) : d.enter p = d.enterAcquiring p := by
  unfold Device.enter
  rw [h]

theorem Device.enter_locked {d : Device} {p : PortIx} (h : d.entryState p = .locked) : d.enter p = d.enterLevel p := by
  unfold Device.enter
  rw [h]

/-- Settles O50: the three commands by their cases, the recognition on the device with the accesses presented. -/
theorem presence : Obligations.Presence := by
  intro s p
  refine ⟨fun level h => ?_, fun level h => ?_, fun t => ?_, fun h => ?_, fun h => ?_, ?_⟩
  · rw [exec_rawPresenceChange, Device.rawChange, if_pos h]
  · rw [exec_rawPresenceChange, Device.rawChange, if_neg h]
    rfl
  · rw [Device.heldFlaps, List.mem_filter, Bool.not_eq_true', ← Bool.not_eq_true, flapAged, timeReached_iff]
  · rw [exec_flapEntryAged, Device.flapEntryAged_eq h]
    rfl
  · rw [exec_flapEntryAged, if_neg (by simp [Device.flapDue, h])]
  intro recognized g
  have hop : operationOf (.presenceRecognized p) s.presenting = if s.presenting.presenceDue p = true then s.presenting.recognize p else s.presenting := rfl
  have hdue : s.presenting.presenceDue p = true ↔ recognized := Device.presenceDue_iff
  refine ⟨fun h => ?_, fun h => ?_⟩
  · exact exec_of_noEffect rfl (hop.trans (if_neg fun hd => h (hdue.mp hd)))
  refine ⟨s.noted (s.presenting.recognize p), by rw [exec_noted rfl, hop, if_pos (hdue.mpr h)], ?_⟩
  have hrecognized := s.presenting.recognize_recognized p
  have hrows := s.presenting.recognize_rows p
  have hnoted := s.noted_perceived p
  have hperceived : (s.presenting.perceived p).port p = { s.port p with presence := (s.port p).raw } := s.presenting.perceived_port p
  have hmode : (s.presenting.perceived p).mode = s.mode := rfl
  have hplanner : (s.presenting.perceived p).planner = s.planner := rfl
  have htime : (s.presenting.perceived p).time = s.time := rfl
  have hheld : (s.presenting.perceived p).heldFlaps p = s.heldFlaps p := by
    rw [Device.heldFlaps, hperceived, htime]
    rfl
  obtain ⟨hbeside, hpresence, hgain, hloss⟩ := hrecognized
  refine ⟨hpresence, fun q hq => ⟨(hbeside.others q hq).1, (hbeside.others q hq).2.2⟩, hbeside.frame.1, hbeside.frame.2.1, hbeside.frame.2.2.1,
    hbeside.frame.2.2.2.1, hbeside.frame.2.2.2.2, fun hraw hstate => ?_, fun hraw hstate hinit => ?_, fun r hraw hstate hinit hrun hcursor hjoin => ?_,
    fun hraw hcounts => ?_, fun hraw hcounts => ?_⟩
  · rw [hrows, if_pos (show (s.presenting.port p).raw = true from hraw), if_neg (show ¬ (s.presenting.port p).state = .detached from hstate), hnoted, hraw]
  · have hentered := hgain hraw hstate
    have hentry := Device.enter_entryOf (p := p) (show (s.presenting.perceived p).mode ≠ .init from hinit)
    rw [hperceived, hraw, ← hentered] at hentry
    exact hentry
  · have hentered := hgain hraw hstate
    have hentry := Device.entryState_eq (show (s.presenting.perceived p).mode ≠ .init from hinit) p
    generalize s.presenting.recognize p = e at *
    generalize s.presenting.perceived p = b at *
    have hbjoin : (b.port p).join = none := by rw [hperceived]; exact hjoin
    have hbsettings : (b.port p).settings = g := by rw [hperceived]
    have hbcursor : (b.port p).cursor = (s.port p).cursor := by rw [hperceived]
    have hentry' : b.entryState p = entryOf g true := by rw [hentry, hbsettings, hperceived, hraw]
    rw [← hplanner] at hrun hcursor
    refine ⟨fun hacquiring => ?_, fun hlocked => ?_⟩
    · have hjoins := Device.enterAcquiring_joins hrun hcursor hbjoin (hentered.trans (Device.enter_acquiring (hentry'.trans hacquiring))) hbsettings
      rw [hbcursor, htime] at hjoins
      exact hjoins
    · have hjoins := Device.enterLevel_joins hrun hcursor hbjoin (hentered.trans (Device.enter_locked (hentry'.trans hlocked))) hbsettings rfl
      rw [hbcursor, htime] at hjoins
      exact hjoins
  · rw [hrows, if_neg (show ¬ (s.presenting.port p).raw = true from fun h => absurd (hraw.symm.trans h) (by decide)),
      if_neg (show ¬ (s.presenting.port p).state.counts = true from fun h => absurd (hcounts.symm.trans h) (by decide)), hnoted, hraw]
  · obtain ⟨-, hflaps, hjoin, -, hthird, hhost, hdetached⟩ := hloss hraw hcounts
    rw [hheld, htime] at hflaps
    rw [hheld] at hthird hhost hdetached
    rw [hperceived] at hhost hdetached
    exact ⟨hflaps, hjoin, hthird, hhost, hdetached⟩

end Sys2Proof.Machine
end

section
/-! PROOFS. The characters of the Step Link (R131, R132, R135, R137, R138): a message's characters, a character's bits, the transmitter's choice. -/
namespace Sys2Proof.Machine

/-! ## The characters of a message (R137, R138) -/

/-- The data characters of a full frame of a SEND. -/
theorem CueBody.frameSize_send {b : CueBody} {bulk : Bool} {offset len chunk : Nat} {pacing : Pacing} (h : b = .send bulk offset len pacing chunk) :
    b.frameSize = if bulk = false then len else if pacing = .whole then 255 else chunk := by
  subst h
  cases bulk
  · rfl
  · cases pacing <;> rfl

theorem Flight.needsRelease_iff (f : Flight) : f.needsRelease = true ↔ f.framePos = 0 ∧ f.frameIx ≠ 0 ∧ f.cue.body.pacing ≠ .whole := by
  simp only [Flight.needsRelease, Bool.and_eq_true, beq_iff_eq, bne_iff_ne, and_assoc]

theorem Flight.ready_iff (f : Flight) : f.ready = true ↔ f.complete = false ∧ (f.needsRelease = true → 0 < f.releases) := by
  rw [Flight.ready, Bool.and_eq_true, Bool.or_eq_true, Bool.not_eq_true', Bool.not_eq_true', decide_eq_true_iff, ← Bool.not_eq_true f.needsRelease]
  exact and_congr Iff.rfl Decidable.imp_iff_not_or.symm

theorem Flight.dataAddr_send {f : Flight} {bulk : Bool} {offset len chunk : Nat} {pacing : Pacing} (h : f.cue.body = .send bulk offset len pacing chunk) :
    f.dataAddr = (if bulk = true then 0xC000 + offset else slotBase f.cue.slot + 17) + f.dataSent := by
  unfold Flight.dataAddr
  rw [h]
  cases bulk <;> rfl

theorem Flight.nextCode_start {f : Flight} {m : List Host.Cell} (h : f.framePos = 0) : f.nextCode m = chMessage := by
  unfold Flight.nextCode
  split
  · rfl
  · next hone => omega
  · next hzero _ => exact absurd h hzero

theorem Flight.nextCode_count {f : Flight} {m : List Host.Cell} (h : f.framePos = 1) :
    f.nextCode m = BitVec.ofNat 9 (Nat.min f.cue.body.frameSize (f.cue.body.sendLength - f.frameIx * f.cue.body.frameSize)) := by
  unfold Flight.nextCode
  split
  · next hzero => omega
  · rfl
  · next hone => exact absurd h hone

theorem Flight.nextCode_data {f : Flight} {m : List Host.Cell} (h : 2 ≤ f.framePos) : f.nextCode m = (Memory.read m f.dataAddr).setWidth 9 := by
  unfold Flight.nextCode
  split
  · next hzero => omega
  · next hone => omega
  · rfl

/-- A message is divided into frames of MESSAGE, a count and data characters. -/
theorem Flight.message_characters {f : Flight} (m : List Host.Cell) {bulk : Bool} {offset len chunk : Nat} {pacing : Pacing}
    (hbody : f.cue.body = .send bulk offset len pacing chunk) :
    let size := if bulk = false then len else if pacing = .whole then 255 else chunk
    let i := f.sent / (size + 2)
    let k := f.sent % (size + 2)
    let waits := k = 0 ∧ i ≠ 0 ∧ pacing ≠ .whole
    (k = 0 → f.nextCode m = 0x130) ∧ (k = 1 → f.nextCode m = BitVec.ofNat 9 (Nat.min size (len - i * size))) ∧
    (2 ≤ k → f.nextCode m = (Memory.read m ((if bulk = true then 0xC000 + offset else slotBase f.cue.slot + 17) + (i * size + (k - 2)))).setWidth 9) ∧
    (f.complete = true ↔ 2 * ((len + (size - 1)) / size) + len ≤ f.sent) ∧ (f.ready = true ↔ f.complete = false ∧ (waits → 0 < f.releases)) ∧
    f.started = { f with sent := f.sent + 1, releases := if waits then f.releases - 1 else f.releases } ∧
    f.framesLeft = (len + (size - 1)) / size - (if k = 0 then i else i + 1) := by
  have hlen : f.cue.body.sendLength = len := by rw [hbody]; rfl
  have hpacing : f.cue.body.pacing = pacing := by rw [hbody]; rfl
  have hsize := CueBody.frameSize_send hbody
  intro size i k waits
  have hix : f.frameIx = i := by rw [Flight.frameIx, hsize]
  have hpos : f.framePos = k := by rw [Flight.framePos, hsize]
  have hframes : f.cue.body.frames = (len + (size - 1)) / size := by rw [CueBody.frames, hlen, hsize]
  have hwaits : f.needsRelease = true ↔ waits := by rw [Flight.needsRelease_iff, hpos, hix, hpacing]
  refine ⟨fun hk => ?_, fun hk => ?_, fun hk => ?_, ?_, ?_, ?_, ?_⟩
  · exact Flight.nextCode_start (hpos.trans hk)
  · rw [Flight.nextCode_count (hpos.trans hk), hsize, hlen, hix]
  · rw [Flight.nextCode_data (by rw [hpos]; exact hk), Flight.dataAddr_send hbody, Flight.dataSent, hix, hpos, hsize]
  · rw [Flight.complete, decide_eq_true_iff, CueBody.chars, hframes, hlen]
  · rw [Flight.ready_iff, hwaits]
  · rw [Flight.started]
    simp only [hwaits]
  · rw [Flight.framesLeft, hframes, hpos, hix]

/-! ## The bits of a character (R131) -/

/-- A character is a start bit at space, nine data bits and a stop bit at mark. -/
theorem LineChar.level_bits (c : LineChar) (now : Time) :
    let e := (now - timeMinus c.ends 110).toNat
    (e < 10 → c.level now = false) ∧ (10 ≤ e → e < 100 → c.level now = c.code.getLsbD (e / 10 - 1)) ∧ (100 ≤ e → c.level now = true) := by
  intro e
  have hlevel : c.level now = charLevel 9 10 c.code.toNat e := rfl
  rw [hlevel, charLevel]
  refine ⟨fun h => if_pos (Nat.div_eq_of_lt h), fun hlow hhigh => ?_, fun h => ?_⟩
  · rw [if_neg (by omega), if_pos (by omega)]
    rfl
  · rw [if_neg (by omega), if_neg (by omega)]

/-- The wires of a STEP port are a complementary pair. -/
theorem Port.wires_step {x : Port} (h : x.settings.kind = .step) (now : Time) : x.wires now = (x.signal now, !x.signal now) ∧
    (∀ c, x.step.line = some c → x.signal now = c.level now) ∧ (x.step.line = none → x.frames.last = none → x.signal now = true) := by
  refine ⟨?_, fun c hline => ?_, fun hline hlast => ?_⟩
  · rw [Port.wires, h]
    exact if_pos (by simp)
  · rw [Port.signal, hline]
  · rw [Port.signal, hline, FrameLine.current, hlast]
    rfl

/-! ## The transmitter's choice (R135) -/

section
variable {s : StepLine} (hline : s.line = none) (m : List Host.Cell) (now : Time)
include hline

theorem StepLine.startNext_owes {c : BitVec 9} {rest : List (BitVec 9)} (htiming : s.timing = []) (howed : s.owed = c :: rest) :
    s.startNext m now = { s with line := some { code := c, ends := timePlus now 110 }, owed := rest } := by
  unfold StepLine.startNext
  rw [hline, htiming, howed]

theorem StepLine.startNext_message {f : Flight} {rest : List Flight} (htiming : s.timing = []) (howed : s.owed = []) (hqueue : s.queue = f :: rest)
    (hready : f.ready = true) : s.startNext m now = { s with line := some { code := f.nextCode m, ends := timePlus now 110 }, queue := f.started :: rest } := by
  unfold StepLine.startNext
  rw [hline, htiming, howed, hqueue]
  dsimp only
  rw [if_pos hready]

theorem StepLine.startNext_waits {f : Flight} {rest : List Flight} (htiming : s.timing = []) (howed : s.owed = []) (hqueue : s.queue = f :: rest)
    (hready : f.ready = false) : s.startNext m now = s := by
  unfold StepLine.startNext
  rw [hline, htiming, howed, hqueue]
  dsimp only
  rw [if_neg (by rw [hready]; decide)]

end

end Sys2Proof.Machine
end

section
/-! PROOFS. The end of a character (R131, R132, R135, R137 to R139, R143, R100). -/
namespace Sys2Proof.Machine

/-! ## Whether the command acts (R135, R143) -/

section
variable {s : State} {p : PortIx}

theorem operationOf_characterEnd (p : PortIx) (d : Device) : operationOf (.characterEnd p) d =
    if d.characterDue p = true then d.characterEnds p else if d.linkFree p = true then (d.choose p).waitingFrame p else d := rfl

theorem NoAccess.waitingFrame (p : PortIx) : NoAccess fun d => d.waitingFrame p :=
  NoAccess.ite (c := fun d => (d.port p).frameReady d.time = true) (NoAccess.modPort p fun d x =>
    { x with frames := { last := some { begin := d.time, house := d.mode == .house, levels := x.mixer.output, cut := none }, waiting := false } }) .id

theorem exec_characterEnd_idle (hdue : s.characterDue p = false) (hfree : s.linkFree p = false) : exec (.characterEnd p) s = .next s := by
  have hdue' : ¬ s.presenting.characterDue p = true := fun h => absurd (hdue.symm.trans h) (by decide)
  have hfree' : ¬ s.presenting.linkFree p = true := fun h => absurd (hfree.symm.trans h) (by decide)
  exact exec_of_noEffect rfl ((operationOf_characterEnd p _).trans ((if_neg hdue').trans (if_neg hfree')))

theorem exec_characterEnd_free (hdue : s.characterDue p = false) (hfree : s.linkFree p = true) :
    exec (.characterEnd p) s = .next { s with toDevice := (s.choose p).waitingFrame p } := by
  have hnext : NoAccess fun d => (d.choose p).waitingFrame p := NoAccess.comp (NoAccess.waitingFrame p) (NoAccess.choose p)
  have hop : ∀ l, operationOf (.characterEnd p) (s.toDevice.withArbiter l) = ((s.toDevice.withArbiter l).choose p).waitingFrame p := fun l => by
    have hdue' : ¬ (s.toDevice.withArbiter l).characterDue p = true := fun h => absurd (hdue.symm.trans h) (by decide)
    exact (operationOf_characterEnd p _).trans ((if_neg hdue').trans (if_pos hfree))
  rw [exec_eq]
  exact State.act_of_noAccess (hnext.arbiter s.toDevice) ((hop s.presented).trans (hnext s.toDevice s.presented))

theorem exec_characterEnd_due (hquiet : s.Quiet) (hdue : s.characterDue p = true) :
    exec (.characterEnd p) s = .next { s with toDevice := s.characterEnds p } := by
  have hop : operationOf (.characterEnd p) s.toDevice = s.characterEnds p := (operationOf_characterEnd p _).trans (if_pos hdue)
  have harb : (s.characterEnds p).arbiter = [] := (Keeps.characterEnds (n := 0) s.toDevice p).arbiter hquiet.idle
  rw [exec_of_quiet hquiet rfl (by rw [hop]; exact harb), hop]

end

section
variable {d : Device} {p : PortIx}

theorem Device.characterDue_some {l : LineChar} (h : (d.port p).step.line = some l) : d.characterDue p = timeReached d.time l.ends := by
  unfold Device.characterDue
  rw [h]

theorem Device.characterDue_none (h : (d.port p).step.line = none) : d.characterDue p = false := by
  unfold Device.characterDue
  rw [h]

theorem Device.linkFree_sending (h : (d.port p).sending d.time = true) : d.linkFree p = false := by
  rw [Device.linkFree, h]
  rfl

theorem Port.sending_line {x : Port} {l : LineChar} (h : x.step.line = some l) (now : Time) : x.sending now = true := by
  rw [Port.sending, h]
  rfl

/-- R143: a frame is on the line until its cut, and no longer. -/
theorem FrameLine.current_uncut {x : FrameLine} {f : Frame} {t now : Time} (hlast : x.last = some f) (hcut : f.cut = some t)
    (hyoung : (now - f.begin).toNat < 3900) (hbefore : ¬ 0 ≤ timeDiff now t) : (x.current now).isSome = true :=
  (FrameLine.current_isSome_iff x now).mpr ⟨f, hlast, hyoung, fun _ hu => Option.some.inj (hcut.symm.trans hu) ▸ hbefore⟩

theorem FrameLine.current_cut {x : FrameLine} {f : Frame} {t now : Time} (hlast : x.last = some f) (hcut : f.cut = some t) (hreached : 0 ≤ timeDiff now t) :
    (x.current now).isSome = false :=
  Bool.eq_false_iff.mpr fun h => by
    obtain ⟨g, hg, -, huncut⟩ := (FrameLine.current_isSome_iff x now).mp h
    rw [Option.some.inj (hg.symm.trans hlast)] at huncut
    exact huncut t hcut hreached

/-- The transmitter finds nothing to send. -/
theorem StepLine.hasNext_false {s : StepLine} (htiming : s.timing = []) (howed : s.owed = []) (hqueue : ∀ f, s.queue.head? = some f → f.ready = false) :
    s.hasNext = false := by
  unfold StepLine.hasNext
  rw [htiming, howed]
  split
  · next f hf => rw [hqueue f hf]; rfl
  · rfl

theorem Device.waitingFrame_idle (h : (d.port p).frameReady d.time = false) : d.waitingFrame p = d := if_neg (by rw [h]; decide)

theorem Port.frameReady_noWait {x : Port} (h : x.frames.waiting = false) (now : Time) : x.frameReady now = false := by
  rw [Port.frameReady, h]
  rfl

theorem Port.frameReady_sending {x : Port} {now : Time} (h : x.sending now = true) : x.frameReady now = false := by
  rw [Port.frameReady, h, Bool.not_true, Bool.and_false, Bool.false_and]

end

/-! ## While the line is free: a cut frame, and nothing to send -/

section
variable {s : State} {p : PortIx} (hline : (s.port p).step.line = none)
include hline

theorem exec_characterEnd_nothing (htiming : (s.port p).step.timing = []) (howed : (s.port p).step.owed = [])
    (hqueue : ∀ f, (s.port p).step.queue.head? = some f → f.ready = false) (hwaiting : (s.port p).frames.waiting = false) : exec (.characterEnd p) s = .next s := by
  refine exec_characterEnd_idle (Device.characterDue_none hline) ?_
  rw [Device.linkFree, StepLine.hasNext_false htiming howed hqueue, Port.frameReady_noWait hwaiting, Bool.or_false, Bool.and_false]

variable {f : Frame} {t : Time} (hlast : (s.port p).frames.last = some f) (hcut : f.cut = some t)
include hlast hcut

theorem exec_characterEnd_uncut (hyoung : (s.time - f.begin).toNat < 3900) (hbefore : ¬ 0 ≤ timeDiff s.time t) : exec (.characterEnd p) s = .next s := by
  refine exec_characterEnd_idle (Device.characterDue_none hline) (Device.linkFree_sending ?_)
  rw [Port.sending, FrameLine.current_uncut hlast hcut hyoung hbefore, Bool.or_true]

variable (hreached : 0 ≤ timeDiff s.time t)
include hreached

theorem Port.sending_cut : (s.port p).sending s.time = false := by
  rw [Port.sending, hline, FrameLine.current_cut hlast hcut hreached]
  rfl

/-- A character that has waited for the last character of a cut frame is begun. -/
theorem exec_characterEnd_begins {c : TimingChar} {rest : List TimingChar} (htiming : (s.port p).step.timing = c :: rest) :
    ∃ d : Device, exec (.characterEnd p) s = .next { s with toDevice := d } ∧ (∀ q, q ≠ p → d.port q = s.port q) ∧ d.mem = s.mem ∧
      (d.port p).step.line = some { code := c.code, ends := timePlus s.time 110 } ∧ (d.port p).step.timing = rest ∧
      (d.port p).step.queue = (s.port p).step.queue := by
  have hfree : s.linkFree p = true := by
    rw [Device.linkFree, Port.sending_cut hline hlast hcut hreached, StepLine.hasNext, htiming]
    rfl
  have hstep : ((s.choose p).port p).step =
      { (s.port p).step with line := some { code := c.code, ends := timePlus s.time 110 }, timing := rest, form := (s.port p).step.form.noteStart c } := by
    rw [Device.choose, Device.port_modPort_same, StepLine.startNext_timing hline htiming]
  have hbusy : ((s.choose p).port p).frameReady (s.choose p).time = false := Port.frameReady_sending (Port.sending_line (by rw [hstep]) _)
  refine ⟨s.choose p, ?_, fun q hq => (Local.choose p s.toDevice).ports q hq, rfl, by rw [hstep], by rw [hstep], by rw [hstep]⟩
  rw [exec_characterEnd_free (Device.characterDue_none hline) hfree, Device.waitingFrame_idle hbusy]

/-- A first frame that has waited for it is begun. -/
theorem exec_characterEnd_frame (htiming : (s.port p).step.timing = []) (howed : (s.port p).step.owed = []) (hqueue : (s.port p).step.queue = [])
    (hwaiting : (s.port p).frames.waiting = true) : exec (.characterEnd p) s = .next { s with toDevice := s.beginFrame p } := by
  have hready : (s.port p).frameReady s.time = true := by
    rw [Port.frameReady, hwaiting, Port.sending_cut hline hlast hcut hreached, howed]
    rfl
  have hfree : s.linkFree p = true := by
    rw [Device.linkFree, Port.sending_cut hline hlast hcut hreached, hready, Bool.or_true]
    rfl
  have hchoose : s.choose p = s.toDevice := Device.modPort_eq_self (by rw [StepLine.startNext_none hline htiming howed hqueue])
  rw [exec_characterEnd_free (Device.characterDue_none hline) hfree, hchoose, Device.waitingFrame, if_pos hready]

end

/-! ## The end of a message (R139, R100) -/

section
variable {d : Device} {p : PortIx}

/-- The device with the line of port p free. -/
def Device.freed (d : Device) (p : PortIx) : Device := d.modPort p fun x => { x with step := { x.step with line := none } }

/-- The device with the head SEND of port p gone. -/
def Device.headGone (d : Device) (p : PortIx) (rest : List Flight) : Device := d.modPort p fun x => { x with step := { x.step with queue := rest } }

/-- The SEND of a message that has been sent whole. -/
def Flight.sentWhole (f : Flight) : Cue := { f.cue with bytes := f.cue.body.sendLength }.afterFire f.pi f.time

theorem Device.characterEnds_eq (d : Device) (p : PortIx) : d.characterEnds p = (((d.freed p).messageEnd p).choose p).waitingFrame p := rfl

theorem Device.messageEnd_incomplete (h : ∀ f, (d.port p).step.queue.head? = some f → f.complete = false) : d.messageEnd p = d := by
  unfold Device.messageEnd
  split
  · rfl
  · next f rest hqueue =>
    rw [h f (by rw [hqueue]; rfl)]
    rfl

theorem Device.messageEnd_complete {f : Flight} {rest : List Flight} (hqueue : (d.port p).step.queue = f :: rest) (hcomplete : f.complete = true) :
    d.messageEnd p = (d.headGone p rest).settleAttempt p f.sentWhole := by
  unfold Device.messageEnd
  rw [hqueue]
  dsimp only
  rw [if_pos hcomplete]
  rfl

/-- The end of a message leaves the port's frames as they were. -/
theorem Device.messageEnd_frames (d : Device) (p : PortIx) : ((d.messageEnd p).port p).frames = (d.port p).frames := by
  by_cases h : ∃ f rest, (d.port p).step.queue = f :: rest ∧ f.complete = true
  · obtain ⟨f, rest, hqueue, hcomplete⟩ := h
    rw [Device.messageEnd_complete hqueue hcomplete, (Recues.settleAttempt p _ _).port, Device.headGone, Device.port_modPort_same]
  · rw [Device.messageEnd_incomplete fun f hf => Bool.eq_false_iff.mpr fun hc => h ?_]
    obtain ⟨rest, hrest⟩ := List.head?_eq_some_iff.mp hf
    exact ⟨f, rest, hrest, hc⟩

/-- With no frame waiting the transmitter's choice is the last step. -/
theorem Device.characterEnds_chooses (hwaiting : (d.port p).frames.waiting = false) : d.characterEnds p = ((d.freed p).messageEnd p).choose p := by
  have hframes : ((((d.freed p).messageEnd p).choose p).port p).frames = (d.port p).frames := by
    rw [Device.choose, Device.port_modPort_same]
    show (((d.freed p).messageEnd p).port p).frames = _
    rw [Device.messageEnd_frames, Device.freed, Device.port_modPort_same]
  rw [Device.characterEnds_eq, Device.waitingFrame_idle (Port.frameReady_noWait (by rw [hframes]; exact hwaiting) _)]

/-- A SEND with its last attempt fired ends. -/
theorem Device.settleAttempt_last {f : Flight} (hleft : f.cue.left = some 1) :
    d.settleAttempt p f.sentWhole = d.endCue f.sentWhole stFired .none f.pi f.time := by
  have hspent : f.sentWhole.left = some 0 := by
    show f.cue.left.map (· - 1) = some 0
    rw [hleft]
    rfl
  rw [Device.settleAttempt_spent d p hspent, Device.endAttempts_fired (k := f.pi) (t := f.time) d rfl]

theorem Device.finishSlot_slotState {n st : Nat} (hquiet : d.arbiter = []) (hmem : d.MemOk) (hst : st < 256) (r : Result) : (d.finishSlot n st r).slotState n = st := by
  obtain ⟨m, v, hm, hm1, -⟩ := Device.finishSlot_mem hquiet n st r
  have hmap : mapBase + n / 8 < slotBase n := by unfold mapBase slotBase; omega
  rw [Device.slotState, Device.peek, hm, Memory.readLE_write_outside 1 m v (by omega), hm1, Memory.readLE_writeLE_same 1 _ _ (Device.writeResult_wf d n r hmem)]
  exact Nat.mod_eq_of_lt hst

/-- A repeating SEND whose next due PI still lies ahead is re-armed there. -/
theorem Device.settled_again {c : Cue} (hleft : c.left ≠ some 0) (hmax : c.due + c.interval * 96 ≤ maxPI)
    (href : d.planner.transport = .stopped ∨ d.refPoint p ≤ c.due + c.interval * 96) :
    d.settled p c = { cue := { c with due := c.due + c.interval * 96, mark := d.markAt p }, ends := false } := by
  by_cases hrun : d.planner.transport = .stopped
  · unfold Device.settled Device.rearmed
    rw [if_neg hleft, if_neg (Nat.not_lt.mpr hmax)]
    dsimp only
    rw [if_pos (by simp [Device.runUnderWay, hrun])]
  · exact Device.settled_rearms hrun hleft hmax (href.resolve_left hrun)

end

end Sys2Proof.Machine
end

section
/-! PROOFS. The end of a character on the line (R135, R137 to R139, R100): what the transmitter sends next, and the end of a message. -/
namespace Sys2Proof.Machine

/-- The Step Link with its line free and this queue. -/
def StepLine.freed (x : StepLine) (queue : List Flight) : StepLine := { x with line := none, queue := queue }

/-- The device the character's end leaves to the transmitter's choice, and the choice. -/
structure State.CharacterEnds (s : State) (p : PortIx) (e d : Device) : Prop where
  runs : exec (.characterEnd p) s = .next { s with toDevice := d }
  ended : e = (s.freed p).messageEnd p
  others : ∀ q, q ≠ p → d.port q = s.port q
  mem : d.mem = e.mem
  prot : d.prot = e.prot
  cues : (d.port p).cues = (e.port p).cues
  step : (d.port p).step = (e.port p).step.startNext d.mem s.time

theorem exec_characterEnd_ends {s : State} {p : PortIx} {l : LineChar} (hline : (s.port p).step.line = some l) (hends : 0 ≤ timeDiff s.time l.ends)
    (hwaiting : (s.port p).frames.waiting = false) (hquiet : s.Quiet) : ∃ e d : Device, s.CharacterEnds p e d := by
  have hlocal : Local p s.toDevice ((s.freed p).messageEnd p) := (Local.modPort p _ _).trans (.messageEnd p _)
  have htime : ((s.freed p).messageEnd p).time = s.time := (Keeps.messageEnd (n := 0) (s.freed p) p).time
  refine ⟨(s.freed p).messageEnd p, ((s.freed p).messageEnd p).choose p, ?_, rfl, (hlocal.trans (.choose p _)).ports, rfl, rfl, ?_, ?_⟩
  · rw [exec_characterEnd_due hquiet (by rw [Device.characterDue_some hline, timeReached_iff]; exact hends), Device.characterEnds_chooses hwaiting]
  · rw [Device.choose, Device.port_modPort_same]
  · generalize (s.freed p).messageEnd p = e at *
    rw [← htime, Device.choose, Device.port_modPort_same]
    rfl

/-- The slot of a cue that enters a list keeps its state and takes the cue's due PI. -/
theorem Device.enterList_reads {d : Device} {p : PortIx} (hquiet : d.arbiter = []) (hmem : d.MemOk) (x : Cue) :
    (d.enterList p x).field x.slot 52 4 = x.due % 4294967296 ∧ (d.enterList p x).slotState x.slot = d.slotState x.slot :=
  Device.writeProgress_reads (d := d.modPort p fun y => { y with cues := insertCue x y.cues }) hquiet hmem x x.due

section
variable {s : State} {p : PortIx} {e d : Device} (h : s.CharacterEnds p e d)
include h

theorem State.CharacterEnds.stays (hhead : ∀ f, (s.port p).step.queue.head? = some f → f.complete = false) :
    (d.port p).step = ((s.port p).step.freed (s.port p).step.queue).startNext d.mem s.time ∧ d.mem = s.mem := by
  have hfreed : ((s.freed p).port p).step = { (s.port p).step with line := none } := by rw [Device.freed, Device.port_modPort_same]
  have hsame : e = s.freed p := h.ended.trans (Device.messageEnd_incomplete (by rw [hfreed]; exact hhead))
  have hmem : d.mem = s.mem := by
    rw [h.mem, hsame]
    rfl
  refine ⟨?_, hmem⟩
  rw [h.step, hsame, hfreed]
  rfl

variable {f : Flight} {rest : List Flight} (hqueue : (s.port p).step.queue = f :: rest) (hcomplete : f.complete = true)
include hqueue hcomplete

/-- The message's attempt is settled on a device whose port p has the queue without its head. -/
theorem State.CharacterEnds.settles : ∃ g : Device, e = g.settleAttempt p f.sentWhole ∧ g.mem = s.mem ∧ g.arbiter = s.arbiter ∧ g.planner = s.planner ∧
    g.port p = { s.port p with step := { (s.port p).step with line := none, queue := rest } } := by
  have hfreed : ((s.freed p).port p).step = { (s.port p).step with line := none } := by rw [Device.freed, Device.port_modPort_same]
  refine ⟨(s.freed p).headGone p rest, h.ended.trans (Device.messageEnd_complete (by rw [hfreed]; exact hqueue) hcomplete), rfl, rfl, rfl, ?_⟩
  rw [Device.headGone, Device.port_modPort_same, Device.freed, Device.port_modPort_same]

/-- R139: the last attempt of a SEND ends FIRED, and the queue goes on without it. -/
theorem State.CharacterEnds.ends (hquiet : s.Quiet) (hmem : s.MemOk) (hleft : f.cue.left = some 1) :
    d.slotState f.cue.slot = stFired ∧
      (d.port p).step = ((s.port p).step.freed rest).startNext d.mem s.time ∧
      (f.cue.slot < 512 → d.Shows f.cue.slot stFired
        { reason := .none, flags := f.cue.flags, revision := f.sentWhole.revision, firePI := f.pi, fireTime := timeLow32 f.time, fired := satInc f.cue.fired,
          aux := f.sentWhole.aux }) := by
  obtain ⟨g, hg, hgmem, hgarb, -, hgport⟩ := h.settles hqueue hcomplete
  have hgquiet : g.arbiter = [] := hgarb.trans hquiet.idle
  have hgok : g.MemOk := by rw [Device.MemOk, hgmem]; exact hmem
  rw [Device.settleAttempt_last hleft] at hg
  refine ⟨?_, ?_, fun hslot => ?_⟩
  · have hstate := Device.finishSlot_slotState (n := f.cue.slot) (st := stFired) hgquiet hgok (by decide)
    show Memory.readLE d.mem (slotBase f.cue.slot) 1 = stFired
    rw [h.mem, hg]
    exact hstate _
  · have hport : e.port p = g.port p := by
      rw [hg]
      exact Device.finishSlot_port _ _ _ _ _
    rw [h.step, hport, hgport]
    rfl
  · have hshows := Device.finishSlot_shows (n := f.cue.slot) (st := stFired) hgquiet
      { reason := .none, flags := f.cue.flags, revision := f.sentWhole.revision, firePI := f.pi, fireTime := timeLow32 f.time, fired := satInc f.cue.fired,
        aux := f.sentWhole.aux } hgok hslot (by decide)
    exact Device.Shows.of_mem (h.mem.trans (congrArg Device.mem hg)) (h.prot.trans (congrArg Device.prot hg)) hshows

/-- R100: a repeating SEND whose next due PI still lies ahead is re-armed in the port's list. -/
theorem State.CharacterEnds.rearms (hquiet : s.Quiet) (hmem : s.MemOk) (hzero : f.cue.left ≠ some 0) (hone : f.cue.left ≠ some 1)
    (hmax : f.cue.due + f.cue.interval * 96 ≤ 4294967295) (href : s.planner.transport = .stopped ∨ s.refPoint p ≤ f.cue.due + f.cue.interval * 96) :
    (d.port p).cues = insertCue { f.sentWhole with
        due := f.cue.due + f.cue.interval * 96, mark := if (s.port p).state.joined then (s.port p).join else none } (s.port p).cues ∧
      d.slotState f.cue.slot = s.slotState f.cue.slot ∧ d.field f.cue.slot 52 4 = (f.cue.due + f.cue.interval * 96) % 4294967296 := by
  obtain ⟨g, hg, hgmem, hgarb, hgplanner, hgport⟩ := h.settles hqueue hcomplete
  have hgref : g.refPoint p = s.refPoint p := by
    unfold Device.refPoint Device.runUnderWay Device.nextFirst
    rw [hgplanner, hgport]
  have hgmark : g.markAt p = if (s.port p).state.joined then (s.port p).join else none := by rw [Device.markAt, hgport]
  have hleft : f.sentWhole.left ≠ some 0 := by
    show f.cue.left.map (· - 1) ≠ some 0
    exact Option.map_pred_ne_zero hzero hone
  have hsettled := Device.settled_again (d := g) (p := p) (c := f.sentWhole) hleft hmax (by rw [hgplanner, hgref]; exact href)
  rw [hgmark] at hsettled
  obtain ⟨x, hx⟩ : ∃ x, x = { f.sentWhole with
    due := f.cue.due + f.cue.interval * 96, mark := if (s.port p).state.joined then (s.port p).join else none } := ⟨_, rfl⟩
  have hslot : x.slot = f.cue.slot := by rw [hx]; rfl
  have hdue : x.due = f.cue.due + f.cue.interval * 96 := by rw [hx]
  have hsettledX : g.settled p f.sentWhole = { cue := x, ends := false } := by
    rw [hx]
    exact hsettled
  rw [← hx]
  rw [Device.settle_rearms hsettledX] at hg
  obtain ⟨hfield, hstate⟩ := Device.enterList_reads (p := p) (hgarb.trans hquiet.idle) (by rw [Device.MemOk, hgmem]; exact hmem) x
  rw [hslot, ← hg] at hfield hstate
  refine ⟨?_, ?_, ?_⟩
  · rw [h.cues, hg, Device.enterList_port, if_pos rfl, hgport]
  · rw [Device.slotState, Device.peek, h.mem]
    refine hstate.trans ?_
    rw [Device.slotState, Device.peek, hgmem]
    rfl
  · rw [Device.field, Device.peek, h.mem, ← hdue]
    exact hfield

end

/-- Table 5-6: what a SEND sent whole shows of its revision and its byte count without repeats, and its revision with them. -/
theorem Flight.sentWhole_once {f : Flight} {b : Bool} {o len chunk : Nat} {pacing : Pacing} (hinterval : f.cue.interval = 0)
    (hbody : f.cue.body = .send b o len pacing chunk) : f.sentWhole.revision = f.cue.revision ∧ f.sentWhole.aux = f.cue.body.sendLength := by
  simp only [Flight.sentWhole, Cue.afterFire, Cue.aux, hinterval, hbody, ne_eq, not_true_eq_false, if_false, and_self]

theorem Flight.sentWhole_repeating {f : Flight} (hinterval : f.cue.interval ≠ 0) (due : Nat) (mark : Option Nat) :
    { f.sentWhole with due := due, mark := mark } = { f.cue with
      bytes := f.cue.body.sendLength, due := due, mark := mark, revision := if 65535 ≤ f.cue.revision then 1 else f.cue.revision + 1,
      fired := satInc f.cue.fired, left := f.cue.left.map (· - 1), lastFired := some (f.pi, f.time) } := by
  simp only [Flight.sentWhole, Cue.afterFire, if_pos hinterval, nextRevision, ge_iff_le]

/-- Settles O55: the transmitter's choice on the line as the character leaves it, the end of a message before it, and the characters themselves. -/
theorem characterEnd : Obligations.CharacterEnd := by
  refine ⟨fun s p => ⟨fun l hline hbefore => ?_, fun hline htiming howed hqueue hwaiting => exec_characterEnd_nothing hline htiming howed hqueue hwaiting,
    fun f t hline hlast hcut => ⟨exec_characterEnd_uncut hline hlast hcut, fun c rest hreached htiming =>
      exec_characterEnd_begins hline hlast hcut hreached htiming, exec_characterEnd_frame hline hlast hcut⟩, fun l hline hends hwaiting hquiet => ?_⟩,
    fun f m bulk offset len pacing chunk hbody => f.message_characters m hbody, LineChar.level_bits, fun x now hkind => Port.wires_step hkind now⟩
  · refine exec_characterEnd_idle ?_ (Device.linkFree_sending (Port.sending_line hline _))
    rw [Device.characterDue_some hline]
    exact Bool.eq_false_iff.mpr fun h => hbefore ((timeReached_iff _ _).mp h)
  obtain ⟨e, d, h⟩ := exec_characterEnd_ends hline hends hwaiting hquiet
  refine ⟨d, h.runs, h.others, fun c rest hhead htiming => ?_, fun c rest hhead htiming howed => ?_, fun f rest htiming howed hqueue hready => ?_,
    fun htiming howed hqueue => ?_, fun f htiming howed hqueue hcomplete hready => ?_,
    fun f htiming howed hqueue hcomplete hinterval hleft hslot hmem hsend => ?_, fun f g rest htiming howed hqueue hcomplete hinterval hleft hmem => ?_,
    fun f rest hqueue hcomplete hinterval hzero hone hmem => ?_⟩
  · obtain ⟨hstep, hmem⟩ := h.stays hhead
    rw [hstep, StepLine.startNext_timing (s := StepLine.freed _ _) rfl htiming]
    exact ⟨rfl, rfl, rfl, hmem⟩
  · obtain ⟨hstep, hmem⟩ := h.stays hhead
    rw [hstep, StepLine.startNext_owes (s := StepLine.freed _ _) rfl _ _ htiming howed]
    exact ⟨rfl, rfl, hmem⟩
  · obtain ⟨hstep, hmem⟩ := h.stays fun x hx => by
      rw [hqueue] at hx
      exact Option.some.inj hx ▸ ((Flight.ready_iff f).mp hready).1
    rw [hstep, StepLine.startNext_message (s := StepLine.freed _ _) rfl _ _ htiming howed hqueue hready, hmem]
    exact ⟨rfl, rfl, rfl⟩
  · obtain ⟨hstep, hmem⟩ := h.stays fun x hx => by
      rw [hqueue] at hx
      exact Option.noConfusion rfl (heq_of_eq hx)
    rw [hstep, StepLine.startNext_none (s := StepLine.freed _ _) rfl htiming howed hqueue]
    exact ⟨rfl, hmem⟩
  · obtain ⟨hstep, hmem⟩ := h.stays fun x hx => by
      rw [hqueue] at hx
      exact Option.some.inj hx ▸ hcomplete
    rw [hstep, StepLine.startNext_waits (s := StepLine.freed _ _) rfl _ _ htiming howed hqueue hready]
    rfl
  · obtain ⟨b, o, len, pacing, chunk, hbody⟩ := hsend
    obtain ⟨-, hstep, hshows⟩ := h.ends hqueue hcomplete hquiet hmem hleft
    obtain ⟨hrevision, haux⟩ := Flight.sentWhole_once hinterval hbody
    rw [hrevision, haux] at hshows
    rw [hstep, StepLine.startNext_none (s := StepLine.freed _ _) rfl htiming howed rfl]
    exact ⟨rfl, rfl, hshows hslot⟩
  · obtain ⟨hstate, hstep, -⟩ := h.ends hqueue hcomplete hquiet hmem hleft
    refine ⟨hstate, fun hready => ?_, fun hready => ?_⟩
    · rw [hstep, StepLine.startNext_message (s := StepLine.freed _ _) rfl _ _ htiming howed rfl hready]
      exact ⟨rfl, rfl⟩
    · rw [hstep, StepLine.startNext_waits (s := StepLine.freed _ _) rfl _ _ htiming howed rfl hready]
      exact ⟨rfl, rfl⟩
  · intro next hmax href
    have hrearms := h.rearms hqueue hcomplete hquiet hmem hzero hone hmax href
    rw [Flight.sentWhole_repeating hinterval] at hrearms
    exact hrearms

end Sys2Proof.Machine
end
